-- ==== Sys2Proof/Word.lean ====
section
/-! DEFINITION. The word types of the GW3 and the plainest operations on them (R2, R7, R8). -/

namespace Sys2Proof

/-- A scalar register, an address or a scratchpad word: 64 bits (R60). -/
abbrev Word := BitVec 64

/-- A byte of storage. -/
abbrev Byte := BitVec 8

/-- A vector register: 2,048 bits (R60). -/
abbrev VWord := BitVec 2048

/-- One bit per plane row: a tag column, a data column or the poison marks (R224). -/
abbrev PlaneColumn := BitVec 4096

end Sys2Proof
end

