-- ==== Sys2Proof/Syntax.lean ====
section
/-! DEFINITION. The instructions of the GW3 as syntax: one constructor for each row of the opcode table.
The first 201 constructors are instruction words (R98), with their operands as numbers and named codes; the
80 after them, from asyncTrapTake on, are the steps of the part's other agents, with their parameters. -/

namespace Sys2Proof

/-- Integer condition codes (R91). -/
inductive IntCond where
  | eq | ne | lt | ge | ltu | geu | gt | le | gtu | leu
deriving DecidableEq, Repr

/-- FP condition codes (R91). -/
inductive FpCond where
  | eq | ne | lt | ge | gt | le | un | or
deriving DecidableEq, Repr

/-- The condition of a `vcmp`: an integer code on an integer type, an FP code on an FP type (R484). -/
inductive LaneCond where
  | int (c : IntCond)
  | fp (c : FpCond)
deriving DecidableEq, Repr

/-- Lane-mask condition codes (R91). -/
inductive MaskCond where
  | any | all | none | nall
deriving DecidableEq, Repr

/-- Rounding modes (R116). -/
inductive Rounding where
  | rne | rtz | rdn | rup
deriving DecidableEq, Repr

/-- Fence scopes (R91, R289). -/
inductive Scope where
  | ctx | core | cluster | device | domain
deriving DecidableEq, Repr

/-- Fence kinds (R91). -/
inductive FenceKind where
  | full | rel | acq
deriving DecidableEq, Repr

/-- Drain paths (R91, R295). -/
inductive DrainPath where
  | vault | sp | remote | far | table
deriving DecidableEq, Repr

/-- Access widths of the scalar memory forms (R92). -/
inductive Width where
  | b | h | w | d
deriving DecidableEq, Repr

/-- Widths of `amo` and `cas`: 32 bits, 32 bits returned sign-extended, 64 bits (R348, R377). -/
inductive AtomWidth where
  | w | sw | d
deriving DecidableEq, Repr

/-- The operations of `amo` and `rpc.amo` (R348, R262). -/
inductive AmoOp where
  | add | and | or | xor | min | max | minu | maxu
deriving DecidableEq, Repr

/-- Element types ET 0 to 12 (R92). -/
inductive ElemType where
  | i32 | u32 | f32 | i16 | u16 | f16 | bf16 | i8 | u8 | e4m3 | e5m2 | i4 | e2m1
deriving DecidableEq, Repr

/-- The types of `fcvt` (R394). -/
inductive FcvtType where
  | f32 | f16 | bf16 | i32
deriving DecidableEq, Repr

/-- Reduction operations of `vred`, `vscan` and `grp.red` (R475, R247). -/
inductive RedOp where
  | add | min | max
deriving DecidableEq, Repr

/-- Types of `vred`, `vscan` and `grp.red`. -/
inductive RedType where
  | i32 | u32 | f32
deriving DecidableEq, Repr

/-- Vote operations (R247). -/
inductive VoteOp where
  | any | all | cnt
deriving DecidableEq, Repr

/-- The operand types of `mma`, A side first (R202). -/
inductive MmaType where
  | f16 | bf16 | i8 | e4m3 | e5m2 | e2m1 | e4m3e5m2 | e5m2e4m3
deriving DecidableEq, Repr

/-- How `ap.cmp` combines a match into its tag (R228). -/
inductive CmpComb where
  | set | and | or | andn
deriving DecidableEq, Repr

/-- The operations of `ap.tg` (R230). -/
inductive TagOp where
  | and | or | xor | andn | not | copy | set | clr
deriving DecidableEq, Repr

/-- Extension codes of the table queries (R219). -/
inductive Extend where
  | u | s | bf
deriving DecidableEq, Repr

/-- What a `tlb.inv` removes (R466). -/
inductive InvKind where
  | all | asid | page | ranges
deriving DecidableEq, Repr

/-- A guard `?qn` or `?!qn` on an engine command (R89). -/
structure Guard where
  neg : Bool
  slot : Nat
deriving DecidableEq, Repr

/-- What every engine command may carry: a guard and a completion word (R86, R89). -/
structure Eng where
  guard : Option Guard
  cw : Option Nat
deriving DecidableEq, Repr

/-- The form of an `rpc.put`: a width, or `.f`, which marks the word full (R262). -/
inductive PutForm where
  | plain (w : Width)
  | full
deriving DecidableEq, Repr

/-- The system registers of R63. `cdone`, `cfail`, `suspect`, `lc`, `ls` and `le` carry their index. -/
inductive SysReg where
  | coreId | physId | ctxId | clusterId | clCores | devId | jobId | asid | ts | cycle
  | status | epc | tcause | tval | tvec | ssp | sslim | scratch
  | orc | cdone (n : Nat) | cfail (n : Nat) | cdrainLimit | cfr | cfrPc
  | arbwin | vevMask | vevCount | vrefNext | vtemp | actAlertSrc
  | lc (n : Nat) | ls (n : Nat) | le (n : Nat)
  | apmpc | apsweep | fbufStat | suspect (n : Nat) | scanStat | scanSig
  | ringBase | ringSize | htabBase
deriving DecidableEq, Repr

/-- What a patrol scrub finds at a sector or row (R163, R186): nothing, an error it corrects, an error beyond the
code's reach, or a row with repeated errors. -/
inductive ScrubFinding where
  | clean | corrected | uncorrectable | rowFailing
deriving DecidableEq, Repr

/-- What a scratchpad access meets in its stripe (R161, R162). -/
inductive StripeFinding where
  | clean
  | badSymbol (bank : Nat)
  | selfTestFails (bank : Nat)
deriving DecidableEq, Repr

/-- What the beats of a vault request meet on a Welt (R182). -/
inductive BeatFinding where
  | clean | failedOnce | failedTwice
deriving DecidableEq, Repr

/-- A block that arrives over a Quemas link (R337). -/
structure GatewayBlock where
  asid : Nat
  index : Nat
  payload : List (BitVec 8)
  src : BitVec 64
deriving DecidableEq, Repr

/-- One line of a Welt that fails its test (R184, R188): Welt, segment and line. -/
structure WeltLine where
  welt : Nat
  seg : Nat
  line : Nat
deriving DecidableEq, Repr

/-- What the tests behind a reset find: the Quemas links that will not train, and the failing lines of the Welts by core (R188,
R189, R339). -/
structure ResetTests where
  links : List Nat
  lines : List (Nat × WeltLine)
deriving DecidableEq, Repr

/-- Every instruction and every step of the opcode table. Register operands are numbers in their class, in the
order D, A, B, C; branch offsets count 8-byte units. In the steps, `core` is a physical core. -/
inductive Instr where
  -- Control (class 0x000)
  | bcmp (cc : IntCond) (a b : Nat) (off : Int)
  | bpred (mc : MaskCond) (p : Nat) (off : Int)
  | br (off : Int)
  | brk (code : Nat)
  | call (off : Int)
  | callr (a : Nat)
  | fork (ns : Bool) (j : Nat) (off : Int)
  | hexit
  | hstart (d : Nat) (off : Int)
  | idle
  | join (w : Bool) (a : Nat) (off : Int)
  | jr (a : Nat)
  | lbrk (n : Nat)
  | loop (n c : Nat) (off : Int)
  | nop
  | qclr (q : Nat)
  | qset (q a : Nat)
  | ret
  | yield
  -- Integer and scalar FP (class 0x080)
  | add (d a b : Nat)
  | addi (d a : Nat) (imm : Int)
  | and (d a b : Nat)
  | andi (d a imm : Nat)
  | bext (d a pos w : Nat)
  | bins (d a pos w : Nat)
  | clz (d a : Nat)
  | cmp (cc : IntCond) (d a b : Nat)
  | div (d a b : Nat)
  | divu (d a b : Nat)
  | fadd (rm : Rounding) (d a b : Nat)
  | fcmp (fc : FpCond) (d a b : Nat)
  | fcvt (dst src : FcvtType) (rm : Rounding) (d a : Nat)
  | ffma (rm : Rounding) (d a b c : Nat)
  | fmax (d a b : Nat)
  | fmin (d a b : Nat)
  | fmul (rm : Rounding) (d a b : Nat)
  | fsub (rm : Rounding) (d a b : Nat)
  | lea (d a : Nat) (imm : Int)
  | leaPc (d : Nat) (imm : Int)
  | li (d : Nat) (imm : Int)
  | li64 (d imm : Nat)
  | madd (d a b c : Nat)
  | max (d a b : Nat)
  | maxu (d a b : Nat)
  | min (d a b : Nat)
  | minu (d a b : Nat)
  | mul (d a b : Nat)
  | mulh (d a b : Nat)
  | mulhu (d a b : Nat)
  | or (d a b : Nat)
  | ori (d a imm : Nat)
  | popc (d a : Nat)
  | rem (d a b : Nat)
  | remu (d a b : Nat)
  | rot (d a b : Nat)
  | sel (d a b c : Nat)
  | shl (d a b : Nat)
  | shlImm (d a n : Nat)
  | shr (d a b : Nat)
  | shrImm (d a n : Nat)
  | sra (d a b : Nat)
  | sraImm (d a n : Nat)
  | sub (d a b : Nat)
  | xor (d a b : Nat)
  | xori (d a imm : Nat)
  -- Scalar memory (class 0x100)
  | amo (op : AmoOp) (w : AtomWidth) (d a b : Nat)
  | cas (w : AtomWidth) (d a b c : Nat)
  | feclr (a : Nat) (off : Int)
  | feset (a : Nat) (off : Int)
  | ld (w : Width) (signed : Bool) (d a : Nat) (off : Int)
  | ldf (d a : Nat) (off : Int)
  | ldfe (d a : Nat) (off : Int)
  | ract (a : Nat) (off : Int)
  | rpre (a : Nat) (off : Int)
  | st (w : Width) (a : Nat) (off : Int) (b : Nat)
  | stef (a : Nat) (off : Int) (b : Nat)
  | stf (a : Nat) (off : Int) (b : Nat)
  -- Vector (class 0x180)
  | vabs (t : ElemType) (d a : Nat)
  | vadd (t : ElemType) (rm : Rounding) (d a b : Nat)
  | vand (d a b : Nat)
  | vbaq (t : ElemType) (nsat : Bool) (rm : Rounding) (d a b c : Nat)
  | vbc (t : ElemType) (d a : Nat)
  | vclamp (t : ElemType) (d a b c : Nat)
  | vcmp (t : ElemType) (cc : LaneCond) (d a b : Nat)
  | vcvt (dst : ElemType) (nsat : Bool) (rm : Rounding) (src : ElemType) (d a : Nat)
  | vdot (t : ElemType) (rm : Rounding) (d a b n : Nat)
  | vdqnt (t : ElemType) (d a b : Nat)
  | vext (d a lane : Nat)
  | vfma (t : ElemType) (rm : Rounding) (d a b c : Nat)
  | vgat (t : ElemType) (d a b : Nat)
  | vins (d a lane : Nat)
  | vld (d a : Nat) (off : Int)
  | vlds (t : ElemType) (d a b : Nat)
  | vmax (t : ElemType) (d a b : Nat)
  | vmin (t : ElemType) (d a b : Nat)
  | vmov (d a : Nat)
  | vmul (t : ElemType) (rm : Rounding) (d a b : Nat)
  | vneg (t : ElemType) (d a : Nat)
  | vor (d a b : Nat)
  | vpcnt (d p : Nat)
  | vperm (d a b : Nat)
  | vpfirst (d p : Nat)
  | vqnt (t : ElemType) (nsat : Bool) (rm : Rounding) (d a b : Nat)
  | vred (op : RedOp) (t : RedType) (d a : Nat)
  | vrot (d a n : Nat)
  | vsca (t : ElemType) (a b c : Nat)
  | vscan (op : RedOp) (t : RedType) (d a : Nat)
  | vsel (d a b p : Nat)
  | vshl (t : ElemType) (d a b : Nat)
  | vshr (t : ElemType) (d a b : Nat)
  | vst (a : Nat) (off : Int) (b : Nat)
  | vsub (t : ElemType) (rm : Rounding) (d a b : Nat)
  | vxor (d a b : Nat)
  -- Streams, tiles, matrix (class 0x200)
  | cbcfg (c base nslots : Nat) (ring : Bool) (eng : Eng)
  | cbrel (c n : Nat) (eng : Eng)
  | mdrain (t : ElemType) (acc a pitch rows cols : Nat) (eng : Eng)
  | mdrainr (i32 : Bool) (acc b accn : Nat) (eng : Eng)
  | mld (d a pitch : Nat) (eng : Eng)
  | mma (t : MmaType) (d ca offa cb offb : Nat) (kh : Bool) (eng : Eng)
  | mrecv (acc n c : Nat) (eng : Eng)
  | msa (d a b c : Nat) (eng : Eng)
  | mz (d : Nat) (eng : Eng)
  | mzPb (eng : Eng)
  | tld (t : ElemType) (c a pitch rows cols : Nat) (eng : Eng)
  | tst (c off a pitch : Nat) (eng : Eng)
  -- Plane and table (class 0x280)
  | apClr (off w : Nat) (eng : Eng)
  | apCmp (comb : CmpComb) (d a b : Nat) (eng : Eng)
  | apCnt (d a : Nat) (eng : Eng)
  | apFirst (d a : Nat) (eng : Eng)
  | apLd (a win : Nat) (eng : Eng)
  | apMax (d off w a : Nat) (eng : Eng)
  | apMcode (n a : Nat) (eng : Eng)
  | apRd (d a : Nat) (eng : Eng)
  | apSeq (n doff w soff k ct a : Nat) (eng : Eng)
  | apSt (a win : Nat) (eng : Eng)
  | apSweep (n a b doff w soff k ct c win : Nat) (eng : Eng)
  | apTg (op : TagOp) (d a b : Nat) (eng : Eng)
  | apWr (a b c : Nat) (eng : Eng)
  | apWrr (a b : Nat) (eng : Eng)
  | tqBind (d a b ew : Nat)
  | tqDot (signed : Bool) (d a b : Nat) (eng : Eng)
  | tqFnDir (x : Extend) (d a b : Nat) (eng : Eng)
  | tqFnSeg (d a b : Nat) (eng : Eng)
  | tqLk (x : Extend) (d a b : Nat) (eng : Eng)
  | tqPair (p8 : Bool) (x : Extend) (d a b c : Nat) (eng : Eng)
  -- Groups, messages, copies, ordering (class 0x300)
  | bind (h b c : Nat)
  | bindFe (a b c : Nat)
  | cwait (p ch a : Nat)
  | drain (path : DrainPath)
  | fence (kind : FenceKind) (scope : Scope)
  | grpArr (h : Nat)
  | grpArrd (h : Nat)
  | grpExp (h b : Nat)
  | grpJoin (h p a : Nat)
  | grpLeave (h : Nat)
  | grpNew (h p a quorum : Nat)
  | grpRed (op : RedOp) (t : RedType) (h b : Nat)
  | grpRes (d h : Nat)
  | grpStat (d h : Nat)
  | grpVote (op : VoteOp) (h b : Nat)
  | grpWait (h : Nat)
  | grpWdog (h b : Nat)
  | gwTake (d link : Nat)
  | hret
  | mpeek (d m : Nat)
  | mtake (d m : Nat)
  | qfence (mask : Nat)
  | rpcAmo (op : AmoOp) (dword : Bool) (a b : Nat) (eng : Eng)
  | rpcCall (nr : Bool) (a idx m b len : Nat) (eng : Eng)
  | rpcFence
  | rpcGet (w : Width) (signed : Bool) (m a : Nat) (eng : Eng)
  | rpcPut (form : PutForm) (a b : Nat) (hc : Option Nat) (eng : Eng)
  | rpcReply
  | sendm (a idx b : Nat) (eng : Eng)
  | tcopy (ch a d : Nat) (hc : Option Nat) (eng : Eng)
  | unbind (a : Nat)
  -- System (class 0x380)
  | cmap (a b : Nat)
  | cqResume
  | ctxRest (a : Nat)
  | ctxSave (a : Nat)
  | evwait (d : Nat)
  | fbufPop (d : Nat)
  | jsub (a b : Nat)
  | qrt (a : Nat)
  | redo
  | scanAbort
  | scanRun (a : Nat)
  | scanSig (d : Nat)
  | sret
  | sysr (d : Nat) (r : SysReg)
  | sysw (a : Nat) (r : SysReg)
  | syswStatus (a : Nat)
  | syswLoop (a : Nat) (r : SysReg)
  | syswVevCount (a : Nat)
  | syswCfail (a n : Nat)
  | syswFbufStat (a : Nat)
  | syswActAlertSrc (a : Nat)
  | syswSuspect (a n : Nat)
  | syswRing (a : Nat) (r : SysReg)
  | syswPlaneProgress (a : Nat) (r : SysReg)
  | tlbInv (a : Nat) (kind : InvKind)
  | tlbReplay
  | trap (code : Nat)
  | weltRestore
  | weltRetire (welt layer : Nat)
  -- Steps of the other agents
  | asyncTrapTake (core slot : Nat)
  | fetch (core slot : Nat)
  | taskStart (core : Nat)
  | stealRequest (core : Nat)
  | stealAnswer (core : Nat)
  | stealReceive (core : Nat)
  | stealBackoffExpiry (core : Nat)
  | partEnd (core : Nat)
  | guardResolveAtHead (core queue : Nat)
  | engineCommandStart (core queue : Nat)
  | engineCommandEnd (core queue : Nat)
  | jointCommandPerform (core : Nat)
  | qfenceBarrierPerform (core queue : Nat)
  | tileLoadDepart (core : Nat)
  | tileSlotCommit (core : Nat)
  | addInArrival (sender : Nat)
  | addInRetryNotice (sender : Nat)
  | sweepRowStage (core : Nat)
  | sweepArbTimeout (core : Nat)
  | scratchpadAccess (core n : Nat) (found : StripeFinding)
  | vaultRequestServe (core n : Nat) (found : BeatFinding)
  | refreshDue (core bank : Nat)
  | refreshEnd (core bank : Nat)
  | tempMeasure (core : Nat) (temps : List Nat)
  | patrolScrub (core offset : Nat) (found : ScrubFinding)
  | weltLaneRepair (core : Nat) (line : WeltLine)
  | weltReplayDone (core : Nat) (failing : List WeltLine)
  | pageWalkEnd (cluster n : Nat)
  | rangeTableRead (cluster asid : Nat)
  | messageArrival (n : Nat)
  | resourceFreeNotice (core n : Nat)
  | handlerReturnTrap (core handler : Nat)
  | handlerFault (core handler : Nat)
  | handlerEndNotice (n : Nat)
  | replyDelivery (n : Nat)
  | remoteFailureReport (n : Nat)
  | copyChunk (core ch : Nat)
  | copyWritePerformed (core ch : Nat)
  | transferComplete (core ch : Nat)
  | arrdRelease (core slot : Nat)
  | groupUpdate (unit n : Nat)
  | groupDeparture (unit n : Nat)
  | membershipPause (unit n : Nat)
  | watchdogFire (rid : Nat)
  | gatewayBlockArrival (link : Nat) (block : GatewayBlock)
  | linkCrcRetry (link : Nat)
  | linkFailure (link : Nat)
  | ident (tag : Nat)
  | status (tag : Nat)
  | submit (tag queue : Nat) (desc : List (BitVec 64))
  | cancel (tag job : Nat)
  | param (tag : Nat) (tbound : List Nat) (maxslice : Nat)
  | keys (tag : Nat) (set : List (Nat × BitVec 64)) (get : List Nat)
  | asidtab (tag asid : Nat) (ptroot : Option Nat) (rtab rcount : Nat) (tvec0 : BitVec 64)
  | load (tag : Nat) (pa : BitVec 64) (bytes : List (BitVec 8))
  | fwload (tag : Nat) (first : Bool) (piece : List (BitVec 8))
  | attest (tag nonce : Nat)
  | route (tag dev domain : Nat) (masks : List (Nat × BitVec 16)) (gateways : Nat)
  | debug (tag : Nat) (enable : Bool) (nonce : Nat) (signature : List (BitVec 8))
  | jobDue (job : Nat)
  | dxDispatch
  | preemptInterrupt (core : Nat)
  | saveBegin (core : Nat)
  | copyDrainExpiry (core : Nat)
  | restore (core : Nat)
  | cmapPerform (core : Nat) (selfTestPasses : Bool)
  | scanEnd (cluster : Nat) (sig : BitVec 64)
  | scanAbortStop (cluster : Nat)
  | powerOn (failing : List Nat) (lines : List (Nat × WeltLine))
  | coldReset (tests : ResetTests)
  | warmReset (tests : ResetTests)
  | routeWaitExpiry
  | dvfsChange (mv mhz : Nat)
  | junctionTempLimit (temp : Nat)
  | powerOff
  | maxsliceReached (core : Nat)
deriving DecidableEq, Repr, Inhabited

end Sys2Proof
end

