-- ==== Sys2Proof/WellFormed.lean ====
section
/-! DEFINITION. Which instructions are well formed: every operand within the range its form's rule gives
(R60, R88, R90-R92, R95 and the reference entries). A step of another agent is well formed when the units it
names exist. -/

namespace Sys2Proof

/-- A 16-bit signed immediate (R346). -/
def fitsS16 (i : Int) : Bool := decide (-32768 ≤ i) && decide (i ≤ 32767)

/-- A 32-bit signed immediate (R421). -/
def fitsS32 (i : Int) : Bool := decide (-2147483648 ≤ i) && decide (i ≤ 2147483647)

/-- A branch offset in 8-byte units: OFF28 (R83). -/
def fitsOff (i : Int) : Bool := decide (-134217728 ≤ i) && decide (i ≤ 134217727)

/-- The register classes of R60: an index is within its class. -/
def inG (n : Nat) : Bool := decide (n < 32)
def inV (n : Nat) : Bool := decide (n < 16)
def inP (n : Nat) : Bool := decide (n < 8)
def inH (n : Nat) : Bool := decide (n < 16)
def inTb (n : Nat) : Bool := decide (n < 4)
def inM (n : Nat) : Bool := decide (n < 32)
def inC (n : Nat) : Bool := decide (n < 8)
def inAcc (n : Nat) : Bool := decide (n < 4)
def inTg (n : Nat) : Bool := decide (n < 8)

def inG2 (a b : Nat) : Bool := inG a && inG b
def inG3 (a b c : Nat) : Bool := inG a && inG b && inG c
def inG4 (a b c d : Nat) : Bool := inG a && inG b && inG c && inG d
def inV2 (a b : Nat) : Bool := inV a && inV b
def inV3 (a b c : Nat) : Bool := inV a && inV b && inV c
def inV4 (a b c d : Nat) : Bool := inV a && inV b && inV c && inV d

/-- The guard and the completion word of an engine command (R86, R89). -/
def Eng.wf (e : Eng) : Bool :=
  (match e.guard with
   | none => true
   | some g => decide (g.slot < 16)) &&
  (match e.cw with
   | none => true
   | some i => decide (i < 65536))

namespace ElemType

/-- The element type code ET (R92). -/
def code : ElemType → Nat
  | i32 => 0 | u32 => 1 | f32 => 2 | i16 => 3 | u16 => 4 | f16 => 5 | bf16 => 6 | i8 => 7 | u8 => 8
  | e4m3 => 9 | e5m2 => 10 | i4 => 11 | e2m1 => 12

/-- Element width in bits. -/
def bits : ElemType → Nat
  | i32 => 32 | u32 => 32 | f32 => 32 | i16 => 16 | u16 => 16 | f16 => 16 | bf16 => 16 | i8 => 8 | u8 => 8
  | e4m3 => 8 | e5m2 => 8 | i4 => 4 | e2m1 => 4

/-- The floating-point types. -/
def isFp : ElemType → Bool
  | f32 => true | f16 => true | bf16 => true | e4m3 => true | e5m2 => true | e2m1 => true
  | i32 => false | u32 => false | i16 => false | u16 => false | i8 => false | u8 => false | i4 => false

/-- The signed integer types. -/
def isSigned : ElemType → Bool
  | i32 => true | i16 => true | i8 => true | i4 => true
  | u32 => false | u16 => false | u8 => false | f32 => false | f16 => false | bf16 => false | e4m3 => false
  | e5m2 => false | e2m1 => false

end ElemType

/-- The integer element types take no rounding mode (R92). -/
def rmFits (t : ElemType) (rm : Rounding) : Bool := t.isFp || decide (rm = Rounding.rne)

/-- `vadd`, `vsub`, `vmul`, `vmax`, `vmin`, `vclamp` and `vcmp`: ET 0 to 8 (R475). -/
def arithET (t : ElemType) : Bool := decide (t.code ≤ 8)
/-- `vfma` and `vdot` (R475). -/
def fmaET (t : ElemType) : Bool := decide (t ∈ [ElemType.f32, .f16, .bf16])
/-- `vabs` and `vneg` (R475). -/
def absET (t : ElemType) : Bool := decide (t ∈ [ElemType.i32, .f32, .i16, .f16, .bf16, .i8])
/-- `vshl` and `vshr` (R475). -/
def shiftET (t : ElemType) : Bool := decide (t ∈ [ElemType.i32, .u32, .i16, .u16, .i8, .u8])
/-- `vlds`, `vgat` and `vsca`: ET 0 to 10 (R475). -/
def memET (t : ElemType) : Bool := decide (t.code ≤ 10)
/-- `vqnt`, `vdqnt` and `vbaq` (R475). -/
def quantET (t : ElemType) : Bool := decide (t ∈ [ElemType.i8, .e4m3, .e5m2, .i4, .e2m1])
/-- `mdrain` (R427). -/
def drainET (t : ElemType) : Bool :=
  decide (t ∈ [ElemType.i32, .f32, .f16, .bf16, .i8, .e4m3, .e5m2, .i4, .e2m1])
/-- `tld` (R468). -/
def tileET (t : ElemType) : Bool := decide (t ∈ [ElemType.f16, .bf16, .i8, .e4m3, .e5m2, .e2m1])

/-- `.nsat` exists for E4M3 and E5M2 destinations only (R120). -/
def nsatFits (t : ElemType) (nsat : Bool) : Bool := !nsat || decide (t ∈ [ElemType.e4m3, .e5m2])

/-- Elements per 64-byte tile row (R198). -/
def tileRowElems (t : ElemType) : Nat := 512 / t.bits

/-- A plane field within the 256 columns (R225). -/
def fieldFits (off w : Nat) : Bool := decide (off < 256) && decide (1 ≤ w) && decide (w ≤ 256) && decide (off + w ≤ 256)

/-- A `vcmp` code on its type: an FP code on an FP type, an integer code on an integer type (R484). -/
def laneCondFits (t : ElemType) : LaneCond → Bool
  | .int _ => !t.isFp
  | .fp _ => t.isFp

/-- A bit field of `bext` and `bins` (R368). -/
def bitFieldFits (pos w : Nat) : Bool := decide (pos < 64) && decide (1 ≤ w) && decide (pos + w ≤ 64)

namespace SysReg

/-- The registers written by the plain `sysw` row: those whose writes no row of their own governs. -/
def plainWrite : SysReg → Bool
  | status => false
  | vevCount => false
  | cfail _ => false
  | fbufStat => false
  | actAlertSrc => false
  | suspect _ => false
  | ringBase => false | ringSize => false | htabBase => false
  | apmpc => false | apsweep => false
  | lc _ => false | ls _ => false | le _ => false
  | _ => true

def isLoop : SysReg → Bool
  | lc _ => true | ls _ => true | le _ => true
  | _ => false

def isRing : SysReg → Bool
  | ringBase => true | ringSize => true | htabBase => true
  | _ => false

def isPlaneProgress : SysReg → Bool
  | apmpc => true | apsweep => true
  | _ => false

/-- The index of an indexed register is in the range of R63. -/
def wf : SysReg → Bool
  | cdone n => decide (n < 4)
  | cfail n => decide (n < 4)
  | lc n => decide (n < 2)
  | ls n => decide (n < 2)
  | le n => decide (n < 2)
  | suspect n => decide (n < 16)
  | _ => true

end SysReg

/-- A line of a Welt: two Welts of twelve segments of 512 data and 64 check lines (R20, R183). -/
def WeltLine.ok (l : WeltLine) : Bool := decide (l.welt < 2) && decide (l.seg < 12) && decide (l.line < 576)

/-- Physical cores, clusters and group units of the part (R9, R10). -/
def inPhys (n : Nat) : Bool := decide (n < 1200)
def inCluster (n : Nat) : Bool := decide (n < 48)
/-- Contexts of a core (R26), engine queues (R68) and handler contexts (R267). -/
def inCtx (n : Nat) : Bool := decide (n < 11)
def inQueue (n : Nat) : Bool := decide (n < 9)
def inHandler (n : Nat) : Bool := decide (n < 8)

namespace Instr

/-- The rows that are instruction words (R98); the others are steps of the part's other agents. -/
def isWord : Instr → Bool
  | asyncTrapTake _ _ => false | fetch _ _ => false | taskStart _ => false | stealRequest _ => false
  | stealAnswer _ => false | stealReceive _ => false | stealBackoffExpiry _ => false | partEnd _ => false
  | guardResolveAtHead _ _ => false | engineCommandStart _ _ => false | engineCommandEnd _ _ => false
  | jointCommandPerform _ => false | qfenceBarrierPerform _ _ => false | tileLoadDepart _ => false
  | tileSlotCommit _ => false | addInArrival _ => false | addInRetryNotice _ => false | sweepRowStage _ => false
  | sweepArbTimeout _ => false | scratchpadAccess _ _ _ => false | vaultRequestServe _ _ _ => false
  | refreshDue _ _ => false | refreshEnd _ _ => false | tempMeasure _ _ => false | patrolScrub _ _ _ => false
  | weltLaneRepair _ _ => false | weltReplayDone _ _ => false | pageWalkEnd _ _ => false
  | rangeTableRead _ _ => false | messageArrival _ => false | resourceFreeNotice _ _ => false
  | handlerReturnTrap _ _ => false | handlerFault _ _ => false | handlerEndNotice _ => false
  | replyDelivery _ => false | remoteFailureReport _ => false | copyChunk _ _ => false
  | copyWritePerformed _ _ => false | transferComplete _ _ => false | arrdRelease _ _ => false
  | groupUpdate _ _ => false | groupDeparture _ _ => false | membershipPause _ _ => false
  | watchdogFire _ => false | gatewayBlockArrival _ _ => false | linkCrcRetry _ => false | linkFailure _ => false
  | ident _ => false | status _ => false | submit _ _ _ => false | cancel _ _ => false | param _ _ _ => false
  | keys _ _ _ => false | asidtab _ _ _ _ _ _ => false | load _ _ _ => false | fwload _ _ _ => false
  | attest _ _ => false | route _ _ _ _ _ => false | debug _ _ _ _ => false | jobDue _ => false
  | dxDispatch => false | preemptInterrupt _ => false | saveBegin _ => false | copyDrainExpiry _ => false
  | restore _ => false | cmapPerform _ _ => false | scanEnd _ _ => false | scanAbortStop _ => false
  | powerOn _ _ => false | coldReset _ => false | warmReset _ => false | routeWaitExpiry => false
  | dvfsChange _ _ => false | junctionTempLimit _ => false | powerOff => false | maxsliceReached _ => false
  | _ => true

/-- Every operand within its range. -/
def wf : Instr → Bool
  | bcmp _ a b off => inG2 a b && fitsOff off
  | bpred _ p off => inP p && fitsOff off
  | br off => fitsOff off
  | brk code => decide (code < 65536)
  | call off => fitsOff off
  | callr a => inG a
  | fork _ j off => inG j && fitsOff off
  | hexit => true
  | hstart d off => inG d && fitsOff off
  | idle => true
  | join _ a off => inG a && fitsOff off
  | jr a => inG a
  | lbrk n => decide (n < 2)
  | loop n c off => decide (n < 2) && inG c && fitsOff off
  | nop => true
  | qclr q => decide (q < 16)
  | qset q a => decide (q < 16) && inG a
  | ret => true
  | yield => true
  | add d a b => inG3 d a b
  | addi d a imm => inG2 d a && fitsS16 imm
  | and d a b => inG3 d a b
  | andi d a imm => inG2 d a && decide (imm < 65536)
  | bext d a pos w => inG2 d a && bitFieldFits pos w
  | bins d a pos w => inG2 d a && bitFieldFits pos w
  | clz d a => inG2 d a
  | cmp _ d a b => inG3 d a b
  | div d a b => inG3 d a b
  | divu d a b => inG3 d a b
  | fadd _ d a b => inG3 d a b
  | fcmp _ d a b => inG3 d a b
  | fcvt dst src _ d a => inG2 d a && decide (dst ≠ src)
  | ffma _ d a b c => inG4 d a b c
  | fmax d a b => inG3 d a b
  | fmin d a b => inG3 d a b
  | fmul _ d a b => inG3 d a b
  | fsub _ d a b => inG3 d a b
  | lea d a imm => inG2 d a && fitsS32 imm
  | leaPc d imm => inG d && fitsS32 imm
  | li d imm => inG d && fitsS32 imm
  | li64 d imm => inG d && decide (imm < 18446744073709551616)
  | madd d a b c => inG4 d a b c
  | max d a b => inG3 d a b
  | maxu d a b => inG3 d a b
  | min d a b => inG3 d a b
  | minu d a b => inG3 d a b
  | mul d a b => inG3 d a b
  | mulh d a b => inG3 d a b
  | mulhu d a b => inG3 d a b
  | or d a b => inG3 d a b
  | ori d a imm => inG2 d a && decide (imm < 65536)
  | popc d a => inG2 d a
  | rem d a b => inG3 d a b
  | remu d a b => inG3 d a b
  | rot d a b => inG3 d a b
  | sel d a b c => inG4 d a b c
  | shl d a b => inG3 d a b
  | shlImm d a n => inG2 d a && decide (n < 64)
  | shr d a b => inG3 d a b
  | shrImm d a n => inG2 d a && decide (n < 64)
  | sra d a b => inG3 d a b
  | sraImm d a n => inG2 d a && decide (n < 64)
  | sub d a b => inG3 d a b
  | xor d a b => inG3 d a b
  | xori d a imm => inG2 d a && decide (imm < 65536)
  | amo _ _ d a b => inG3 d a b
  | cas _ d a b c => inG4 d a b c
  | feclr a off => inG a && fitsS16 off
  | feset a off => inG a && fitsS16 off
  | ld w signed d a off => inG2 d a && fitsS16 off && (!signed || decide (w ≠ Width.d))
  | ldf d a off => inG2 d a && fitsS16 off
  | ldfe d a off => inG2 d a && fitsS16 off
  | ract a off => inG a && fitsS16 off
  | rpre a off => inG a && fitsS16 off
  | st _ a off b => inG2 a b && fitsS16 off
  | stef a off b => inG2 a b && fitsS16 off
  | stf a off b => inG2 a b && fitsS16 off
  | vabs t d a => inV2 d a && absET t
  | vadd t rm d a b => inV3 d a b && arithET t && rmFits t rm
  | vand d a b => inV3 d a b
  | vbaq t nsat _ d a b c => inV3 d a b && inG c && quantET t && nsatFits t nsat
  | vbc _ d a => inV d && inG a
  | vclamp t d a b c => inV4 d a b c && arithET t
  | vcmp t cc d a b => inP d && inV2 a b && arithET t && laneCondFits t cc
  | vcvt dst nsat _ src d a => inV2 d a && nsatFits dst nsat && decide (dst ≠ src)
  | vdot t _ d a b n => inG d && inV2 a b && fmaET t && decide (n ≤ 64)
  | vdqnt t d a b => inV2 d a && inG b && quantET t
  | vext d a lane => inG d && inV a && decide (lane < 64)
  | vfma t _ d a b c => inV4 d a b c && fmaET t
  | vgat t d a b => inV2 d b && inG a && memET t && decide (d ≠ b)
  | vins d a lane => inV d && inG a && decide (lane < 64)
  | vld d a off => inV d && inG a && fitsS16 off
  | vlds t d a b => inV d && inG2 a b && memET t
  | vmax t d a b => inV3 d a b && arithET t
  | vmin t d a b => inV3 d a b && arithET t
  | vmov d a => inV2 d a
  | vmul t rm d a b => inV3 d a b && arithET t && rmFits t rm
  | vneg t d a => inV2 d a && absET t
  | vor d a b => inV3 d a b
  | vpcnt d p => inG d && inP p
  | vperm d a b => inV3 d a b
  | vpfirst d p => inG d && inP p
  | vqnt t nsat _ d a b => inV2 d a && inG b && quantET t && nsatFits t nsat
  | vred _ _ d a => inG d && inV a
  | vrot d a n => inV2 d a && decide (n < 64)
  | vsca t a b c => inG a && inV2 b c && memET t
  | vscan _ _ d a => inV2 d a
  | vsel d a b p => inV3 d a b && inP p
  | vshl t d a b => inV3 d a b && shiftET t
  | vshr t d a b => inV3 d a b && shiftET t
  | vst a off b => inG a && inV b && fitsS16 off
  | vsub t rm d a b => inV3 d a b && arithET t && rmFits t rm
  | vxor d a b => inV3 d a b
  | cbcfg c base nslots ring e =>
      inC c && decide (base < 128) && decide (base + nslots ≤ 128) && decide (ring = true ↔ nslots ≠ 0) && e.wf
  | cbrel c n e => inC c && decide (n ≤ 128) && e.wf
  | mdrain t acc a pitch rows cols e =>
      inAcc acc && inG a && drainET t && decide (pitch < 65536) && decide (rows ≤ 32) && decide (cols ≤ 32) &&
      (decide (t.bits ≠ 4) || decide (cols % 2 = 0)) && e.wf
  | mdrainr _ acc b accn e => inAcc acc && inG b && inAcc accn && e.wf
  | mld d a pitch e => inAcc d && inG a && decide (pitch < 65536) && e.wf
  | mma t d ca offa cb offb kh e =>
      inAcc d && inC ca && inC cb && decide (offa < 128) && decide (offb < 128) &&
      (decide (t ≠ MmaType.e2m1) || decide (d = 0)) && (!kh || decide (t = MmaType.e2m1)) && e.wf
  | mrecv acc n c e => inAcc acc && decide (n < 65536) && inG c && e.wf
  | msa d a b c e => inAcc d && inG3 a b c && e.wf
  | mz d e => inAcc d && e.wf
  | mzPb e => e.wf
  | tld t c a pitch rows cols e =>
      inC c && inG a && tileET t && decide (pitch < 65536) && decide (rows ≤ 32) &&
      decide (cols ≤ tileRowElems t) && (decide (t ≠ ElemType.e2m1) || decide (cols % 2 = 0)) && e.wf
  | tst c off a pitch e => inC c && decide (off < 128) && inG a && decide (pitch < 65536) && e.wf
  | apClr off w e => fieldFits off w && e.wf
  | apCmp _ d a b e => inTg d && inV2 a b && e.wf
  | apCnt d a e => inG d && inTg a && e.wf
  | apFirst d a e => inG d && inTg a && e.wf
  | apLd a win e => inG a && decide (win < 64) && e.wf
  | apMax d off w a e => inG d && inTg a && fieldFits off w && decide (w ≤ 64) && e.wf
  | apMcode n a e => decide (8 ≤ n) && decide (n < 16) && inG a && e.wf
  | apRd d a e => inV d && inG a && e.wf
  | apSeq n doff w soff k ct a e =>
      decide (n < 16) && fieldFits doff w && fieldFits soff w && decide (k < 4096) && inTg ct && inTg a &&
      decide (ct ≠ a) && e.wf
  | apSt a win e => inG a && decide (win < 64) && e.wf
  | apSweep n a b doff w soff k ct c win e =>
      decide (n < 16) && inG2 a b && fieldFits doff w && fieldFits soff w && decide (k < 4096) && inTg ct &&
      inTg c && decide (ct ≠ c) && decide (win < 64) && e.wf
  | apTg op d a b e =>
      inTg d && inTg a && inTg b && e.wf &&
      (match op with
       | .not => decide (b = 0)
       | .copy => decide (b = 0)
       | .set => decide (a = 0) && decide (b = 0)
       | .clr => decide (a = 0) && decide (b = 0)
       | .and => true | .or => true | .xor => true | .andn => true)
  | apWr a b c e => inV2 a b && inTg c && e.wf
  | apWrr a b e => inG a && inV b && e.wf
  | tqBind d a b ew => inTb d && inG2 a b && decide (ew ∈ [4, 8, 16, 32])
  | tqDot _ d a b e => inV d && inTb a && inV b && decide (b % 2 = 0) && decide (d ≠ b) && decide (d ≠ b + 1) && e.wf
  | tqFnDir _ d a b e => inV d && inTb a && inV b && e.wf
  | tqFnSeg d a b e => inV d && inTb a && inV b && decide (d ≠ b) && e.wf
  | tqLk _ d a b e => inV d && inTb a && inV b && e.wf
  | tqPair _ _ d a b c e => inV d && inTb a && inV2 b c && e.wf
  | bind h b c => inH h && inG2 b c
  | bindFe a b c => inG3 a b c
  | cwait p ch a => inP p && decide (ch < 4) && inG a
  | drain _ => true
  | fence _ _ => true
  | grpArr h => inH h
  | grpArrd h => inH h
  | grpExp h b => inH h && inG b
  | grpJoin h p a => inH h && inP p && inG a
  | grpLeave h => inH h
  | grpNew h p a quorum => inH h && inP p && inG a && decide (quorum < 16384)
  | grpRed _ _ h b => inH h && inG b
  | grpRes d h => inG d && inH h
  | grpStat d h => inG d && inH h
  | grpVote _ h b => inH h && inG b
  | grpWait h => inH h
  | grpWdog h b => inH h && inG b
  | gwTake d link => inG d && decide (link < 16)
  | hret => true
  | mpeek d m => inG d && inM m
  | mtake d m => inG d && inM m
  | qfence mask => decide (0 < mask) && decide (mask < 512)
  | rpcAmo _ _ a b e => inG2 a b && e.wf
  | rpcCall nr a idx m b len e =>
      inG a && decide (idx < 64) && inM m && inG b && decide (len ≤ 256) && (!nr || decide (m = 0)) &&
      (decide (len ≠ 0) || decide (b = 0)) && e.wf
  | rpcFence => true
  | rpcGet w signed m a e => inM m && inG a && (!signed || decide (w ≠ Width.d)) && e.wf
  | rpcPut _ a b hc e =>
      inG2 a b && (match hc with
                   | none => true
                   | some h => inH h) && e.wf
  | rpcReply => true
  | sendm a idx b e => inG2 a b && decide (idx < 32) && e.wf
  | tcopy ch a d hc e =>
      decide (ch < 4) && inG2 a d && (match hc with
                                      | none => true
                                      | some h => inH h) && e.wf
  | unbind a => inG a
  | cmap a b => inG2 a b
  | cqResume => true
  | ctxRest a => inG a
  | ctxSave a => inG a
  | evwait d => inG d
  | fbufPop d => inG d
  | jsub a b => inG2 a b
  | qrt a => inG a
  | redo => true
  | scanAbort => true
  | scanRun a => inG a
  | scanSig d => inG d
  | sret => true
  | sysr d r => inG d && r.wf
  | sysw a r => inG a && r.wf && r.plainWrite
  | syswStatus a => inG a
  | syswLoop a r => inG a && r.wf && r.isLoop
  | syswVevCount a => inG a
  | syswCfail a n => inG a && decide (n < 4)
  | syswFbufStat a => inG a
  | syswActAlertSrc a => inG a
  | syswSuspect a n => inG a && decide (n < 16)
  | syswRing a r => inG a && r.isRing
  | syswPlaneProgress a r => inG a && r.isPlaneProgress
  | tlbInv a kind => inG a && (decide (kind ≠ InvKind.all) || decide (a = 0))
  | tlbReplay => true
  | trap code => decide (code < 65536)
  | weltRestore => true
  | weltRetire welt layer => decide (welt < 2) && decide (layer < 12)
  | asyncTrapTake core slot => inPhys core && inCtx slot
  | fetch core slot => inPhys core && decide (slot < 19)
  | taskStart core => inPhys core
  | stealRequest core => inPhys core
  | stealAnswer core => inPhys core
  | stealReceive core => inPhys core
  | stealBackoffExpiry core => inPhys core
  | partEnd core => inPhys core
  | guardResolveAtHead core q => inPhys core && inQueue q
  | engineCommandStart core q => inPhys core && inQueue q
  | engineCommandEnd core q => inPhys core && inQueue q
  | jointCommandPerform core => inPhys core
  | qfenceBarrierPerform core q => inPhys core && inQueue q
  | tileLoadDepart core => inPhys core
  | tileSlotCommit core => inPhys core
  | addInArrival sender => inPhys sender
  | addInRetryNotice sender => inPhys sender
  | sweepRowStage core => inPhys core
  | sweepArbTimeout core => inPhys core
  | scratchpadAccess core _ _ => inPhys core
  | vaultRequestServe core _ _ => inPhys core
  | refreshDue core _ => inPhys core
  | refreshEnd core _ => inPhys core
  | tempMeasure core temps => inPhys core && decide (temps.length = 12)
  | patrolScrub core _ _ => inPhys core
  | weltLaneRepair core l => inPhys core && l.ok
  | weltReplayDone core l => inPhys core && l.all (·.ok)
  | pageWalkEnd cluster _ => inCluster cluster
  | rangeTableRead cluster asid => inCluster cluster && decide (asid < 65536)
  | messageArrival _ => true
  | resourceFreeNotice core _ => inPhys core
  | handlerReturnTrap core handler => inPhys core && inHandler handler
  | handlerFault core handler => inPhys core && inHandler handler
  | handlerEndNotice _ => true
  | replyDelivery _ => true
  | remoteFailureReport _ => true
  | copyChunk core ch => inPhys core && decide (ch < 4)
  | copyWritePerformed core ch => inPhys core && decide (ch < 4)
  | transferComplete core ch => inPhys core && decide (ch < 4)
  | arrdRelease core slot => inPhys core && inCtx slot
  | groupUpdate unit _ => inCluster unit
  | groupDeparture unit _ => inCluster unit
  | membershipPause unit _ => inCluster unit
  | watchdogFire rid => decide (rid < 12288)
  | gatewayBlockArrival link _ => decide (link < 16)
  | linkCrcRetry link => decide (link < 16)
  | linkFailure link => decide (link < 16)
  | ident _ => true
  | status _ => true
  | submit _ queue desc => decide (queue < 64) && decide (desc.length = 16)
  | cancel _ _ => true
  | param _ _ _ => true
  | keys _ _ _ => true
  | asidtab _ asid _ _ _ _ => decide (asid < 65536)
  | load _ _ _ => true
  | fwload _ _ _ => true
  | attest _ _ => true
  | route _ _ _ _ _ => true
  | debug _ _ _ _ => true
  | jobDue _ => true
  | dxDispatch => true
  | preemptInterrupt core => inPhys core
  | saveBegin core => inPhys core
  | copyDrainExpiry core => inPhys core
  | restore core => inPhys core
  | cmapPerform core _ => inPhys core
  | scanEnd cluster _ => inCluster cluster
  | scanAbortStop cluster => inCluster cluster
  | powerOn failing lines => failing.all (fun k => decide (k < 16)) && lines.all (fun p => inPhys p.1 && p.2.ok)
  | coldReset x => x.links.all (fun k => decide (k < 16)) && x.lines.all (fun p => inPhys p.1 && p.2.ok)
  | warmReset x => x.links.all (fun k => decide (k < 16)) && x.lines.all (fun p => inPhys p.1 && p.2.ok)
  | routeWaitExpiry => true
  | dvfsChange _ _ => true
  | junctionTempLimit _ => true
  | powerOff => true
  | maxsliceReached core => inPhys core

end Instr

end Sys2Proof
end

