-- ==== Sys2Proof/Decode.lean ====
section
/-! DEFINITION. Decoding (R80-R98): a word's fields, the checks of R94 in their order, and the instruction it stands
for; and the encoder, written from the same encoding tables. -/

namespace Sys2Proof

/-- The fields of formats A, C and D (R82, R84). `hi` holds bits [127:64]. Format B views the same bits: its A is
`d`, its B is `a`, and COND, the reserved bits and OFF28 follow (R83). -/
structure Raw where
  len : Nat
  opc : Nat
  d : Nat
  a : Nat
  b : Nat
  c : Nat
  qs : Nat
  gn : Nat
  ge : Nat
  sub : Nat
  imm : Nat
  hi : Nat
deriving DecidableEq, Repr

/-- `n` bits of `w` from bit `lo`. -/
def fld (w lo n : Nat) : Nat := w / 2 ^ lo % 2 ^ n

/-- The two's complement value of an `n`-bit field. -/
def signedOf (n x : Nat) : Int := if x < 2 ^ (n - 1) then (x : Int) else (x : Int) - (2 ^ n : Nat)

/-- The `n`-bit field of a signed value. -/
def fieldOf (n : Nat) (i : Int) : Nat := (i % ((2 ^ n : Nat) : Int)).toNat

/-- The fields of a word (R82). -/
def unpack (w : Nat) : Raw :=
  { len := fld w 0 2, opc := fld w 2 10, d := fld w 12 6, a := fld w 18 6, b := fld w 24 6, c := fld w 30 6,
    qs := fld w 36 4, gn := fld w 40 1, ge := fld w 41 1, sub := fld w 42 6, imm := fld w 48 16, hi := fld w 64 64 }

/-- The word of the fields. -/
def pack (r : Raw) : Nat :=
  r.len + 4 * (r.opc + 1024 * (r.d + 64 * (r.a + 64 * (r.b + 64 * (r.c + 64 * (r.qs + 16 * (r.gn + 2 * (r.ge + 2 *
    (r.sub + 64 * (r.imm + 65536 * r.hi))))))))))

namespace Raw

/-- COND of format B (R83). -/
def cond (r : Raw) : Nat := r.b % 16
/-- Bits [35:28] of format B (R83). -/
def bRes (r : Raw) : Nat := r.b / 16 + 4 * r.c
/-- OFF28 of format B (R83). -/
def off28 (r : Raw) : Nat := r.qs + 16 * (r.gn + 2 * (r.ge + 2 * (r.sub + 64 * r.imm)))
/-- The branch offset in 8-byte units. -/
def off (r : Raw) : Int := signedOf 28 r.off28
/-- A signed IMM16. -/
def s16 (r : Raw) : Int := signedOf 16 r.imm
/-- IMM32 of format C (R84). -/
def imm32 (r : Raw) : Nat := fld r.hi 0 32
/-- Bits `n` from `lo` of the second word, `lo` counted from bit 64. -/
def h (r : Raw) (lo n : Nat) : Nat := fld r.hi lo n
/-- CWI and CWV (R86). -/
def cwi (r : Raw) : Nat := fld r.hi 47 16
def cwv (r : Raw) : Nat := fld r.hi 63 1
/-- The guard and completion word of an engine command (R86, R89). -/
def eng (r : Raw) : Eng :=
  { guard := if r.ge = 1 then some { neg := decide (r.gn = 1), slot := r.qs } else none,
    cw := if r.cwv = 1 then some r.cwi else none }

end Raw

/-- The four formats (R82-R84). -/
inductive Fmt where
  | a | b | c | d
deriving DecidableEq, Repr

/-- LEN of each format (R80). -/
def Fmt.len : Fmt → Nat
  | a => 1 | b => 1 | c => 2 | d => 3

/-- The register classes of the fields D, A, B and C: the class's size, none where the field is reserved (R88).
In format B only A and B exist. -/
structure Regs where
  d : Option Nat := none
  a : Option Nat := none
  b : Option Nat := none
  c : Option Nat := none

/-- One major form: its format, whether it is an engine command, and the checks of R94 steps 6 to 9 that its own
entry states, with the instruction its fields stand for. -/
structure Form where
  fmt : Fmt
  eng : Bool := false
  /-- Step 6: the variant is listed. -/
  sub : Raw → Bool := fun r => decide (r.sub = 0)
  /-- Step 7: the COND, IMM16 and ENG bits that the form leaves unassigned are zero. -/
  res : Raw → Bool := fun r => decide (r.imm = 0)
  /-- Steps 7 and 8: the class of each register field. -/
  regs : Raw → Regs := fun _ => {}
  /-- Step 8: the register field of a pairing the form forbids. -/
  pair : Raw → Option Nat := fun _ => none
  /-- Step 9: immediates in range. -/
  range : Raw → Bool := fun _ => true
  /-- The instruction. -/
  build : Raw → Option Instr

/-! ### Codes (R91, R92 and the entries) -/

def IntCond.list : List IntCond := [.eq, .ne, .lt, .ge, .ltu, .geu, .gt, .le, .gtu, .leu]
def IntCond.code : IntCond → Nat
  | eq => 0 | ne => 1 | lt => 2 | ge => 3 | ltu => 4 | geu => 5 | gt => 6 | le => 7 | gtu => 8 | leu => 9
def FpCond.ofCode : Nat → Option FpCond
  | 0 => some .eq | 1 => some .ne | 2 => some .lt | 3 => some .ge | 6 => some .gt | 7 => some .le
  | 10 => some .un | 11 => some .or
  | _ => none
def FpCond.code : FpCond → Nat
  | eq => 0 | ne => 1 | lt => 2 | ge => 3 | gt => 6 | le => 7 | un => 10 | or => 11
def MaskCond.list : List MaskCond := [.any, .all, .none, .nall]
def MaskCond.code : MaskCond → Nat
  | any => 0 | all => 1 | none => 2 | nall => 3
def Rounding.list : List Rounding := [.rne, .rtz, .rdn, .rup]
def Rounding.code : Rounding → Nat
  | rne => 0 | rtz => 1 | rdn => 2 | rup => 3
/-- The mode of a two-bit field. -/
def Rounding.ofBits (n : Nat) : Rounding := if n = 0 then .rne else if n = 1 then .rtz else if n = 2 then .rdn else .rup
def Scope.list : List Scope := [.ctx, .core, .cluster, .device, .domain]
def Scope.code : Scope → Nat
  | ctx => 0 | core => 1 | cluster => 2 | device => 3 | domain => 4
def FenceKind.list : List FenceKind := [.full, .rel, .acq]
def FenceKind.code : FenceKind → Nat
  | full => 0 | rel => 1 | acq => 2
def DrainPath.list : List DrainPath := [.vault, .sp, .remote, .far, .table]
def DrainPath.code : DrainPath → Nat
  | vault => 0 | sp => 1 | remote => 2 | far => 3 | table => 4
def Width.code : Width → Nat
  | b => 0 | h => 1 | w => 2 | d => 3
def Width.ofBits (n : Nat) : Width := if n = 0 then .b else if n = 1 then .h else if n = 2 then .w else .d
/-- SUB[2:0] of `amo` and `cas` (R348, R377). -/
def AtomWidth.ofCode : Nat → Option AtomWidth
  | 2 => some .w | 3 => some .d | 6 => some .sw
  | _ => none
def AtomWidth.code : AtomWidth → Nat
  | w => 2 | d => 3 | sw => 6
def AmoOp.list : List AmoOp := [.add, .and, .or, .xor, .min, .max, .minu, .maxu]
def AmoOp.code : AmoOp → Nat
  | add => 0 | and => 1 | or => 2 | xor => 3 | min => 4 | max => 5 | minu => 6 | maxu => 7
def ElemType.list : List ElemType :=
  [.i32, .u32, .f32, .i16, .u16, .f16, .bf16, .i8, .u8, .e4m3, .e5m2, .i4, .e2m1]
def FcvtType.list : List FcvtType := [.f32, .f16, .bf16, .i32]
def FcvtType.code : FcvtType → Nat
  | f32 => 0 | f16 => 1 | bf16 => 2 | i32 => 3
def RedOp.list : List RedOp := [.add, .min, .max]
def RedOp.code : RedOp → Nat
  | add => 0 | min => 1 | max => 2
def RedType.list : List RedType := [.i32, .u32, .f32]
def RedType.code : RedType → Nat
  | i32 => 0 | u32 => 1 | f32 => 2
def VoteOp.list : List VoteOp := [.any, .all, .cnt]
def VoteOp.code : VoteOp → Nat
  | any => 0 | all => 1 | cnt => 2
/-- SUB of `mma` (R202). -/
def MmaType.ofCode : Nat → Option MmaType
  | 5 => some .f16 | 6 => some .bf16 | 7 => some .i8 | 9 => some .e4m3 | 10 => some .e5m2 | 12 => some .e2m1
  | 13 => some .e4m3e5m2 | 14 => some .e5m2e4m3
  | _ => none
def MmaType.code : MmaType → Nat
  | f16 => 5 | bf16 => 6 | i8 => 7 | e4m3 => 9 | e5m2 => 10 | e2m1 => 12 | e4m3e5m2 => 13 | e5m2e4m3 => 14
def CmpComb.list : List CmpComb := [.set, .and, .or, .andn]
def CmpComb.code : CmpComb → Nat
  | set => 0 | and => 1 | or => 2 | andn => 3
def TagOp.list : List TagOp := [.and, .or, .xor, .andn, .not, .copy, .set, .clr]
def TagOp.code : TagOp → Nat
  | and => 0 | or => 1 | xor => 2 | andn => 3 | not => 4 | copy => 5 | set => 6 | clr => 7
def Extend.list : List Extend := [.u, .s, .bf]
def Extend.code : Extend → Nat
  | u => 0 | s => 1 | bf => 2
def InvKind.list : List InvKind := [.all, .asid, .page, .ranges]
def InvKind.code : InvKind → Nat
  | all => 0 | asid => 1 | page => 2 | ranges => 3

/-- System register numbers (R63). -/
def SysReg.number : SysReg → Nat
  | coreId => 0x000 | physId => 0x001 | ctxId => 0x002 | clusterId => 0x003 | clCores => 0x004 | devId => 0x005
  | jobId => 0x006 | asid => 0x007 | ts => 0x008 | cycle => 0x009
  | status => 0x010 | epc => 0x011 | tcause => 0x012 | tval => 0x013 | tvec => 0x014 | ssp => 0x015
  | sslim => 0x016 | scratch => 0x017
  | orc => 0x020 | cdone n => 0x021 + n | cfail n => 0x025 + n | cdrainLimit => 0x029 | cfr => 0x02A | cfrPc => 0x02B
  | arbwin => 0x030 | vevMask => 0x031 | vevCount => 0x032 | vrefNext => 0x033 | vtemp => 0x034
  | actAlertSrc => 0x035
  | lc n => 0x040 + 3 * n | ls n => 0x041 + 3 * n | le n => 0x042 + 3 * n
  | apmpc => 0x050 | apsweep => 0x051 | fbufStat => 0x060 | suspect n => 0x070 + n
  | scanStat => 0x080 | scanSig => 0x081 | ringBase => 0x090 | ringSize => 0x091 | htabBase => 0x092

/-- The register of a number of R63, none where R63 lists none. -/
def SysReg.ofNumber (n : Nat) : Option SysReg :=
  if n < 0x00A then
    [SysReg.coreId, .physId, .ctxId, .clusterId, .clCores, .devId, .jobId, .asid, .ts, .cycle][n]?
  else if n < 0x010 then none
  else if n < 0x018 then
    [SysReg.status, .epc, .tcause, .tval, .tvec, .ssp, .sslim, .scratch][n - 0x010]?
  else if n < 0x020 then none
  else if n < 0x021 then some .orc
  else if n < 0x025 then some (.cdone (n - 0x021))
  else if n < 0x029 then some (.cfail (n - 0x025))
  else if n < 0x02C then [SysReg.cdrainLimit, .cfr, .cfrPc][n - 0x029]?
  else if n < 0x030 then none
  else if n < 0x036 then
    [SysReg.arbwin, .vevMask, .vevCount, .vrefNext, .vtemp, .actAlertSrc][n - 0x030]?
  else if n < 0x040 then none
  else if n < 0x046 then [SysReg.lc 0, .ls 0, .le 0, .lc 1, .ls 1, .le 1][n - 0x040]?
  else if n < 0x050 then none
  else if n < 0x052 then [SysReg.apmpc, .apsweep][n - 0x050]?
  else if n = 0x060 then some .fbufStat
  else if n < 0x070 then none
  else if n < 0x080 then some (.suspect (n - 0x070))
  else if n < 0x082 then [SysReg.scanStat, .scanSig][n - 0x080]?
  else if n < 0x090 then none
  else [SysReg.ringBase, .ringSize, .htabBase][n - 0x090]?

/-- The row of the table that a `sysw` of a register is. -/
def syswOf (a : Nat) (r : SysReg) : Instr :=
  match r with
  | .status => .syswStatus a
  | .lc _ => .syswLoop a r
  | .ls _ => .syswLoop a r
  | .le _ => .syswLoop a r
  | .vevCount => .syswVevCount a
  | .cfail n => .syswCfail a n
  | .fbufStat => .syswFbufStat a
  | .actAlertSrc => .syswActAlertSrc a
  | .suspect n => .syswSuspect a n
  | .ringBase => .syswRing a r
  | .ringSize => .syswRing a r
  | .htabBase => .syswRing a r
  | .apmpc => .syswPlaneProgress a r
  | .apsweep => .syswPlaneProgress a r
  | _ => .sysw a r

/-- The element type of SUB[5:2] (R92). -/
def Raw.et (r : Raw) : Option ElemType := ElemType.list[r.sub / 4]?
/-- The rounding mode of SUB[1:0] (R92). -/
def Raw.rm (r : Raw) : Rounding := Rounding.ofBits (r.sub % 4)

/-- SUB is an element type of a list with SUB[1:0] zero. -/
def subET (ok : ElemType → Bool) (r : Raw) : Bool :=
  decide (r.sub % 4 = 0) && (match r.et with
                             | none => false
                             | some t => ok t)

/-- SUB is an element type of a list with a rounding mode where `rmOk` admits it. -/
def subETrm (ok : ElemType → Bool) (rmOk : ElemType → Rounding → Bool) (r : Raw) : Bool :=
  match r.et with
  | none => false
  | some t => ok t && rmOk t r.rm

/-! ### Moulds: the register fields of forms of one shape -/

def rDAB (x y z : Nat) : Raw → Regs := fun _ => { d := some x, a := some y, b := some z }
def rDABC (x y z w : Nat) : Raw → Regs := fun _ => { d := some x, a := some y, b := some z, c := some w }
def rDA (x y : Nat) : Raw → Regs := fun _ => { d := some x, a := some y }
def rAB (x y : Nat) : Raw → Regs := fun _ => { a := some x, b := some y }
def rABC (x y z : Nat) : Raw → Regs := fun _ => { a := some x, b := some y, c := some z }
def rD (x : Nat) : Raw → Regs := fun _ => { d := some x }
def rA (x : Nat) : Raw → Regs := fun _ => { a := some x }

/-- A branch of format B: only the COND codes below `n` (R85). -/
def formB (n : Nat) (regs : Raw → Regs) (build : Raw → Option Instr) : Form :=
  { fmt := .b, sub := fun _ => true, res := fun r => decide (r.bRes = 0) && decide (r.cond < n), regs, build }

/-- Format A, SUB 0, IMM16 zero. -/
def formA (regs : Raw → Regs) (build : Raw → Option Instr) : Form := { fmt := .a, regs, build }

/-- Format A, SUB 0, with a whole IMM16. -/
def formI (regs : Raw → Regs) (build : Raw → Option Instr) : Form := { fmt := .a, res := fun _ => true, regs, build }

/-- An engine command with SUB 0 and no ENG field (R86). -/
def formE (regs : Raw → Regs) (build : Raw → Option Instr) : Form :=
  { fmt := .d, eng := true, res := fun r => decide (r.imm = 0) && decide (r.h 0 47 = 0), regs, build }

/-- A rounding mode in SUB[1:0], SUB[5:2] zero. -/
def formRm (regs : Raw → Regs) (build : Raw → Option Instr) : Form :=
  { fmt := .a, sub := fun r => decide (r.sub < 4), regs, build }

/-- A vector form with an element type of a list in SUB[5:2] and SUB[1:0] zero (R475). -/
def formV (ok : ElemType → Bool) (regs : Raw → Regs) (build : ElemType → Raw → Instr) : Form :=
  { fmt := .a, sub := subET ok, regs, build := fun r => r.et.map (fun t => build t r) }

/-- A vector form with an element type and a rounding mode (R475). -/
def formVrm (ok : ElemType → Bool) (rmOk : ElemType → Rounding → Bool) (regs : Raw → Regs)
    (build : ElemType → Rounding → Raw → Instr) : Form :=
  { fmt := .a, sub := subETrm ok rmOk, regs, build := fun r => r.et.map (fun t => build t r.rm r) }

/-! ### The opcode map (R98): the forms of each class in the order of R93 -/

/-- Control, 0x000. -/
def controlForms : List Form := [
  formB 10 (rDA 32 32) (fun r => IntCond.list[r.cond]?.map (fun cc => .bcmp cc r.d r.a r.off)),
  { fmt := .b, sub := fun _ => true,
    res := fun r => decide (r.bRes = 0) && decide (r.cond < 4) && decide (r.d < 8), regs := rD 8,
    build := fun r => MaskCond.list[r.cond]?.map (fun mc => .bpred mc r.d r.off) },
  formB 1 (fun _ => {}) (fun r => some (.br r.off)),
  formI (fun _ => {}) (fun r => some (.brk r.imm)),
  formB 1 (fun _ => {}) (fun r => some (.call r.off)),
  formA (rA 32) (fun r => some (.callr r.a)),
  formB 2 (rD 32) (fun r => some (.fork (decide (r.cond = 1)) r.d r.off)),
  formA (fun _ => {}) (fun _ => some .hexit),
  formB 1 (rD 32) (fun r => some (.hstart r.d r.off)),
  formA (fun _ => {}) (fun _ => some .idle),
  formB 2 (rD 32) (fun r => some (.join (decide (r.cond = 1)) r.d r.off)),
  formA (rA 32) (fun r => some (.jr r.a)),
  formA (rD 2) (fun r => some (.lbrk r.d)),
  formB 2 (rD 32) (fun r => some (.loop r.cond r.d r.off)),
  formA (fun _ => {}) (fun _ => some .nop),
  formA (rD 16) (fun r => some (.qclr r.d)),
  formA (rDA 16 32) (fun r => some (.qset r.d r.a)),
  formA (fun _ => {}) (fun _ => some .ret),
  formA (fun _ => {}) (fun _ => some .yield)]

/-- The check of `bext` and `bins`: IMM16[15:13] zero, then the ranges of R368. -/
def formBits (build : Raw → Option Instr) : Form :=
  { fmt := .a, res := fun r => decide (r.imm < 8192), regs := rDA 32 32,
    range := fun r => decide (1 ≤ r.imm / 64) && decide (r.imm % 64 + r.imm / 64 ≤ 64), build }

/-- A shift: SUB 0 by `gb`, SUB 1 by IMM16[5:0] (R443). -/
def formShift (reg imm : Nat → Nat → Nat → Instr) : Form :=
  { fmt := .a, sub := fun r => decide (r.sub < 2),
    res := fun r => if r.sub = 1 then decide (r.imm < 64) else decide (r.imm = 0),
    regs := fun r => if r.sub = 1 then { d := some 32, a := some 32 } else { d := some 32, a := some 32, b := some 32 },
    build := fun r => some (if r.sub = 1 then imm r.d r.a r.imm else reg r.d r.a r.b) }

/-- Integer and scalar FP, 0x080. -/
def integerForms : List Form := [
  formA (rDAB 32 32 32) (fun r => some (.add r.d r.a r.b)),
  formI (rDA 32 32) (fun r => some (.addi r.d r.a r.s16)),
  formA (rDAB 32 32 32) (fun r => some (.and r.d r.a r.b)),
  formI (rDA 32 32) (fun r => some (.andi r.d r.a r.imm)),
  formBits (fun r => some (.bext r.d r.a (r.imm % 64) (r.imm / 64))),
  formBits (fun r => some (.bins r.d r.a (r.imm % 64) (r.imm / 64))),
  formA (rDA 32 32) (fun r => some (.clz r.d r.a)),
  { fmt := .a, sub := fun r => decide (r.sub < 10), regs := rDAB 32 32 32,
    build := fun r => IntCond.list[r.sub]?.map (fun cc => .cmp cc r.d r.a r.b) },
  formA (rDAB 32 32 32) (fun r => some (.div r.d r.a r.b)),
  formA (rDAB 32 32 32) (fun r => some (.divu r.d r.a r.b)),
  formRm (rDAB 32 32 32) (fun r => some (.fadd r.rm r.d r.a r.b)),
  { fmt := .a, sub := fun r => (FpCond.ofCode r.sub).isSome, regs := rDAB 32 32 32,
    build := fun r => (FpCond.ofCode r.sub).map (fun fc => .fcmp fc r.d r.a r.b) },
  { fmt := .a, sub := fun r => decide (r.sub / 4 % 4 ≠ r.sub / 16), regs := rDA 32 32,
    build := fun r => match FcvtType.list[r.sub / 4 % 4]?, FcvtType.list[r.sub / 16]? with
      | some dst, some src => some (.fcvt dst src r.rm r.d r.a)
      | _, _ => none },
  formRm (rDABC 32 32 32 32) (fun r => some (.ffma r.rm r.d r.a r.b r.c)),
  formA (rDAB 32 32 32) (fun r => some (.fmax r.d r.a r.b)),
  formA (rDAB 32 32 32) (fun r => some (.fmin r.d r.a r.b)),
  formRm (rDAB 32 32 32) (fun r => some (.fmul r.rm r.d r.a r.b)),
  formRm (rDAB 32 32 32) (fun r => some (.fsub r.rm r.d r.a r.b)),
  { fmt := .c, sub := fun r => decide (r.sub < 2), res := fun r => decide (r.imm = 0) && decide (r.h 32 32 = 0),
    regs := fun r => if r.sub = 1 then { d := some 32 } else { d := some 32, a := some 32 },
    build := fun r => some (if r.sub = 1 then .leaPc r.d (signedOf 32 r.imm32) else .lea r.d r.a (signedOf 32 r.imm32)) },
  { fmt := .c, res := fun r => decide (r.imm = 0) && decide (r.h 32 32 = 0), regs := rD 32,
    build := fun r => some (.li r.d (signedOf 32 r.imm32)) },
  { fmt := .d, regs := rD 32, build := fun r => some (.li64 r.d r.hi) },
  formA (rDABC 32 32 32 32) (fun r => some (.madd r.d r.a r.b r.c)),
  formA (rDAB 32 32 32) (fun r => some (.max r.d r.a r.b)),
  formA (rDAB 32 32 32) (fun r => some (.maxu r.d r.a r.b)),
  formA (rDAB 32 32 32) (fun r => some (.min r.d r.a r.b)),
  formA (rDAB 32 32 32) (fun r => some (.minu r.d r.a r.b)),
  formA (rDAB 32 32 32) (fun r => some (.mul r.d r.a r.b)),
  formA (rDAB 32 32 32) (fun r => some (.mulh r.d r.a r.b)),
  formA (rDAB 32 32 32) (fun r => some (.mulhu r.d r.a r.b)),
  formA (rDAB 32 32 32) (fun r => some (.or r.d r.a r.b)),
  formI (rDA 32 32) (fun r => some (.ori r.d r.a r.imm)),
  formA (rDA 32 32) (fun r => some (.popc r.d r.a)),
  formA (rDAB 32 32 32) (fun r => some (.rem r.d r.a r.b)),
  formA (rDAB 32 32 32) (fun r => some (.remu r.d r.a r.b)),
  formA (rDAB 32 32 32) (fun r => some (.rot r.d r.a r.b)),
  formA (rDABC 32 32 32 32) (fun r => some (.sel r.d r.a r.b r.c)),
  formShift .shl .shlImm,
  formShift .shr .shrImm,
  formShift .sra .sraImm,
  formA (rDAB 32 32 32) (fun r => some (.sub r.d r.a r.b)),
  formA (rDAB 32 32 32) (fun r => some (.xor r.d r.a r.b)),
  formI (rDA 32 32) (fun r => some (.xori r.d r.a r.imm))]

/-- Scalar memory, 0x100. -/
def memoryForms : List Form := [
  { fmt := .a, sub := fun r => (AtomWidth.ofCode (r.sub % 8)).isSome, regs := rDAB 32 32 32,
    build := fun r => match AmoOp.list[r.sub / 8]?, AtomWidth.ofCode (r.sub % 8) with
      | some op, some w => some (.amo op w r.d r.a r.b)
      | _, _ => none },
  { fmt := .a, sub := fun r => decide (r.sub < 8) && (AtomWidth.ofCode r.sub).isSome, regs := rDABC 32 32 32 32,
    build := fun r => (AtomWidth.ofCode r.sub).map (fun w => .cas w r.d r.a r.b r.c) },
  formI (rA 32) (fun r => some (.feclr r.a r.s16)),
  formI (rA 32) (fun r => some (.feset r.a r.s16)),
  { fmt := .a, sub := fun r => decide (r.sub < 7), res := fun _ => true, regs := rDA 32 32,
    build := fun r => some (.ld (Width.ofBits (r.sub % 4)) (decide (4 ≤ r.sub)) r.d r.a r.s16) },
  formI (rDA 32 32) (fun r => some (.ldf r.d r.a r.s16)),
  formI (rDA 32 32) (fun r => some (.ldfe r.d r.a r.s16)),
  formI (rA 32) (fun r => some (.ract r.a r.s16)),
  formI (rA 32) (fun r => some (.rpre r.a r.s16)),
  { fmt := .a, sub := fun r => decide (r.sub < 4), res := fun _ => true, regs := rAB 32 32,
    build := fun r => some (.st (Width.ofBits r.sub) r.a r.s16 r.b) },
  formI (rAB 32 32) (fun r => some (.stef r.a r.s16 r.b)),
  formI (rAB 32 32) (fun r => some (.stf r.a r.s16 r.b))]

/-- The `.nsat` bit at IMM16[k] on a destination: refused with reason 4 except on `e4m3`, `e5m2` and `e2m1` (R475). -/
def nsatRes (r : Raw) (k : Nat) : Bool := decide (fld r.imm k 1 = 0) || decide (r.sub / 4 ∈ [9, 10, 12])
/-- On `e2m1` it is refused with reason 8 (R120, R475). -/
def nsatRange (r : Raw) (k : Nat) : Bool := decide (fld r.imm k 1 = 0) || decide (r.sub / 4 ≠ 12)

def anyRm (_ : ElemType) (_ : Rounding) : Bool := true

/-- A reduction or scan: the type in SUB[5:2], the operation in IMM16[1:0] (R475, R494). -/
def formRed (regs : Raw → Regs) (build : RedOp → RedType → Raw → Instr) : Form :=
  { fmt := .a, sub := fun r => decide (r.sub % 4 = 0) && decide (r.sub / 4 < 3), res := fun r => decide (r.imm < 4),
    regs, range := fun r => decide (r.imm < 3),
    build := fun r => match RedOp.list[r.imm]?, RedType.list[r.sub / 4]? with
      | some op, some t => some (build op t r)
      | _, _ => none }

/-- A lane number or rotation in IMM16[5:0] (R475). -/
def formLane (regs : Raw → Regs) (build : Raw → Option Instr) : Form :=
  { fmt := .a, res := fun r => decide (r.imm < 64), regs, build }

/-- The code of a `vcmp`: of the kind its type has (R484). -/
def vcmpCond (r : Raw) : Option (ElemType × LaneCond) :=
  match ElemType.list[r.imm % 16]? with
  | none => none
  | some t =>
    if arithET t then
      if t.isFp then (FpCond.ofCode r.sub).map (fun c => (t, .fp c))
      else (IntCond.list[r.sub]?).map (fun c => (t, .int c))
    else none

/-- Vector, 0x180. -/
def vectorForms : List Form := [
  formV absET (rDA 16 16) (fun t r => .vabs t r.d r.a),
  formVrm arithET rmFits (rDAB 16 16 16) (fun t rm r => .vadd t rm r.d r.a r.b),
  formA (rDAB 16 16 16) (fun r => some (.vand r.d r.a r.b)),
  { fmt := .a, sub := subETrm quantET anyRm, res := fun r => decide (r.imm < 2) && nsatRes r 0,
    regs := rDABC 16 16 16 32, range := fun r => nsatRange r 0,
    build := fun r => r.et.map (fun t => .vbaq t (decide (r.imm = 1)) r.rm r.d r.a r.b r.c) },
  formV (fun _ => true) (rDA 16 32) (fun t r => .vbc t r.d r.a),
  formV arithET (rDABC 16 16 16 16) (fun t r => .vclamp t r.d r.a r.b r.c),
  { fmt := .a, sub := fun r => (vcmpCond r).isSome, res := fun r => decide (r.imm < 16), regs := rDAB 8 16 16,
    build := fun r => (vcmpCond r).map (fun p => .vcmp p.1 p.2 r.d r.a r.b) },
  { fmt := .a, sub := subETrm (fun _ => true) anyRm, res := fun r => decide (r.imm < 32) && nsatRes r 4,
    regs := rDA 16 16,
    range := fun r => decide (r.imm % 16 < 13) && decide (r.imm % 16 ≠ r.sub / 4) && nsatRange r 4,
    build := fun r => match r.et, ElemType.list[r.imm % 16]? with
      | some dst, some src => some (.vcvt dst (decide (fld r.imm 4 1 = 1)) r.rm src r.d r.a)
      | _, _ => none },
  { fmt := .a, sub := subETrm fmaET anyRm, res := fun r => decide (r.imm < 128), regs := rDAB 32 16 16,
    range := fun r => decide (r.imm ≤ 64),
    build := fun r => r.et.map (fun t => .vdot t r.rm r.d r.a r.b r.imm) },
  formV quantET (rDAB 16 16 32) (fun t r => .vdqnt t r.d r.a r.b),
  formLane (rDA 32 16) (fun r => some (.vext r.d r.a r.imm)),
  formVrm fmaET anyRm (rDABC 16 16 16 16) (fun t rm r => .vfma t rm r.d r.a r.b r.c),
  { fmt := .a, sub := subET memET, regs := rDAB 16 32 16, pair := fun r => if r.d = r.b then some 0 else none,
    build := fun r => r.et.map (fun t => .vgat t r.d r.a r.b) },
  formLane (rDA 16 32) (fun r => some (.vins r.d r.a r.imm)),
  formI (rDA 16 32) (fun r => some (.vld r.d r.a r.s16)),
  formV memET (rDAB 16 32 32) (fun t r => .vlds t r.d r.a r.b),
  formV arithET (rDAB 16 16 16) (fun t r => .vmax t r.d r.a r.b),
  formV arithET (rDAB 16 16 16) (fun t r => .vmin t r.d r.a r.b),
  formA (rDA 16 16) (fun r => some (.vmov r.d r.a)),
  formVrm arithET rmFits (rDAB 16 16 16) (fun t rm r => .vmul t rm r.d r.a r.b),
  formV absET (rDA 16 16) (fun t r => .vneg t r.d r.a),
  formA (rDAB 16 16 16) (fun r => some (.vor r.d r.a r.b)),
  formA (rDA 32 8) (fun r => some (.vpcnt r.d r.a)),
  formA (rDAB 16 16 16) (fun r => some (.vperm r.d r.a r.b)),
  formA (rDA 32 8) (fun r => some (.vpfirst r.d r.a)),
  { fmt := .a, sub := subETrm quantET anyRm, res := fun r => decide (r.imm < 2) && nsatRes r 0,
    regs := rDAB 16 16 32, range := fun r => nsatRange r 0,
    build := fun r => r.et.map (fun t => .vqnt t (decide (r.imm = 1)) r.rm r.d r.a r.b) },
  formRed (rDA 32 16) (fun op t r => .vred op t r.d r.a),
  formLane (rDA 16 16) (fun r => some (.vrot r.d r.a r.imm)),
  formV memET (rABC 32 16 16) (fun t r => .vsca t r.a r.b r.c),
  formRed (rDA 16 16) (fun op t r => .vscan op t r.d r.a),
  formA (rDABC 16 16 16 8) (fun r => some (.vsel r.d r.a r.b r.c)),
  formV shiftET (rDAB 16 16 16) (fun t r => .vshl t r.d r.a r.b),
  formV shiftET (rDAB 16 16 16) (fun t r => .vshr t r.d r.a r.b),
  formI (rAB 32 16) (fun r => some (.vst r.a r.s16 r.b)),
  formVrm arithET rmFits (rDAB 16 16 16) (fun t rm r => .vsub t rm r.d r.a r.b),
  formA (rDAB 16 16 16) (fun r => some (.vxor r.d r.a r.b))]

/-- Streams, tiles, matrix, 0x200 (R212, R427, R468). -/
def matrixForms : List Form := [
  { fmt := .d, eng := true, res := fun r => decide (r.imm = 0) && decide (r.h 17 30 = 0), regs := rA 8,
    range := fun r => decide (r.h 15 2 < 2) && decide (r.h 0 7 + r.h 7 8 ≤ 128) && decide (r.h 15 2 = 1 ↔ r.h 7 8 ≠ 0),
    build := fun r => some (.cbcfg r.a (r.h 0 7) (r.h 7 8) (decide (r.h 15 2 = 1)) r.eng) },
  { fmt := .d, eng := true, res := fun r => decide (r.imm = 0) && decide (r.h 8 39 = 0), regs := rA 8,
    range := fun r => decide (r.h 0 8 ≤ 128), build := fun r => some (.cbrel r.a (r.h 0 8) r.eng) },
  { fmt := .d, eng := true, sub := subET drainET, res := fun r => decide (r.imm = 0) && decide (r.h 28 19 = 0),
    regs := rAB 4 32,
    range := fun r => decide (r.h 16 6 ≤ 32) && decide (r.h 22 6 ≤ 32) &&
      (decide (r.sub / 4 ∉ [11, 12]) || decide (r.h 22 6 % 2 = 0)),
    build := fun r => r.et.map (fun t => .mdrain t r.a r.b (r.h 0 16) (r.h 16 6) (r.h 22 6) r.eng) },
  { fmt := .d, eng := true, sub := fun r => decide (r.sub < 2),
    res := fun r => decide (r.imm = 0) && decide (r.h 0 47 = 0), regs := rABC 4 32 4,
    build := fun r => some (.mdrainr (decide (r.sub = 1)) r.a r.b r.c r.eng) },
  { fmt := .d, eng := true, res := fun r => decide (r.imm = 0) && decide (r.h 16 31 = 0), regs := rDA 4 32,
    build := fun r => some (.mld r.d r.a (r.h 0 16) r.eng) },
  { fmt := .d, eng := true, sub := fun r => (MmaType.ofCode r.sub).isSome,
    res := fun r => decide (r.imm = 0) && decide (r.h 15 32 = 0) && (decide (r.sub = 12) || decide (r.h 14 1 = 0)),
    regs := fun r => if r.sub = 12 then { a := some 8, b := some 8 } else { d := some 4, a := some 8, b := some 8 },
    build := fun r => (MmaType.ofCode r.sub).map
      (fun t => .mma t r.d r.a (r.h 0 7) r.b (r.h 7 7) (decide (r.h 14 1 = 1)) r.eng) },
  { fmt := .d, eng := true, res := fun r => decide (r.imm = 0) && decide (r.h 16 31 = 0), regs := rAB 4 32,
    build := fun r => some (.mrecv r.a (r.h 0 16) r.b r.eng) },
  formE (rDABC 4 32 32 32) (fun r => some (.msa r.d r.a r.b r.c r.eng)),
  { fmt := .d, eng := true, sub := fun r => decide (r.sub < 2),
    res := fun r => decide (r.imm = 0) && decide (r.h 0 47 = 0),
    regs := fun r => if r.sub = 1 then {} else { d := some 4 },
    build := fun r => some (if r.sub = 1 then .mzPb r.eng else .mz r.d r.eng) },
  { fmt := .d, eng := true, sub := subET tileET, res := fun r => decide (r.imm = 0) && decide (r.h 30 17 = 0),
    regs := rAB 8 32,
    range := fun r => decide (r.h 16 6 ≤ 32) &&
      (match r.et with
       | none => false
       | some t => decide (r.h 22 8 ≤ tileRowElems t) && (decide (t ≠ .e2m1) || decide (r.h 22 8 % 2 = 0))),
    build := fun r => r.et.map (fun t => .tld t r.a r.b (r.h 0 16) (r.h 16 6) (r.h 22 8) r.eng) },
  { fmt := .d, eng := true, res := fun r => decide (r.imm = 0) && decide (r.h 23 24 = 0), regs := rAB 8 32,
    build := fun r => some (.tst r.a (r.h 0 7) r.b (r.h 7 16) r.eng) }]

/-- A field designator of a plane form: OFF at `lo`, WM1 at bit 16 of the ENG word (R225). -/
def fieldIn (r : Raw) (lo : Nat) : Bool := decide (r.h lo 8 + r.h 16 8 < 256)

/-- Plane and table, 0x280 (R225, R470). -/
def planeForms : List Form := [
  { fmt := .d, eng := true,
    res := fun r => decide (r.imm = 0) && decide (r.h 8 8 = 0) && decide (r.h 24 23 = 0),
    range := fun r => fieldIn r 0, build := fun r => some (.apClr (r.h 0 8) (r.h 16 8 + 1) r.eng) },
  { fmt := .d, eng := true, res := fun r => decide (r.imm = 0) && decide (r.h 2 45 = 0), regs := rDAB 8 16 16,
    build := fun r => CmpComb.list[r.h 0 2]?.map (fun k => .apCmp k r.d r.a r.b r.eng) },
  formE (rDA 32 8) (fun r => some (.apCnt r.d r.a r.eng)),
  formE (rDA 32 8) (fun r => some (.apFirst r.d r.a r.eng)),
  { fmt := .d, eng := true,
    res := fun r => decide (r.imm = 0) && decide (r.h 0 39 = 0) && decide (r.h 45 2 = 0), regs := rA 32,
    build := fun r => some (.apLd r.a (r.h 39 6) r.eng) },
  { fmt := .d, eng := true,
    res := fun r => decide (r.imm = 0) && decide (r.h 8 8 = 0) && decide (r.h 24 23 = 0), regs := rDA 32 8,
    range := fun r => fieldIn r 0 && decide (r.h 16 8 < 64),
    build := fun r => some (.apMax r.d (r.h 0 8) (r.h 16 8 + 1) r.a r.eng) },
  { fmt := .d, eng := true, sub := fun r => decide (8 ≤ r.sub) && decide (r.sub < 16),
    res := fun r => decide (r.imm = 0) && decide (r.h 0 47 = 0), regs := rA 32,
    build := fun r => some (.apMcode r.sub r.a r.eng) },
  formE (rDA 16 32) (fun r => some (.apRd r.d r.a r.eng)),
  { fmt := .d, eng := true, sub := fun r => decide (r.sub < 16),
    res := fun r => decide (r.imm = 0) && decide (r.h 39 8 = 0), regs := rA 8,
    range := fun r => fieldIn r 0 && fieldIn r 8 && decide (r.h 36 3 ≠ r.a),
    build := fun r => some (.apSeq r.sub (r.h 0 8) (r.h 16 8 + 1) (r.h 8 8) (r.h 24 12) (r.h 36 3) r.a r.eng) },
  { fmt := .d, eng := true,
    res := fun r => decide (r.imm = 0) && decide (r.h 0 39 = 0) && decide (r.h 45 2 = 0), regs := rA 32,
    build := fun r => some (.apSt r.a (r.h 39 6) r.eng) },
  { fmt := .d, eng := true, sub := fun r => decide (r.sub < 16),
    res := fun r => decide (r.imm = 0) && decide (r.h 45 2 = 0), regs := rABC 32 32 8,
    range := fun r => fieldIn r 0 && fieldIn r 8 && decide (r.h 36 3 ≠ r.c),
    build := fun r => some
      (.apSweep r.sub r.a r.b (r.h 0 8) (r.h 16 8 + 1) (r.h 8 8) (r.h 24 12) (r.h 36 3) r.c (r.h 39 6) r.eng) },
  { fmt := .d, eng := true, res := fun r => decide (r.imm = 0) && decide (r.h 3 44 = 0),
    regs := fun r => if r.h 0 3 < 4 then { d := some 8, a := some 8, b := some 8 }
      else if r.h 0 3 < 6 then { d := some 8, a := some 8 } else { d := some 8 },
    build := fun r => TagOp.list[r.h 0 3]?.map (fun op => .apTg op r.d r.a r.b r.eng) },
  formE (rABC 16 16 8) (fun r => some (.apWr r.a r.b r.c r.eng)),
  formE (rAB 32 16) (fun r => some (.apWrr r.a r.b r.eng)),
  { fmt := .a, sub := fun r => decide (r.sub < 4), regs := rDAB 4 32 32,
    build := fun r => some (.tqBind r.d r.a r.b (4 * 2 ^ r.sub)) },
  { fmt := .d, eng := true, sub := fun r => decide (r.sub < 2),
    res := fun r => decide (r.imm = 0) && decide (r.h 0 47 = 0), regs := rDAB 16 4 16,
    pair := fun r => if r.b % 2 = 1 then some 2 else if r.d = r.b ∨ r.d = r.b + 1 then some 0 else none,
    build := fun r => some (.tqDot (decide (r.sub = 1)) r.d r.a r.b r.eng) },
  { fmt := .d, eng := true, sub := fun r => decide (r.sub ∈ [0, 1, 2, 4]),
    res := fun r => decide (r.imm = 0) && decide (r.h 0 47 = 0), regs := rDAB 16 4 16,
    pair := fun r => if r.sub = 4 ∧ r.d = r.b then some 0 else none,
    build := fun r => if r.sub = 4 then some (.tqFnSeg r.d r.a r.b r.eng)
      else Extend.list[r.sub]?.map (fun x => .tqFnDir x r.d r.a r.b r.eng) },
  { fmt := .d, eng := true, sub := fun r => decide (r.sub < 3),
    res := fun r => decide (r.imm = 0) && decide (r.h 0 47 = 0), regs := rDAB 16 4 16,
    build := fun r => Extend.list[r.sub]?.map (fun x => .tqLk x r.d r.a r.b r.eng) },
  { fmt := .d, eng := true, sub := fun r => decide (r.sub < 8) && decide (r.sub % 4 < 3),
    res := fun r => decide (r.imm = 0) && decide (r.h 0 47 = 0), regs := rDABC 16 4 16 16,
    build := fun r => Extend.list[r.sub % 4]?.map (fun x => .tqPair (decide (4 ≤ r.sub)) x r.d r.a r.b r.c r.eng) }]

/-- A remote form whose C names a group handle when HV, bit `k` of the ENG word, is 1 (R262). -/
def handleOf (r : Raw) (k : Nat) : Option Nat := if r.h k 1 = 1 then some r.c else none

/-- Groups, messages, copies, ordering, 0x300 (R247, R262, R288, R289, R294). -/
def groupForms : List Form := [
  { fmt := .a, sub := fun r => decide (r.sub < 2),
    regs := fun r => { a := some (if r.sub = 1 then 32 else 16), b := some 32, c := some 32 },
    build := fun r => some (if r.sub = 1 then .bindFe r.a r.b r.c else .bind r.a r.b r.c) },
  { fmt := .a, res := fun r => decide (r.imm < 4), regs := rDA 8 32, build := fun r => some (.cwait r.d r.imm r.a) },
  { fmt := .a, sub := fun r => decide (r.sub < 5), build := fun r => DrainPath.list[r.sub]?.map (fun p => .drain p) },
  { fmt := .a, sub := fun r => decide (r.sub % 8 < 5) && decide (r.sub / 8 < 3),
    build := fun r => match FenceKind.list[r.sub / 8]?, Scope.list[r.sub % 8]? with
      | some k, some s => some (.fence k s)
      | _, _ => none },
  formA (rA 16) (fun r => some (.grpArr r.a)),
  formA (rA 16) (fun r => some (.grpArrd r.a)),
  formA (rAB 16 32) (fun r => some (.grpExp r.a r.b)),
  formA (rDAB 16 8 32) (fun r => some (.grpJoin r.d r.a r.b)),
  formA (rA 16) (fun r => some (.grpLeave r.a)),
  { fmt := .a, res := fun r => decide (r.imm < 16384), regs := rDAB 16 8 32,
    build := fun r => some (.grpNew r.d r.a r.b r.imm) },
  { fmt := .a, sub := fun r => decide (r.sub % 4 < 3) && decide (r.sub / 4 < 3), regs := rAB 16 32,
    build := fun r => match RedOp.list[r.sub % 4]?, RedType.list[r.sub / 4]? with
      | some op, some t => some (.grpRed op t r.a r.b)
      | _, _ => none },
  formA (rDA 32 16) (fun r => some (.grpRes r.d r.a)),
  formA (rDA 32 16) (fun r => some (.grpStat r.d r.a)),
  { fmt := .a, sub := fun r => decide (r.sub < 3), regs := rAB 16 32,
    build := fun r => VoteOp.list[r.sub]?.map (fun op => .grpVote op r.a r.b) },
  formA (rA 16) (fun r => some (.grpWait r.a)),
  formA (rAB 16 32) (fun r => some (.grpWdog r.a r.b)),
  { fmt := .a, res := fun r => decide (r.imm < 16), regs := rD 32, build := fun r => some (.gwTake r.d r.imm) },
  formA (fun _ => {}) (fun _ => some .hret),
  formA (rDA 32 32) (fun r => some (.mpeek r.d r.a)),
  formA (rDA 32 32) (fun r => some (.mtake r.d r.a)),
  { fmt := .a, res := fun r => decide (r.imm < 512), range := fun r => decide (r.imm ≠ 0),
    build := fun r => some (.qfence r.imm) },
  { fmt := .d, eng := true, sub := fun r => decide (r.sub < 16),
    res := fun r => decide (r.imm = 0) && decide (r.h 0 47 = 0), regs := rAB 32 32,
    build := fun r => AmoOp.list[r.sub % 8]?.map (fun op => .rpcAmo op (decide (8 ≤ r.sub)) r.a r.b r.eng) },
  { fmt := .d, eng := true, sub := fun r => decide (r.sub < 2),
    res := fun r => decide (r.imm = 0) && decide (r.h 15 32 = 0),
    regs := fun r => { a := some 32, b := if r.sub = 1 then none else some 32,
                       c := if r.h 6 9 = 0 then none else some 32 },
    range := fun r => decide (r.h 6 9 ≤ 256),
    build := fun r => some (.rpcCall (decide (r.sub = 1)) r.a (r.h 0 6) r.b r.c (r.h 6 9) r.eng) },
  formA (fun _ => {}) (fun _ => some .rpcFence),
  { fmt := .d, eng := true, sub := fun r => decide (r.sub < 7),
    res := fun r => decide (r.imm = 0) && decide (r.h 0 47 = 0), regs := rDA 32 32,
    build := fun r => some (.rpcGet (Width.ofBits (r.sub % 4)) (decide (4 ≤ r.sub)) r.d r.a r.eng) },
  { fmt := .d, eng := true, sub := fun r => decide (r.sub < 4) || decide (r.sub = 11),
    res := fun r => decide (r.imm = 0) && decide (r.h 1 46 = 0),
    regs := fun r => { a := some 32, b := some 32, c := if r.h 0 1 = 1 then some 16 else none },
    build := fun r => some
      (.rpcPut (if r.sub = 11 then .full else .plain (Width.ofBits r.sub)) r.a r.b (handleOf r 0) r.eng) },
  formA (fun _ => {}) (fun _ => some .rpcReply),
  { fmt := .d, eng := true, res := fun r => decide (r.imm = 0) && decide (r.h 5 42 = 0), regs := rAB 32 32,
    build := fun r => some (.sendm r.a (r.h 0 5) r.b r.eng) },
  { fmt := .d, eng := true, res := fun r => decide (r.imm = 0) && decide (r.h 3 44 = 0),
    regs := fun r => { d := some 32, a := some 32, c := if r.h 2 1 = 1 then some 16 else none },
    build := fun r => some (.tcopy (r.h 0 2) r.a r.d (handleOf r 2) r.eng) },
  formA (rA 32) (fun r => some (.unbind r.a))]

/-- System, 0x380 (R331 and the entries). -/
def systemForms : List Form := [
  formA (rAB 32 32) (fun r => some (.cmap r.a r.b)),
  formA (fun _ => {}) (fun _ => some .cqResume),
  formA (rA 32) (fun r => some (.ctxRest r.a)),
  formA (rA 32) (fun r => some (.ctxSave r.a)),
  formA (rD 32) (fun r => some (.evwait r.d)),
  formA (rD 32) (fun r => some (.fbufPop r.d)),
  formA (rAB 32 32) (fun r => some (.jsub r.a r.b)),
  formA (rA 32) (fun r => some (.qrt r.a)),
  formA (fun _ => {}) (fun _ => some .redo),
  formA (fun _ => {}) (fun _ => some .scanAbort),
  formA (rA 32) (fun r => some (.scanRun r.a)),
  formA (rD 32) (fun r => some (.scanSig r.d)),
  formA (fun _ => {}) (fun _ => some .sret),
  { fmt := .a, res := fun _ => true, regs := rD 32, range := fun r => (SysReg.ofNumber r.imm).isSome,
    build := fun r => (SysReg.ofNumber r.imm).map (fun n => .sysr r.d n) },
  { fmt := .a, res := fun _ => true, regs := rA 32, range := fun r => (SysReg.ofNumber r.imm).isSome,
    build := fun r => (SysReg.ofNumber r.imm).map (fun n => syswOf r.a n) },
  { fmt := .a, sub := fun r => decide (r.sub < 4),
    regs := fun r => if r.sub = 0 then {} else { a := some 32 },
    build := fun r => InvKind.list[r.sub]?.map (fun k => .tlbInv r.a k) },
  formA (fun _ => {}) (fun _ => some .tlbReplay),
  formI (fun _ => {}) (fun r => some (.trap r.imm)),
  formA (fun _ => {}) (fun _ => some .weltRestore),
  { fmt := .a, res := fun r => decide (r.imm < 32), range := fun r => decide (r.imm % 16 < 12),
    build := fun r => some (.weltRetire (r.imm / 16) (r.imm % 16)) }]

/-- The form of an opcode: the i-th of its class (R93), none where it is unassigned. -/
def formOf (opc : Nat) : Option Form :=
  match opc / 128 with
  | 0 => controlForms[opc % 128]?
  | 1 => integerForms[opc % 128]?
  | 2 => memoryForms[opc % 128]?
  | 3 => vectorForms[opc % 128]?
  | 4 => matrixForms[opc % 128]?
  | 5 => planeForms[opc % 128]?
  | 6 => groupForms[opc % 128]?
  | 7 => systemForms[opc % 128]?
  | _ => none

/-- Why a word is no instruction (R94): ILLEGAL_FETCH, or ILLEGAL_INSTR with the fields of its TVAL. -/
inductive Illegal where
  | fetch
  | instr (reason opc sub field : Nat)
deriving DecidableEq, Repr

/-- TVAL of ILLEGAL_INSTR and PRIVILEGE (R94). -/
def illegalTval (reason opc sub field : Nat) : Word :=
  BitVec.ofNat 64 (reason + 16 * opc + 16384 * sub + 1048576 * field)

/-- A register field that is reserved and not zero (R94, step 7). -/
def regReserved (k : Option Nat) (x : Nat) : Bool :=
  match k with
  | none => decide (x ≠ 0)
  | some _ => false

/-- A register field beyond its class (R94, step 8). -/
def regOutside (k : Option Nat) (x : Nat) : Bool :=
  match k with
  | none => false
  | some n => decide (n ≤ x)

/-- Some register field is reserved and not zero. In format B the fields A and B stand at `d` and `a` (R85). -/
def Regs.reserved (g : Regs) (f : Fmt) (r : Raw) : Bool :=
  regReserved g.d r.d || regReserved g.a r.a ||
    (decide (f ≠ .b) && (regReserved g.b r.b || regReserved g.c r.c))

/-- The first register field beyond its class: 0 D, 1 A, 2 B, 3 C (R94). Of several the first in the order D, A, B, C is
reported (DESIGN CHOICE, notes/assumptions/128.md). -/
def Regs.outside (g : Regs) (f : Fmt) (r : Raw) : Option Nat :=
  if regOutside g.d r.d then some (if f = .b then 1 else 0)
  else if regOutside g.a r.a then some (if f = .b then 2 else 1)
  else if regOutside g.b r.b then some 2
  else if regOutside g.c r.c then some 3
  else none

/-- Steps 5 to 9 of R94 on a word of a known form and the right length. -/
def Form.check (f : Form) (r : Raw) : Option (Nat × Nat) :=
  if f.fmt ≠ .b ∧ ((r.ge = 1 ∧ f.eng = false) ∨ (r.ge = 0 ∧ (r.gn ≠ 0 ∨ r.qs ≠ 0))) then some (5, 0)
  else if f.sub r = false then some (6, 0)
  else if f.res r = false ∨ (f.regs r).reserved f.fmt r ∨ (f.eng ∧ r.cwv = 0 ∧ r.cwi ≠ 0) then some (4, 0)
  else match (f.regs r).outside f.fmt r with
    | some k => some (7, k)
    | none => match f.pair r with
      | some k => some (7, k)
      | none => if f.range r = false then some (8, 0) else none

/-- The checks of R94 on the fields of a word, steps 1 and 3 to 9, and the instruction. A word of format B has no SUB field: SUB is reported
as 0 (DESIGN CHOICE, notes/assumptions/120.md). -/
def decodeRaw (r : Raw) : Except Illegal Instr :=
  if r.len = 0 then .error (.instr 1 0 0 0)
  else match formOf r.opc with
    | none => .error (.instr 2 r.opc 0 0)
    | some f =>
      let sub := if f.fmt = .b then 0 else r.sub
      if r.len ≠ f.fmt.len then .error (.instr 3 r.opc sub 0)
      else match f.check r with
        | some (reason, field) => .error (.instr reason r.opc sub field)
        | none => match f.build r with
          | some i => .ok i
          | none => .error (.instr 6 r.opc sub 0)

/-- Decoding of the 16 bytes at an instruction address, as a little-endian number (R2). A format A or B word ends at
bit 63, so the bits above it belong to the next instruction. -/
def decodeBits (w : Nat) : Except Illegal Instr :=
  decodeRaw (unpack (if fld w 0 2 = 1 then w % 2 ^ 64 else w % 2 ^ 128))

/-- The code space of a word by its LEN (R80). -/
def codeSpace (w : Nat) : Nat := if fld w 0 2 = 1 then 8 else 16

/-- Step 2 of R94 between steps 1 and 3: a word whose code space leaves its 32-byte fetch block (R81). -/
def decodeAt (pc w : Nat) : Except Illegal Instr :=
  if fld w 0 2 = 0 then .error (.instr 1 0 0 0)
  else if 32 < pc % 32 + codeSpace w then .error .fetch
  else decodeBits w

/-- The number of a list of bytes, the first the least significant (R2). -/
def ofBytesLE : List Byte → Nat
  | [] => 0
  | b :: bs => b.toNat + 256 * ofBytesLE bs

/-- The first `n` bytes of a number, least significant first (R2). -/
def toBytesLE : Nat → Nat → List Byte
  | 0, _ => []
  | n + 1, x => BitVec.ofNat 8 x :: toBytesLE n (x / 256)

/-! ### The encoder -/

/-- Format A (R82). -/
def encA (opc sub d a b c imm : Nat) : Raw :=
  { len := 1, opc, d, a, b, c, qs := 0, gn := 0, ge := 0, sub, imm, hi := 0 }

/-- Format B (R83): fields A and B, COND and OFF28. -/
def encB (opc a b cond : Nat) (off : Int) : Raw :=
  let o := fieldOf 28 off
  { len := 1, opc, d := a, a := b, b := cond, c := 0, qs := fld o 0 4, gn := fld o 4 1, ge := fld o 5 1,
    sub := fld o 6 6, imm := fld o 12 16, hi := 0 }

/-- Format C (R84). -/
def encC (opc sub d a : Nat) (imm : Int) : Raw :=
  { len := 2, opc, d, a, b := 0, c := 0, qs := 0, gn := 0, ge := 0, sub, imm := 0, hi := fieldOf 32 imm }

/-- Format D with an engine word (R84, R86, R89): `h` holds the ENG bits. -/
def encE (opc sub d a b c h : Nat) (e : Eng) : Raw :=
  { len := 3, opc, d, a, b, c,
    qs := match e.guard with
          | none => 0
          | some g => g.slot,
    gn := match e.guard with
          | none => 0
          | some g => if g.neg then 1 else 0,
    ge := match e.guard with
          | none => 0
          | some _ => 1,
    sub, imm := 0,
    hi := h + (match e.cw with
               | none => 0
               | some i => i * 2 ^ 47 + 2 ^ 63) }

def b2n (b : Bool) : Nat := if b then 1 else 0

/-- ET in SUB[5:2] and rm in SUB[1:0] (R92). -/
def encET (t : ElemType) (rm : Rounding) : Nat := t.code * 4 + rm.code

def LaneCond.code : LaneCond → Nat
  | .int c => c.code
  | .fp c => c.code

/-- The group handle of `rpc.put` and `tcopy`: field C, and HV (R262). -/
def handleField (hc : Option Nat) : Nat :=
  match hc with
  | none => 0
  | some h => h
def handleBit (hc : Option Nat) : Nat := b2n hc.isSome

/-- The fields of an instruction word; LEN 0 for a step, which has no word. -/
def rawOf : Instr → Raw
  | .bcmp cc a b off => encB 0x000 a b cc.code off
  | .bpred mc p off => encB 0x001 p 0 mc.code off
  | .br off => encB 0x002 0 0 0 off
  | .brk code => encA 0x003 0 0 0 0 0 code
  | .call off => encB 0x004 0 0 0 off
  | .callr a => encA 0x005 0 0 a 0 0 0
  | .fork ns j off => encB 0x006 j 0 (b2n ns) off
  | .hexit => encA 0x007 0 0 0 0 0 0
  | .hstart d off => encB 0x008 d 0 0 off
  | .idle => encA 0x009 0 0 0 0 0 0
  | .join w a off => encB 0x00A a 0 (b2n w) off
  | .jr a => encA 0x00B 0 0 a 0 0 0
  | .lbrk n => encA 0x00C 0 n 0 0 0 0
  | .loop n c off => encB 0x00D c 0 n off
  | .nop => encA 0x00E 0 0 0 0 0 0
  | .qclr q => encA 0x00F 0 q 0 0 0 0
  | .qset q a => encA 0x010 0 q a 0 0 0
  | .ret => encA 0x011 0 0 0 0 0 0
  | .yield => encA 0x012 0 0 0 0 0 0
  | .add d a b => encA 0x080 0 d a b 0 0
  | .addi d a imm => encA 0x081 0 d a 0 0 (fieldOf 16 imm)
  | .and d a b => encA 0x082 0 d a b 0 0
  | .andi d a imm => encA 0x083 0 d a 0 0 imm
  | .bext d a pos w => encA 0x084 0 d a 0 0 (pos + 64 * w)
  | .bins d a pos w => encA 0x085 0 d a 0 0 (pos + 64 * w)
  | .clz d a => encA 0x086 0 d a 0 0 0
  | .cmp cc d a b => encA 0x087 cc.code d a b 0 0
  | .div d a b => encA 0x088 0 d a b 0 0
  | .divu d a b => encA 0x089 0 d a b 0 0
  | .fadd rm d a b => encA 0x08A rm.code d a b 0 0
  | .fcmp fc d a b => encA 0x08B fc.code d a b 0 0
  | .fcvt dst src rm d a => encA 0x08C (rm.code + 4 * dst.code + 16 * src.code) d a 0 0 0
  | .ffma rm d a b c => encA 0x08D rm.code d a b c 0
  | .fmax d a b => encA 0x08E 0 d a b 0 0
  | .fmin d a b => encA 0x08F 0 d a b 0 0
  | .fmul rm d a b => encA 0x090 rm.code d a b 0 0
  | .fsub rm d a b => encA 0x091 rm.code d a b 0 0
  | .lea d a imm => encC 0x092 0 d a imm
  | .leaPc d imm => encC 0x092 1 d 0 imm
  | .li d imm => encC 0x093 0 d 0 imm
  | .li64 d imm =>
    { len := 3, opc := 0x094, d, a := 0, b := 0, c := 0, qs := 0, gn := 0, ge := 0, sub := 0, imm := 0, hi := imm }
  | .madd d a b c => encA 0x095 0 d a b c 0
  | .max d a b => encA 0x096 0 d a b 0 0
  | .maxu d a b => encA 0x097 0 d a b 0 0
  | .min d a b => encA 0x098 0 d a b 0 0
  | .minu d a b => encA 0x099 0 d a b 0 0
  | .mul d a b => encA 0x09A 0 d a b 0 0
  | .mulh d a b => encA 0x09B 0 d a b 0 0
  | .mulhu d a b => encA 0x09C 0 d a b 0 0
  | .or d a b => encA 0x09D 0 d a b 0 0
  | .ori d a imm => encA 0x09E 0 d a 0 0 imm
  | .popc d a => encA 0x09F 0 d a 0 0 0
  | .rem d a b => encA 0x0A0 0 d a b 0 0
  | .remu d a b => encA 0x0A1 0 d a b 0 0
  | .rot d a b => encA 0x0A2 0 d a b 0 0
  | .sel d a b c => encA 0x0A3 0 d a b c 0
  | .shl d a b => encA 0x0A4 0 d a b 0 0
  | .shlImm d a n => encA 0x0A4 1 d a 0 0 n
  | .shr d a b => encA 0x0A5 0 d a b 0 0
  | .shrImm d a n => encA 0x0A5 1 d a 0 0 n
  | .sra d a b => encA 0x0A6 0 d a b 0 0
  | .sraImm d a n => encA 0x0A6 1 d a 0 0 n
  | .sub d a b => encA 0x0A7 0 d a b 0 0
  | .xor d a b => encA 0x0A8 0 d a b 0 0
  | .xori d a imm => encA 0x0A9 0 d a 0 0 imm
  | .amo op w d a b => encA 0x100 (w.code + 8 * op.code) d a b 0 0
  | .cas w d a b c => encA 0x101 w.code d a b c 0
  | .feclr a off => encA 0x102 0 0 a 0 0 (fieldOf 16 off)
  | .feset a off => encA 0x103 0 0 a 0 0 (fieldOf 16 off)
  | .ld w signed d a off => encA 0x104 (w.code + 4 * b2n signed) d a 0 0 (fieldOf 16 off)
  | .ldf d a off => encA 0x105 0 d a 0 0 (fieldOf 16 off)
  | .ldfe d a off => encA 0x106 0 d a 0 0 (fieldOf 16 off)
  | .ract a off => encA 0x107 0 0 a 0 0 (fieldOf 16 off)
  | .rpre a off => encA 0x108 0 0 a 0 0 (fieldOf 16 off)
  | .st w a off b => encA 0x109 w.code 0 a b 0 (fieldOf 16 off)
  | .stef a off b => encA 0x10A 0 0 a b 0 (fieldOf 16 off)
  | .stf a off b => encA 0x10B 0 0 a b 0 (fieldOf 16 off)
  | .vabs t d a => encA 0x180 (t.code * 4) d a 0 0 0
  | .vadd t rm d a b => encA 0x181 (encET t rm) d a b 0 0
  | .vand d a b => encA 0x182 0 d a b 0 0
  | .vbaq t nsat rm d a b c => encA 0x183 (encET t rm) d a b c (b2n nsat)
  | .vbc t d a => encA 0x184 (t.code * 4) d a 0 0 0
  | .vclamp t d a b c => encA 0x185 (t.code * 4) d a b c 0
  | .vcmp t cc d a b => encA 0x186 cc.code d a b 0 t.code
  | .vcvt dst nsat rm src d a => encA 0x187 (encET dst rm) d a 0 0 (src.code + 16 * b2n nsat)
  | .vdot t rm d a b n => encA 0x188 (encET t rm) d a b 0 n
  | .vdqnt t d a b => encA 0x189 (t.code * 4) d a b 0 0
  | .vext d a lane => encA 0x18A 0 d a 0 0 lane
  | .vfma t rm d a b c => encA 0x18B (encET t rm) d a b c 0
  | .vgat t d a b => encA 0x18C (t.code * 4) d a b 0 0
  | .vins d a lane => encA 0x18D 0 d a 0 0 lane
  | .vld d a off => encA 0x18E 0 d a 0 0 (fieldOf 16 off)
  | .vlds t d a b => encA 0x18F (t.code * 4) d a b 0 0
  | .vmax t d a b => encA 0x190 (t.code * 4) d a b 0 0
  | .vmin t d a b => encA 0x191 (t.code * 4) d a b 0 0
  | .vmov d a => encA 0x192 0 d a 0 0 0
  | .vmul t rm d a b => encA 0x193 (encET t rm) d a b 0 0
  | .vneg t d a => encA 0x194 (t.code * 4) d a 0 0 0
  | .vor d a b => encA 0x195 0 d a b 0 0
  | .vpcnt d p => encA 0x196 0 d p 0 0 0
  | .vperm d a b => encA 0x197 0 d a b 0 0
  | .vpfirst d p => encA 0x198 0 d p 0 0 0
  | .vqnt t nsat rm d a b => encA 0x199 (encET t rm) d a b 0 (b2n nsat)
  | .vred op t d a => encA 0x19A (t.code * 4) d a 0 0 op.code
  | .vrot d a n => encA 0x19B 0 d a 0 0 n
  | .vsca t a b c => encA 0x19C (t.code * 4) 0 a b c 0
  | .vscan op t d a => encA 0x19D (t.code * 4) d a 0 0 op.code
  | .vsel d a b p => encA 0x19E 0 d a b p 0
  | .vshl t d a b => encA 0x19F (t.code * 4) d a b 0 0
  | .vshr t d a b => encA 0x1A0 (t.code * 4) d a b 0 0
  | .vst a off b => encA 0x1A1 0 0 a b 0 (fieldOf 16 off)
  | .vsub t rm d a b => encA 0x1A2 (encET t rm) d a b 0 0
  | .vxor d a b => encA 0x1A3 0 d a b 0 0
  | .cbcfg c base nslots ring e => encE 0x200 0 0 c 0 0 (base + 2 ^ 7 * nslots + 2 ^ 15 * b2n ring) e
  | .cbrel c n e => encE 0x201 0 0 c 0 0 n e
  | .mdrain t acc a pitch rows cols e =>
    encE 0x202 (t.code * 4) 0 acc a 0 (pitch + 2 ^ 16 * rows + 2 ^ 22 * cols) e
  | .mdrainr i32 acc b accn e => encE 0x203 (b2n i32) 0 acc b accn 0 e
  | .mld d a pitch e => encE 0x204 0 d a 0 0 pitch e
  | .mma t d ca offa cb offb kh e =>
    encE 0x205 t.code d ca cb 0 (offa + 2 ^ 7 * offb + 2 ^ 14 * b2n kh) e
  | .mrecv acc n c e => encE 0x206 0 0 acc c 0 n e
  | .msa d a b c e => encE 0x207 0 d a b c 0 e
  | .mz d e => encE 0x208 0 d 0 0 0 0 e
  | .mzPb e => encE 0x208 1 0 0 0 0 0 e
  | .tld t c a pitch rows cols e => encE 0x209 (t.code * 4) 0 c a 0 (pitch + 2 ^ 16 * rows + 2 ^ 22 * cols) e
  | .tst c off a pitch e => encE 0x20A 0 0 c a 0 (off + 2 ^ 7 * pitch) e
  | .apClr off w e => encE 0x280 0 0 0 0 0 (off + 2 ^ 16 * (w - 1)) e
  | .apCmp k d a b e => encE 0x281 0 d a b 0 k.code e
  | .apCnt d a e => encE 0x282 0 d a 0 0 0 e
  | .apFirst d a e => encE 0x283 0 d a 0 0 0 e
  | .apLd a win e => encE 0x284 0 0 a 0 0 (2 ^ 39 * win) e
  | .apMax d off w a e => encE 0x285 0 d a 0 0 (off + 2 ^ 16 * (w - 1)) e
  | .apMcode n a e => encE 0x286 n 0 a 0 0 0 e
  | .apRd d a e => encE 0x287 0 d a 0 0 0 e
  | .apSeq n doff w soff k ct a e =>
    encE 0x288 n 0 a 0 0 (doff + 2 ^ 8 * soff + 2 ^ 16 * (w - 1) + 2 ^ 24 * k + 2 ^ 36 * ct) e
  | .apSt a win e => encE 0x289 0 0 a 0 0 (2 ^ 39 * win) e
  | .apSweep n a b doff w soff k ct c win e =>
    encE 0x28A n 0 a b c
      (doff + 2 ^ 8 * soff + 2 ^ 16 * (w - 1) + 2 ^ 24 * k + 2 ^ 36 * ct + 2 ^ 39 * win) e
  | .apTg op d a b e => encE 0x28B 0 d a b 0 op.code e
  | .apWr a b c e => encE 0x28C 0 0 a b c 0 e
  | .apWrr a b e => encE 0x28D 0 0 a b 0 0 e
  | .tqBind d a b ew => encA 0x28E (if ew = 4 then 0 else if ew = 8 then 1 else if ew = 16 then 2 else 3) d a b 0 0
  | .tqDot signed d a b e => encE 0x28F (b2n signed) d a b 0 0 e
  | .tqFnDir x d a b e => encE 0x290 x.code d a b 0 0 e
  | .tqFnSeg d a b e => encE 0x290 4 d a b 0 0 e
  | .tqLk x d a b e => encE 0x291 x.code d a b 0 0 e
  | .tqPair p8 x d a b c e => encE 0x292 (x.code + 4 * b2n p8) d a b c 0 e
  | .bind h b c => encA 0x300 0 0 h b c 0
  | .bindFe a b c => encA 0x300 1 0 a b c 0
  | .cwait p ch a => encA 0x301 0 p a 0 0 ch
  | .drain p => encA 0x302 p.code 0 0 0 0 0
  | .fence k s => encA 0x303 (s.code + 8 * k.code) 0 0 0 0 0
  | .grpArr h => encA 0x304 0 0 h 0 0 0
  | .grpArrd h => encA 0x305 0 0 h 0 0 0
  | .grpExp h b => encA 0x306 0 0 h b 0 0
  | .grpJoin h p a => encA 0x307 0 h p a 0 0
  | .grpLeave h => encA 0x308 0 0 h 0 0 0
  | .grpNew h p a quorum => encA 0x309 0 h p a 0 quorum
  | .grpRed op t h b => encA 0x30A (op.code + 4 * t.code) 0 h b 0 0
  | .grpRes d h => encA 0x30B 0 d h 0 0 0
  | .grpStat d h => encA 0x30C 0 d h 0 0 0
  | .grpVote op h b => encA 0x30D op.code 0 h b 0 0
  | .grpWait h => encA 0x30E 0 0 h 0 0 0
  | .grpWdog h b => encA 0x30F 0 0 h b 0 0
  | .gwTake d link => encA 0x310 0 d 0 0 0 link
  | .hret => encA 0x311 0 0 0 0 0 0
  | .mpeek d m => encA 0x312 0 d m 0 0 0
  | .mtake d m => encA 0x313 0 d m 0 0 0
  | .qfence mask => encA 0x314 0 0 0 0 0 mask
  | .rpcAmo op dword a b e => encE 0x315 (op.code + 8 * b2n dword) 0 a b 0 0 e
  | .rpcCall nr a idx m b len e => encE 0x316 (b2n nr) 0 a m b (idx + 2 ^ 6 * len) e
  | .rpcFence => encA 0x317 0 0 0 0 0 0
  | .rpcGet w signed m a e => encE 0x318 (w.code + 4 * b2n signed) m a 0 0 0 e
  | .rpcPut form a b hc e =>
    encE 0x319 (match form with
                | .plain w => w.code
                | .full => 11) 0 a b (handleField hc) (handleBit hc) e
  | .rpcReply => encA 0x31A 0 0 0 0 0 0
  | .sendm a idx b e => encE 0x31B 0 0 a b 0 idx e
  | .tcopy ch a d hc e => encE 0x31C 0 d a 0 (handleField hc) (ch + 4 * handleBit hc) e
  | .unbind a => encA 0x31D 0 0 a 0 0 0
  | .cmap a b => encA 0x380 0 0 a b 0 0
  | .cqResume => encA 0x381 0 0 0 0 0 0
  | .ctxRest a => encA 0x382 0 0 a 0 0 0
  | .ctxSave a => encA 0x383 0 0 a 0 0 0
  | .evwait d => encA 0x384 0 d 0 0 0 0
  | .fbufPop d => encA 0x385 0 d 0 0 0 0
  | .jsub a b => encA 0x386 0 0 a b 0 0
  | .qrt a => encA 0x387 0 0 a 0 0 0
  | .redo => encA 0x388 0 0 0 0 0 0
  | .scanAbort => encA 0x389 0 0 0 0 0 0
  | .scanRun a => encA 0x38A 0 0 a 0 0 0
  | .scanSig d => encA 0x38B 0 d 0 0 0 0
  | .sret => encA 0x38C 0 0 0 0 0 0
  | .sysr d r => encA 0x38D 0 d 0 0 0 r.number
  | .sysw a r => encA 0x38E 0 0 a 0 0 r.number
  | .syswStatus a => encA 0x38E 0 0 a 0 0 SysReg.status.number
  | .syswLoop a r => encA 0x38E 0 0 a 0 0 r.number
  | .syswVevCount a => encA 0x38E 0 0 a 0 0 SysReg.vevCount.number
  | .syswCfail a n => encA 0x38E 0 0 a 0 0 (SysReg.cfail n).number
  | .syswFbufStat a => encA 0x38E 0 0 a 0 0 SysReg.fbufStat.number
  | .syswActAlertSrc a => encA 0x38E 0 0 a 0 0 SysReg.actAlertSrc.number
  | .syswSuspect a n => encA 0x38E 0 0 a 0 0 (SysReg.suspect n).number
  | .syswRing a r => encA 0x38E 0 0 a 0 0 r.number
  | .syswPlaneProgress a r => encA 0x38E 0 0 a 0 0 r.number
  | .tlbInv a kind => encA 0x38F kind.code 0 a 0 0 0
  | .tlbReplay => encA 0x390 0 0 0 0 0 0
  | .trap code => encA 0x391 0 0 0 0 0 code
  | .weltRestore => encA 0x392 0 0 0 0 0 0
  | .weltRetire welt layer => encA 0x393 0 0 0 0 0 (layer + 16 * welt)
  | _ => { len := 0, opc := 0, d := 0, a := 0, b := 0, c := 0, qs := 0, gn := 0, ge := 0, sub := 0, imm := 0, hi := 0 }

/-- The word of an instruction as a number: 64 bits in formats A and B, 128 in C and D. -/
def encode (i : Instr) : Nat := pack (rawOf i)

/-- The opcode and SUB of an instruction, as R94 reports them (SUB reads zero in format B). -/
def opcSubOf (i : Instr) : Nat × Nat :=
  let r := rawOf i
  (r.opc, match formOf r.opc with
    | none => 0
    | some f => if f.fmt = .b then 0 else r.sub)

/-- The code space of an instruction (R80). -/
def sizeOf (i : Instr) : Nat := if (rawOf i).len = 1 then 8 else 16

/-- What the decoder reads from an instruction of `nbits` bits whose bits are `w`; the bits above are zero. -/
def decodeTableWord (nbits w : Nat) : Option Instr :=
  match decodeBits (w % 2 ^ nbits) with
  | .ok i => some i
  | .error _ => none

end Sys2Proof
end

