-- ==== Sys2Proof/Config.lean ====
section
/-! DEFINITION. What the spec leaves open, as constants without a body: nothing can be proved of their values.
Each is read at a counter of the state (`State.tick`) and, where several are read in one step, at a key. -/

namespace Sys2Proof

/-- An upset of one FP unit (R321): the bits its result, or its shadow's view of it, turns into. `unit` is numbered as
in SUSPECT (R75). -/
structure Upset where
  unit : Nat
  shadow : Bool
  bits : BitVec 32
deriving DecidableEq, Repr, Inhabited

/-- What happens next in the machine: a context issues (slots 0 to 10 are the core's contexts, 11 to 18 its handler
contexts), another agent takes a step of the opcode table, one level of a page walk is read (R150), one FP unit is
upset, a Welt or a scratchpad stripe will misread its next access, the oldest switching of a vault's Welts ends (R184, R185), a
Welt segment fails its line test as a whole (R184), a vault's record of its repair log can no longer be read (R189), bring-up goes a step
further (R339), the stored firmware image is lost (R339), firmware sets the rail and the clock of a DRAM layer, the base die's temperature changes below its limits (R340), the words of
a message arrive at the Phova port (R332), or the control node's loader fills an entry of a handler table (R106). -/
inductive Move where
  | issue (core slot : Nat)
  | event (i : Instr)
  | walkRead (cluster n : Nat)
  | upset (core : Nat) (u : Upset)
  | beats (core : Nat) (found : BeatFinding)
  | stripe (core : Nat) (found : StripeFinding)
  | weltDone (core : Nat)
  | weltFails (core welt seg : Nat)
  | recordLost (core : Nat)
  | bringUp
  | imageLost
  | layerPoint (layer mv mhz : Nat)
  | junction (temp : Nat)
  | port (words : List (BitVec 64))
  | handlerEntry (core idx : Nat) (pc : BitVec 64)
deriving DecidableEq, Repr, Inhabited

namespace Config

/-- The next move when the agenda holds none. -/
opaque move : Nat → Move

/-- A free bit, by counter and key. -/
opaque bit : Nat → Nat → Bool

/-- A free number, by counter and key. -/
opaque nat : Nat → Nat → Nat

/-- A free word, by counter and key. -/
opaque word : Nat → Nat → BitVec 64

/-- A free vector register value, by counter and key. -/
opaque vword : Nat → Nat → BitVec 2048

/-- The bytes of the firmware image in force at reset (R334). -/
opaque image : List (BitVec 8)

/-- What the header of an image says, by its bytes: the spec places no field of it but the signature (R313, R319, R328, R334). -/
opaque imageVersion : List (BitVec 8) → Nat
opaque imageLength : List (BitVec 8) → Nat
opaque imageVector : List (BitVec 8) → BitVec 64
opaque imageScan : List (BitVec 8) → Nat → BitVec 64
opaque imageDebugKey : List (BitVec 8) → Option Nat

/-- The module's version floor at reset (R334). -/
opaque versionFloor : Nat

/-- The `sp` sections of the object whose code starts at an entry PC of an address space, as offset and byte (R106): no
message of the control node carries them. -/
opaque spSections : BitVec 16 → BitVec 64 → List (Nat × BitVec 8)

/-- The module serial (R333). -/
opaque serial : BitVec 64

/-- Whether a signature verifies over signed bytes with the image key (R334). -/
opaque imageSigned : List (BitVec 8) → List (BitVec 8) → Bool

/-- Whether a debug signature verifies, by key, serial, nonce and enable bit (R319). -/
opaque debugSigned : Nat → BitVec 64 → Nat → Bool → List (BitVec 8) → Bool

/-- The words of a digest of the logical core map, and of the device's signature over a report's SHA-256 digest (R335). -/
opaque mapDigest : List (BitVec 8) → Nat → BitVec 64
opaque reportSigned : List (BitVec 8) → Nat → BitVec 64

/-- What the body of a Phova message of a kind comes to, by the message's tag, where the spec gives the body no layout (R333). -/
opaque portBody : Nat → Nat → List (BitVec 64) → Option Instr

/-- The length of the body of a Phova message of a kind whose body has one length, in 16-byte units, where the spec gives none (R332). -/
opaque portUnits : Nat → Nat

end Config
end Sys2Proof
end

