-- ==== Sys2Proof/Machine/Store.lean ====
section
/-! DEFINITION. Finite maps from numbers as plain data: lists of key and value in rising key order, with a default
for the keys they do not list, and finite sets of numbers in rising order. -/

namespace Sys2Proof.Machine

/-- Values by key; a key that is not listed holds the reader's default. -/
abbrev Store (α : Type) := List (Nat × α)

/-- The value at a key, or the default. -/
def Store.get {α : Type} (d : α) : Store α → Nat → α
  | [], _ => d
  | (k, v) :: m, n => if k = n then v else Store.get d m n

/-- Write a value at a key, in key order. -/
def Store.set {α : Type} : Store α → Nat → α → Store α
  | [], n, x => [(n, x)]
  | (k, v) :: m, n, x =>
    if n < k then (n, x) :: (k, v) :: m
    else if n = k then (n, x) :: m
    else (k, v) :: Store.set m n x

/-- Remove a key. -/
def Store.erase {α : Type} : Store α → Nat → Store α
  | [], _ => []
  | (k, v) :: m, n => if k = n then m else (k, v) :: Store.erase m n

/-- Write a value so that no listed value equals the default: the canonical form of memory. -/
def Store.put {α : Type} [DecidableEq α] (d : α) (m : Store α) (n : Nat) (x : α) : Store α :=
  if x = d then Store.erase m n else Store.set m n x

/-- The keys rise strictly. -/
def Store.rising {α : Type} : Store α → Bool
  | [] => true
  | [_] => true
  | (k, _) :: (k', v') :: m => decide (k < k') && Store.rising ((k', v') :: m)

/-- No listed value equals the default. -/
def Store.proper {α : Type} [DecidableEq α] (d : α) (m : Store α) : Bool := m.all (fun p => decide (p.2 ≠ d))

/-- Remove the n-th element of a list. -/
def dropAt {α : Type} : List α → Nat → List α
  | [], _ => []
  | _ :: l, 0 => l
  | x :: l, n + 1 => x :: dropAt l n

/-- Change the n-th element of a list. -/
def modAt {α : Type} (f : α → α) : List α → Nat → List α
  | [], _ => []
  | x :: l, 0 => f x :: l
  | x :: l, n + 1 => x :: modAt f l n

/-- The numbers `0 … n-1`, lowest first. -/
def upTo (n : Nat) : List Nat := List.range n

/-- Do a thing for each element, in order. -/
def forEach {α σ : Type} (l : List α) (s : σ) (f : α → σ → σ) : σ := l.foldl (fun s a => f a s) s

end Sys2Proof.Machine
end

