-- ==== Sys2Proof/Machine/State.lean ====
section
/-! DEFINITION. The state of a GW3 device as plain data, its reset value, and the reasons a step can stop.
Every field's default is its value at reset; notes/assumptions/2.md names those the spec does not give. -/

namespace Sys2Proof.Machine

/-- A step of this model never stops with a fault: every failing access of the machine is an exception that the spec
describes. The one constructor is raised by nothing (safe). -/
inductive Fault where
  | none
deriving DecidableEq, Repr

/-- Why a step is refused. -/
inductive Refusal where
  /-- An arm of `exec` that has no meaning yet (safe: nothing is claimed of it). No meaning raises it. -/
  | notModelled (mnemonic : String)
deriving DecidableEq, Repr

/-! ## Contexts -/

/-- A context of a physical core: slots 0 to 10 are the contexts of R26, 11 to 18 the handler contexts of R267. -/
structure Who where
  core : Nat
  slot : Nat
deriving DecidableEq, Repr, Inhabited

/-- Who asks for a translation or a bank: a context for an access or a fetch, or the head of an engine queue; at a bank also a
command by its queue and number, a message by its number, and a chunk write by channel, transfer and offset. -/
inductive Client where
  | ctx (w : Who)
  | fetch (w : Who)
  | queue (core q : Nat)
  | cmd (core q seq : Nat)
  | msg (id : Nat)
  | leg (core ch seq offset : Nat)
deriving DecidableEq, Repr

/-- An access of `len` bytes at an offset that waits at its bank (R168): when it arrived there, the pieces of work, by number, for which a
stall of it has been counted, whom its events are charged to, and for a command that a stall suspends its SUSP code and number (R176,
R178). -/
structure Waiting where
  client : Client
  since : Nat
  off : Nat
  len : Nat
  charged : Who
  susp : Nat := 0
  seq : Nat := 0
  counted : List Nat := []
deriving DecidableEq, Repr

/-- The physical address of an access that has been translated and waits at a bank or for its owner: it completes under that
translation, whatever `tlb.inv` removes meanwhile (R159). -/
structure Resolved where
  client : Client
  va : Nat
  pa : Nat
deriving DecidableEq, Repr

/-- A guard slot (R49). -/
inductive GuardState where
  | pending | yes | no
deriving DecidableEq, Repr

/-- The membership kind of a handle register (R246). `gathered` is JOINING inside a record in GATHER, which M counts
already (R249). -/
inductive MemberKind where
  | none | joining | gathered | member
deriving DecidableEq, Repr

/-- A handle register with its membership state (R246). `ap` is MS.AP; while JOINING it is the phase joined in. `no` tells the memberships
that a register has held apart: the step at which it was created or joined. -/
structure Handle where
  value : Word := 0
  kind : MemberKind := .none
  arrived : Bool := false
  ap : BitVec 32 := 0
  no : Nat := 0
deriving DecidableEq, Repr

/-- A hardware loop (R54, R72). -/
structure Loop where
  count : BitVec 32 := 0
  active : Bool := false
  first : Word := 0
  last : Word := 0
deriving DecidableEq, Repr

/-- A register whose reads R44 and R48 speak of. -/
inductive RegName where
  | g (n : Nat) | v (n : Nat) | p (n : Nat)
deriving DecidableEq, Repr

/-- A register and the value written to it. -/
inductive RegWrite where
  | g (n : Nat) (x : Word)
  | v (n : Nat) (x : VWord)
  | p (n : Nat) (x : Word)
deriving DecidableEq, Repr

/-- A fixed-latency result that has issued (R44): the later instructions still to issue before every read sees it,
the write if no later write to the register has overtaken it (R45), and the flags it sets. -/
structure Flight where
  left : Nat
  write : Option RegWrite
  flags : BitVec 5 := 0
deriving DecidableEq, Repr

/-- One diverged unit of a divergence record: its number, the lane it computed, and its shadow's result as destination-format bits. -/
structure Diverged where
  unit : Nat
  lane : Nat
  shadow : BitVec 32
deriving DecidableEq, Repr

/-- A record of R324: the instruction, its held result, its flags, and the units that diverged, lowest first.
`overtaken` says that a later-issued instruction wrote the destination (R327), `age` counts up to the result distance of 4 the
instructions issued since, from where a shorter distance leaves it, and `scales` are the scale words the instruction had read. -/
structure DivRecord where
  instr : Instr
  write : RegWrite
  flags : BitVec 5
  units : List Diverged
  overtaken : Bool := false
  age : Nat := 0
  scales : List Nat := []
deriving DecidableEq, Repr

/-- The pending asynchronous traps of R317, at most one of a kind: PREEMPT's TVAL; cause and TVAL of a command-precise
fault; TVAL of a matrix divergence; cause and TVAL of a reported remote failure; TVAL of a late UNCORRECTABLE; TVAL of a
DRAM event. A divergence of the context's own instructions is pending while its record is not empty. -/
structure Pending where
  preempt : Option Word := none
  command : Option (Nat × Word) := none
  matrix : Option Word := none
  engine : Option (Nat × Word) := none
  late : Option Word := none
  dram : Option Word := none
deriving DecidableEq, Repr

/-- The reply state of a handler or of a task shipped from one (R268, R269): the caller as SRC of R266, the base
mailbox, whether the reply was sent, whether the call is `.nr`, its IDX, the caller's remote operation, the ring entry,
the called address and the caller's job. -/
structure Reply where
  caller : Word
  who : Who
  gen : Nat
  mail : Nat
  sent : Bool := false
  nr : Bool
  idx : Nat
  op : Nat
  entry : Option Nat
  va : Word
  job : BitVec 32
deriving DecidableEq, Repr

/-- A fire-and-forget operation that `ORC` counts (R66): its number, the target's device and column (device 64 where the
address is not translated yet), and whether it is a `.nr` call that an agent has accepted (R78). `sendm` is in the domain set only (R289). -/
structure RemoteOp where
  id : Nat
  dev : Nat
  column : Nat
  send : Bool := false
  accepted : Bool := false
  va : Nat := 0
  len : Nat := 0
deriving DecidableEq, Repr

/-- The register classes of one context (R60). -/
structure RegFile where
  g : Store Word := []
  v : Store VWord := []
  p : Store Word := []
  q : Store GuardState := []
  h : Store Handle := []
  tb : Store Word := []
deriving DecidableEq, Repr

/-- STATUS by fields (R64); DBG is the module's. -/
structure Status where
  pl : BitVec 2 := 0
  ppl : BitVec 2 := 0
  intrap : Bool := false
  hzd : Bool := false
  fflags : BitVec 5 := 0
deriving DecidableEq, Repr

/-- The trap and shadow-stack registers of a context (R63, R65, R504). -/
structure TrapRegs where
  epc : Word := 0
  tcause : Word := 0
  tval : Word := 0
  ssp : Word := 0
  sslim : Word := 0
  scratch : Word := 0
  vrefSel : BitVec 6 := 0
deriving DecidableEq, Repr

/-- When a release issued: it covers the writes that left its context before that step, and its remote operations numbered below that
number (R284). -/
structure Before where
  step : Nat := 0
  op : Nat := 0
deriving DecidableEq, Repr

/-- A deferred arrival that the core holds (R254): the handle register, its handle, the transfers, as channel and
sequence number, that must complete first, its membership, and the writes that it covers as a release. -/
structure HeldArrival where
  h : Nat
  handle : Word
  waits : List (Nat × BitVec 32)
  no : Nat := 0
  covers : Before := {}
deriving DecidableEq, Repr

/-- What a context holds between instructions, beside its registers. `hand` is a variable-latency item issued and not
complete (R47); `waiting` is an instruction that has issued and interlocks its context until it can go on, which needs no second issue (R32,
R47); `progress` is the restart progress that `sret` or a restore passed on (R55); `fwEntry` says that the
firmware vector was entered with this cause and R313's firmware action is due; `gen` counts the tasks started here;
`joinAt` is the record of R414; `yields` are the skip marks of R501 by pipe; `dramTrap` are the queues that DRAM events had
suspended for the context when it took a DRAM_EVENT trap, whose `sret` resumes them (R178);
`gates` are the ring entries taken by `gw.take`, by link; `opNext` numbers remote operations from 1 on; `returnTrap` says that a
handler has met the return trap (R267); `drain` lists the commands a `drain` still waits for, as queue and number; `copyWords` are the descriptor words that a `tcopy`
had read when a poisoned one stopped its issue (R464); `guards` are the changes of guard slots that are not in force yet, oldest first, as
slot, state and the clock at which it was issued (R434); `issuing` says that a `tcopy` has begun to read its descriptor (R464). In a handler, `fwEntry` is the cause of its fault (R270). -/
structure Hold where
  hand : Option Instr := none
  waiting : Option Instr := none
  flights : List Flight := []
  progress : Option Nat := none
  divergence : List DivRecord := []
  pending : Pending := {}
  fwEntry : Option Nat := none
  gen : Nat := 0
  joinAt : Option (Word × Word) := none
  yields : BitVec 3 := 0
  dramTrap : List Nat := []
  gates : Store Nat := []
  opNext : Nat := 1
  returnTrap : Bool := false
  drain : Option (List (Nat × BitVec 32)) := none
  copyWords : Store Word := []
  guards : List (Nat × GuardState × Nat) := []
  issuing : Bool := false
deriving DecidableEq, Repr

/-- One context: LIVE or not (R27), its PC, and everything context-scope of R60 and R63. -/
structure Ctx where
  live : Bool := false
  pc : Word := 0
  status : Status := {}
  regs : RegFile := {}
  lc0 : Loop := {}
  lc1 : Loop := {}
  trap : TrapRegs := {}
  remote : List RemoteOp := []
  held : List HeldArrival := []
  reply : Option Reply := none
  hold : Hold := {}
deriving DecidableEq, Repr

/-! ## The engines of a core -/

/-- What a running copy keeps (R277, R295, R309): the paths its chunks have written as bits, the cause and TVAL of a
command-precise failure, the bytes credited and those of chunks that failed, and whether it is a replay. -/
structure CopyRun where
  paths : Nat := 0
  cause : Nat := 0
  tval : Word := 0
  credited : Nat := 0
  lost : Nat := 0
  replay : Bool := false
deriving DecidableEq, Repr

/-- A command in an engine queue (R34, R209). Operands are read at issue (R203): `ops` are the scalar values and `vops`
the vector values that its form names, in field order; `desc` is a copy descriptor or a call's payload words; `pos` is
the stream position a tile load holds (R193), or marks the place that a self-send reserves (R274); `done` counts bytes, rows, passes or chunks delivered; `joint` is its
number in the other queue if it is a joint command (R197); `squashed` is R178's and R309's; `arb` says that a sweep's
wait for its transfer is over (R241); `buf` are the bytes read so far by a command that its bank has cut off (R174), `sent`
the bytes it has written (of a sweep, its rows up to the last one stored), `row` the row that a sweep is at, `vals` the table entries that its pass has read (R220), `quar` the columns that were
quarantined when it issued (R326), `resumed` says that it goes on behind a suspension or a restore and has not been checked yet (R243), and `no` is the step that issued it. -/
structure Cmd where
  instr : Instr
  slot : Nat
  gen : Nat
  pc : Word
  seq : BitVec 32
  op : Option Nat := none
  ops : List Word := []
  vops : List VWord := []
  desc : List Word := []
  pl : BitVec 2 := 0
  joint : Option (BitVec 32) := none
  passed : Bool := false
  running : Bool := false
  failed : Option (Nat × Nat) := none
  pos : Option Nat := none
  done : Nat := 0
  squashed : Bool := false
  arb : Bool := false
  credit : Option Word := none
  copy : CopyRun := {}
  buf : List Byte := []
  sent : Nat := 0
  row : Nat := 0
  vals : Store Nat := []
  quar : List Nat := []
  resumed : Bool := false
  no : Nat := 0
deriving DecidableEq, Repr

/-- An entry of an engine queue: a command, or a barrier of `qfence` with its number and its queues (R294). -/
inductive Entry where
  | cmd (c : Cmd)
  | barrier (id mask : Nat)
deriving DecidableEq, Repr

/-- An engine queue: its entries, head first, the next sequence number, whether a command-precise fault holds it
(R160), and the context a DRAM event suspended its head for (R178). -/
structure Queue where
  entries : List Entry := []
  next : BitVec 32 := 0
  held : Bool := false
  suspended : Option Nat := none
deriving DecidableEq, Repr

/-- A stream (R191); `assigned` counts the positions from HEAD that a `tld` holds or that are committed (R193). -/
structure Stream where
  base : Nat := 0
  nslots : Nat := 0
  ring : Bool := false
  head : Nat := 0
  resv : Nat := 0
  comm : Nat := 0
  assigned : Nat := 0
deriving DecidableEq, Repr

/-- A slot of the operand buffer: 32 rows of 64 B, the valid rows, and the valid bytes of each (R191). -/
structure TileSlot where
  rows : Store (BitVec 512) := []
  valid : Nat := 0
  bytes : Nat := 0
deriving DecidableEq, Repr

/-- The receive state of an accumulator (R205, R206): add-ins left, received, the offset of the word, the status. -/
structure Receive where
  left : Nat
  got : Nat := 0
  word : Nat
  status : Nat := 0
deriving DecidableEq, Repr

/-- An accumulator: 1,024 elements of 32 bits, row-major, the receive state, and the senders whose add-ins it refused,
oldest first (R207). -/
structure Acc where
  elems : Store (BitVec 32) := []
  recv : Option Receive := none
  refused : List Nat := []
deriving DecidableEq, Repr

/-- The plane (R224): data columns, tag columns, poison marks, user sequences 8 to 15 as header and steps (R234), and
the progress registers (R73). -/
structure Plane where
  cols : Store PlaneColumn := []
  tags : Store PlaneColumn := []
  poison : PlaneColumn := 0
  seqs : Store (List Word) := []
  apmpc : Word := 0
  apsweep : Word := 0
deriving DecidableEq, Repr

/-- The presence of a mailbox and its mark (R273). -/
inductive Presence where
  | absent | pending | plain | poison | fault
deriving DecidableEq, Repr

/-- A mailbox (R273); `reply` says that a call's reply filled it, which makes taking it an acquire (R285). -/
structure Mailbox where
  state : Presence := .absent
  value : Word := 0
  reply : Bool := false
deriving DecidableEq, Repr

/-- Mailboxes, the overflow queue with the places that self-sends reserve (R274), and the contexts waiting at a
mailbox, or at link n as number 32 + n, oldest first (R431, R408). -/
structure Mail where
  boxes : Store Mailbox := []
  overflow : List (Nat × Word) := []
  reserved : Nat := 0
  waiters : List (Nat × Nat) := []
deriving DecidableEq, Repr

/-- An entry of the payload ring (R272): its number, first unit, units, whether freed, and for a gateway block its
link, its index and whether taken (R280). -/
structure RingEntry where
  id : Nat
  start : Nat
  units : Nat
  freed : Bool := false
  block : Option (Nat × Nat) := none
  taken : Bool := false
deriving DecidableEq, Repr

/-- A task record (R35). -/
structure TaskRecord where
  pc : Word
  args : List Word
  stackless : Bool
  join : Word
  pl : BitVec 2
deriving DecidableEq, Repr

/-- A handler-return record (R268). -/
structure ReturnRecord where
  pc : Word
  g : Store Word
  reply : Reply
deriving DecidableEq, Repr

/-- Stealing (R41): the last victim tried (at the start index 0 counts as tried, so that the first round begins with index 1:
DESIGN CHOICE, notes/assumptions/112.md), the request in flight, its answer if one is on the way back, the victims
left in the round, and the wait between rounds. -/
structure Steal where
  last : Nat := 0
  victim : Option Nat := none
  answer : Option (Option TaskRecord) := none
  left : Option Nat := none
  waiting : Bool := false
deriving DecidableEq, Repr

/-- CFAIL of one channel (R67). -/
structure CopyFail where
  fcount : Nat := 0
  valid : Bool := false
  id : BitVec 32 := 0
deriving DecidableEq, Repr

/-- CFR and CFR_PC (R68), and the command-precise faults that wait for it, oldest first: queue, context, generation,
cause, sequence number, command address and TVAL; the stream of a `tld`, whose reservation `cq.resume` cancels (R193), and
whether the command was a joint one. -/
structure CommandFault where
  queue : Nat
  slot : Nat
  gen : Nat
  cause : Nat
  seq : BitVec 32
  pc : Word
  tval : Word
  stream : Option Nat := none
  joint : Bool := false
deriving DecidableEq, Repr

/-- The core-scope registers that a save keeps (R78), by the names of R63. `cfr` is CFR while VALID. -/
structure PartRegs where
  tvec : Word := 0
  cdone : Store (BitVec 32) := []
  cfail : Store CopyFail := []
  cdrainLimit : Word := 8192
  cfr : Option CommandFault := none
  cfrLast : Word := 0
  cfrPc : Word := 0
  faults : List CommandFault := []
  arbwin : Word := 64
  vevMask : Word := 0
  vevCount : Word := 0
  ringBase : Word := 0x7C800
  ringSize : Word := 0x3000
  htabBase : Word := 0x0B150000
deriving DecidableEq, Repr

/-- A chunk write that a channel has sent (R277): key and bytes, offset in the transfer, virtual address, the link it travels on to
another device (R336), whether an agent has refused it, so that a message on its list stands for it (R271), and whether it has been
spilled, so that its transfer has counted it as performed (R275). -/
structure Leg where
  key : Nat
  bytes : List Byte
  offset : Nat
  va : Word
  link : Option Nat := none
  listed : Bool := false
  spilled : Bool := false
deriving DecidableEq, Repr

/-- What a core holds of a part and saves with it (R78). The scratchpad and the vault are in `Memory`. `heldAt` are the
accesses held for the scratchpad of a pre-empted cluster-mate, as owner and context, oldest first (R148). -/
structure Part where
  ctxs : Store Ctx := []
  queues : Store Queue := []
  loads : List Cmd := []
  legs : Store (List Leg) := []
  streams : Store Stream := []
  slots : Store TileSlot := []
  accs : Store Acc := []
  pb : Store (BitVec 32) := []
  plane : Plane := {}
  mail : Mail := {}
  ring : List RingEntry := []
  ringNext : Nat := 0
  /-- The ring's tail, in 64-byte units from its base. -/
  ringAt : Nat := 0
  deque : List TaskRecord := []
  returns : List ReturnRecord := []
  steal : Steal := {}
  regs : PartRegs := {}
  barriers : Nat := 0
  heldAt : List (Nat × Nat) := []
deriving DecidableEq, Repr

/-! ## What stays with the physical core -/

/-- What a bank is doing (R166): a targeted refresh works through the places next to a row, one after the other (R180). -/
inductive BankBusy where
  | idle | refresh | targeted (places : List Nat) | repair
deriving DecidableEq, Repr

/-- A bank of a vault (R166): its open row, its work with the work's number, the row of its next refresh and the DRAM clock at which
that falls due (none: the free phase after a reset, R173), its spare rows in use as failing row and spare, the times a row was
found failing since it was last mapped (R186), and the accesses that wait for it (R168). -/
structure Bank where
  row : Option Nat := none
  busy : BankBusy := .idle
  work : Nat := 0
  next : Nat := 0
  due : Option Nat := none
  spares : List (Nat × Nat) := []
  scrubs : Store Nat := []
  waiting : List Waiting := []
deriving DecidableEq, Repr

/-- A Welt that is quiesced for a lane repair, or on which a segment is being switched over, with the work's number (R184, R185). -/
structure Switching where
  welt : Nat
  seg : Option Nat
  work : Nat
deriving DecidableEq, Repr

/-- A vault's controller, Welts and repair log (R166 to R190). Banks are keyed `layer × 4 + bank`, activation counts
`(layer × 4 + bank) × 2048 + row`. `switching` are the switchings of its Welts in order. `recordLost` says that the non-volatile
record of the log cannot be read (R189), and `dead` that the agent of a removed core failed its self-test (R330). `origin` is the step of the
device's last reset, which settles the phases of refresh (R173). `operations` are the contexts
whose `welt.restore` or `welt.retire` the agent performs, or will, in order of arrival (R498). `arrivals` numbers the requests that have reached the controller (R168), and `works` the
refreshes, repairs and switchings that have begun (R176). -/
structure Vault where
  banks : Store Bank := []
  counts : Store Nat := []
  temps : Store Nat := []
  throttled : List Nat := []
  retired : List (Nat × Nat) := []
  blocked : List (Nat × Nat) := []
  failing : List WeltLine := []
  repaired : List WeltLine := []
  log : List (Word × Word) := []
  switching : List Switching := []
  recordLost : Bool := false
  dead : Bool := false
  origin : Nat := 0
  operations : List Nat := []
  arrivals : Nat := 0
  works : Nat := 0
deriving DecidableEq, Repr

/-- The Gazetteer latch (R214): the region row held and its bytes, and the poisoned sectors. -/
structure Latch where
  row : Option Nat := none
  bytes : List Byte := []
  poison : List Nat := []
deriving DecidableEq, Repr

/-- What a buffered direct write does at its unit (R281, R145, R169). -/
inductive ReqKind where
  | store | storeFull | setFull | setEmpty | activate | precharge
deriving DecidableEq, Repr

/-- A direct write, or a row request, that has left its context and is not yet performed (R144, R168, R281): its
context, that context's generation, its virtual and physical address, its bytes, its job, and as for an access that waits at a
bank when it arrived and what has been counted for it (R168, R176). `no` is the step at which it left; an `stf` is a release of
the context's writes that left before, its remote operations numbered below `opMark` among them, to the regions that are bound to its word
for `asid` when it is performed (R284, R288, R459). -/
structure Req where
  kind : ReqKind
  who : Who
  gen : Nat
  va : Word
  key : Nat
  bytes : List Byte := []
  job : BitVec 32 := 0
  since : Nat := 0
  counted : List Nat := []
  no : Nat := 0
  asid : BitVec 16 := 0
  opMark : Nat := 0
deriving DecidableEq, Repr

/-- A full/empty operation or a `join` that waits at a word (R146, R37), with its address and the value it stores. -/
structure FeWait where
  key : Nat
  who : Who
  instr : Instr
  va : Word
  value : Word := 0
deriving DecidableEq, Repr

/-- A translation of one page or range (R151, R153): the virtual base, its size, the physical base, its W, X and U
bits, its address space, and a range's index in its table. -/
structure Mapping where
  asid : BitVec 16
  base : Nat
  size : Nat
  target : Nat
  w : Bool
  x : Bool
  u : Bool
  index : Nat := 0
deriving DecidableEq, Repr

/-- What runs on a core (R28, R305): job identifier, address space, index, count, domain, tier, flags, the moment it
started or was restored, whether it started by pre-empting, and whether it has run for MAXSLICE − 20 µs. -/
structure Running where
  job : BitVec 32
  asid : BitVec 16
  index : Nat
  count : Nat
  domain : Nat
  tier : Nat
  notify : Bool
  since : Nat
  preempting : Bool
  sliced : Bool := false
deriving DecidableEq, Repr

/-- A saved image (R310, R311): the part, what ran, TS at step 3, the scratchpad with its full/empty bits and poison
marks, and whether `ctx.save` made it (R387). -/
structure Image where
  part : Part
  run : Running
  logical : Nat
  ts : Nat
  words : Store Byte := []
  full : List Nat := []
  poison : List Nat := []
  held : Bool := false
deriving DecidableEq, Repr

/-- Where a pre-emption of a core stands (R308): not asked for, the DX's interrupt on its way, issue stopped (steps 1 and 2),
or the save begun at a value of TS (steps 3 to 7). -/
inductive Preemption where
  | none
  | called
  | stopping
  | saving (ts : Nat)
deriving DecidableEq, Repr

/-- What a message is refused for at an agent: one of its resources, or an earlier message of its lane that stands refused (R271). -/
inductive Resource where
  | handler | ring | overflow | spill | lane
deriving DecidableEq, Repr

/-- Counters and marks of a core that a save leaves alone (R79) and the model's upsets. `cycle` is the clock at the core's last
reset, from which CYCLE counts; `events` is the latch of R320;
`suspects` are the scores of R75; the scan registers are R76's; `spCorrections` are the clock readings of a scratchpad bank's
last corrections, newest first, and `spFailed` its failed banks (R162). -/
structure CoreMarks where
  cycle : Nat := 0
  actAlert : Word := 0
  actValid : Bool := false
  suspects : Store Nat := []
  scanTarget : Nat := 0
  scanPattern : Nat := 0
  scanState : Nat := 0
  scanSig : Word := 0
  events : BitVec 6 := 0
  degraded : Bool := false
  scanFailed : Bool := false
  underScan : Bool := false
  spCorrections : Store (List Nat) := []
  spFailed : List Nat := []
  upsets : List Upset := []
  beats : BeatFinding := .clean
  stripe : StripeFinding := .clean
deriving DecidableEq, Repr

/-- What a message carries; `word` is a completion word for a core that is saved (R275). -/
inductive Body where
  | put (key : Nat) (bytes : List Byte) (full : Bool) (credit : Option Word)
  | amo (key : Nat) (op : AmoOp) (dword : Bool) (value : Word)
  | get (key : Nat) (w : Width) (signed : Bool) (mail : Nat)
  | call (nr : Bool) (idx : Nat) (args : List Word) (payload : List Byte) (mail : Nat)
  | send (idx : Nat) (value : Word)
  | gateway (link index : Nat) (payload : List Byte) (src : Word) (asid : BitVec 16)
  | leg (ch : Nat) (seq : BitVec 32) (leg : Leg)
  | mail (base : Nat) (values : List (Presence × Word)) (isReply : Bool)
  | word (key : Nat) (value : Word)
  | ended
  | failed (status cause : Nat) (tval : Word)
deriving DecidableEq, Repr

/-- A message in flight (R271, R291): its source context with that context's generation and job, the target core (0x1000 + d
for device d), its number, which is 0 for a chunk write that its channel holds, its lane, the resource it was refused for, since when, and whether the agent has sent its notice, the completion word it reports to with its
sequence number, the remote operation `ORC` counts, the target's virtual address, and the link it travels on to another device
(R336). -/
structure Msg where
  src : Who
  gen : Nat
  job : BitVec 32
  dst : Nat
  id : Nat := 0
  lane : Nat
  refused : Option Resource := none
  since : Nat := 0
  noticed : Bool := false
  cw : Option (Nat × BitVec 32) := none
  op : Option Nat := none
  va : Word := 0
  link : Option Nat := none
  body : Body
deriving DecidableEq, Repr

/-- The context each pipe last issued from, its round-robin pointer (R32), and the handler context that the agent last issued from
(R267). -/
structure Pointers where
  scalar : Nat := 0
  vector : Nat := 0
  engine : Nat := 0
  handler : Nat := 0
deriving DecidableEq, Repr

/-- A physical core with its vault agent. -/
structure Core where
  part : Part := {}
  run : Option Running := none
  /-- JOB_ID and ASID as the identity registers last read (R63). -/
  jobId : BitVec 32 := 0
  asid : BitVec 16 := 0
  handlers : Store Ctx := []
  saved : Option Image := none
  preemption : Preemption := .none
  /-- 32-byte fetch blocks the instruction store holds, by vault offset div 32 (R14, R97). -/
  code : Store (List Byte) := []
  l1Ranges : List Mapping := []
  l1Pages : List Mapping := []
  resolved : List Resolved := []
  latch : Latch := {}
  vault : Vault := {}
  marks : CoreMarks := {}
  requests : List Req := []
  vaultRequests : List Req := []
  words : List FeWait := []
  /-- The spill queue, oldest first (R275). -/
  spill : List Msg := []
  /-- The context whose `ctx.save` or `ctx.rest` names this core, with its generation (R387). -/
  requester : Option (Who × Nat) := none
  pointers : Pointers := {}
deriving DecidableEq, Repr

/-! ## Storage -/

/-- The device's storage. `bytes` lists the bytes that are not zero, at `column key × 2^47 + offset`, where the column
key is the physical core, or 0x7FF for the far column. `flips` lists, by address div 32, the 32-byte vault and far units whose poison
mark is not what a cold reset leaves: every unit poisoned (R190). `logs` says that the repair logs have been written whole since
(R189), so that their units are clean instead, and `logFlips` lists the logs for which that is the other way round, as 2 × core
and one more for the partner's. `wordPoison` the poisoned scratchpad words and `full` the full ones, by address
div 8 (R145, R165). -/
structure Memory where
  bytes : List Host.Cell := []
  flips : List Nat := []
  logs : Bool := true
  logFlips : List Nat := []
  wordPoison : List Nat := []
  full : List Nat := []
deriving DecidableEq, Repr

/-! ## Clusters -/

/-- How far a translation request is (R150, R156, R158): at a level with the table it reads next, parked at an absent
page of a size code, or done with a mapping or without one. -/
inductive WalkState where
  | walking (level table : Nat)
  | parked (size page : Nat)
  | done (m : Option Mapping)
deriving DecidableEq, Repr

/-- A request in a cluster's L2 translation unit, with the permissions it needs (R155); `page` is the page, as size code and
address, for which a replay walks it together with the others that were parked there (R158). -/
structure Walk where
  client : Client
  asid : BitVec 16
  va : Nat
  write : Bool
  exec : Bool
  user : Bool
  state : WalkState
  page : Option (Nat × Nat) := none
deriving DecidableEq, Repr

/-- A cluster's L2 translation unit, fault buffer and scan engine (R154 to R158, R328). `read` lists the address spaces
whose range table has been read. `scan` is issuer and target of the running scan, and whether it is to stop. -/
structure Cluster where
  ranges : List Mapping := []
  read : List (BitVec 16) := []
  pages : List Mapping := []
  walks : List Walk := []
  fbuf : List Word := []
  dropped : Bool := false
  dropCount : Nat := 0
  scan : Option (Nat × Nat × Bool) := none
deriving DecidableEq, Repr

/-- The contribution kind of a phase (R255). -/
inductive Contribution where
  | none
  | red (op : RedOp) (t : RedType)
  | vote (op : VoteOp)
deriving DecidableEq, Repr

/-- An arrival held while a record is in GATHER (R253): the context, or none for a deferred arrival of a core and a
handle register, with its contribution, its membership and the job of that, and the writes that it covers as a release. -/
structure GatherHeld where
  who : Who
  job : BitVec 32
  h : Nat
  deferred : Bool
  kind : Contribution
  value : Word
  no : Nat := 0
  covers : Before := {}
deriving DecidableEq, Repr

/-- A group record (R245). -/
structure Group where
  live : Bool := false
  name : Nat := 0
  asid : BitVec 16 := 0
  epoch : BitVec 32 := 0
  isOpen : Bool := false
  quorum : Nat := 0
  m : Nat := 0
  m0 : Nat := 0
  a : Nat := 0
  joinq : Nat := 0
  leaveq : Nat := 0
  exp : Nat := 0
  got : Nat := 0
  phase : BitVec 32 := 0
  kind : Contribution := .none
  acc : Word := 0
  nc : Nat := 0
  res : Word := 0
  lstatus : BitVec 16 := 0
  depnow : Bool := false
  departed : Bool := false
  wdogT : Nat := 0
  wdogRun : Nat := 0
  paused : Nat := 0
  fired : Bool := false
  heldArrivals : List GatherHeld := []
  regions : List (Nat × Nat) := []
deriving DecidableEq, Repr

/-- A request on its way to a group unit that no context waits on (R253, R254, R258, R259). A deferred arrival names the job
whose membership it is, and its number, as a departure does, and the writes that it covers as a release; that of a membership that joins
gives the phase joined in. -/
inductive GroupRequest where
  | credit (handle : Word) (bytes : Nat)
  | arrive (who : Who) (job : BitVec 32) (h : Nat) (handle : Word) (no : Nat) (covers : Before)
  | depart (handle : Word) (joining : Option (BitVec 32)) (arrived pausedNow : Bool) (who : Who) (h no : Nat)
  | pause (who : Who) (handle : Word) (enter : Bool)
deriving DecidableEq, Repr

/-- A group unit (R244, R288): 256 records, the word bindings as address space, word, base and limit, and the requests
on their way to it, oldest first. -/
structure GroupUnit where
  groups : Store Group := []
  words : List (BitVec 16 × Nat × Nat × Nat) := []
  queue : List GroupRequest := []
deriving DecidableEq, Repr

/-! ## The fabric, the DX and the module -/

/-- A job in the DX (R297 to R303). `parts` are the logical cores chosen for it, in index order, once it is started; they
are launched together; `ended` are those that have reported; `closing` is the status it ends with once its last writes are
performed (R300). `from_` is the job whose `jsub` brought it, 0 for one of the control node. -/
structure Job where
  id : BitVec 32
  deadline : Nat
  entry : Word
  arg : Word
  cw : Word
  keepkey : Bool
  notify : Bool
  count : Nat
  domain : Nat
  tier : Nat
  asid : BitVec 16
  key : Word
  queue : Nat
  enq : Nat
  edl : Nat
  started : Bool := false
  due : Bool := false
  slice : Nat
  from_ : BitVec 32 := 0
  launched : Bool := false
  parts : List Nat := []
  ended : List Nat := []
  closing : Option Nat := none
deriving DecidableEq, Repr

/-- The values of R149 for one address space. -/
structure AsidEntry where
  ptroot : Option Nat := none
  rtab : Nat := 0
  rcount : Nat := 0
  tvec0 : Word := 0
deriving DecidableEq, Repr

/-- A request of `cmap` that the DX performs (R330): its issuer with the issuer's generation, the logical core, EVAC and UNMAP. -/
structure Moving where
  who : Who
  gen : Nat
  core : Nat
  evac : Bool
  unmap : Bool
deriving DecidableEq, Repr

/-- The dispatch complex (R11, R12, R297 to R307). `spares` gives the local index of the core that the factory left as a
cluster's spare, where it is not 24; `map` gives the physical core of a logical one where it is not the factory's, or none
where unmapped; `spareUsed` lists clusters whose spare is in service; `moving` are the requests of `cmap` in progress, oldest first. -/
structure Dx where
  spares : Store Nat := []
  map : Store (Option Nat) := []
  spareUsed : List Nat := []
  jobs : List Job := []
  nextJob : BitVec 32 := 1
  keys : Store Word := []
  asids : Store AsidEntry := []
  tbound : List Nat := [5000000, 20000000, 80000000, 250000000]
  maxslice : Nat := 10000000
  moving : List Moving := []
deriving DecidableEq, Repr

/-- A reply to the control node (R332): its header word and the words of its body, two for each unit of LEN. -/
structure PhovaReply where
  header : Word
  body : List Word := []
deriving DecidableEq, Repr

/-- The module outside the cores (R319, R332 to R340). `step` is the bring-up step reached, 7 once queues are open; in step 5
`trained` and `routed` say that training has ended and that a ROUTE was accepted, and `untrained` are the links that will not train. `image`
is the firmware image in force as its bytes, none for the one Config holds; `valid` that it is stored whole; `loaded` waits for the next
warm reset. `rails` counts the rails that are up, in the order DRAM layers, logic, optics; `layers` are rail and clock of the DRAM layers, in mV and MHz, where
firmware has set them (`Module.layerAt`), and `junction` is the base die's temperature in °C. -/
structure Module where
  powered : Bool := true
  rails : Nat := 3
  step : Nat := 7
  devId : Nat := 0
  domain : Nat := 1
  masks : Store (BitVec 16) := []
  gateways : Nat := 2
  failedLinks : List Nat := []
  untrained : List Nat := []
  trained : Bool := true
  routed : Bool := false
  image : Option (List Byte) := none
  valid : Bool := true
  loaded : Option (List Byte) := none
  floor : Nat := 0
  pieces : List Byte := []
  dbg : Bool := false
  nonce : Option Nat := none
  mv : Nat := 600
  mhz : Nat := 2000
  layers : Store (Nat × Nat) := []
  junction : Nat := 40
  replies : List PhovaReply := []
deriving DecidableEq, Repr

/-- The rail and the clock of a DRAM layer: 600 mV and the 2 GHz of the DRAM clock until firmware sets them (R3, R340; the rail is a DESIGN
CHOICE, notes/assumptions/2.md). -/
def Module.layerAt (m : Module) (layer : Nat) : Nat × Nat := m.layers.get (600, 2000) layer

/-- A GW3 device. `ts` is TS, `clock` the core cycles since the device's reset, and `dram` the DRAM clock, in cycles of 0.5 ns (R3);
`posted` numbers messages; `agenda` and `focus` are the model's own: the moves that come next, and the context whose
instruction `exec` runs; `tick` counts steps, and free values are read at it. -/
structure State where
  cores : Store Core := []
  memory : Memory := {}
  clusters : Store Cluster := []
  units : Store GroupUnit := []
  fabric : List Msg := []
  posted : Nat := 0
  dx : Dx := {}
  mod : Module := {}
  ts : Nat := 0
  clock : Nat := 0
  dram : Nat := 0
  agenda : List Move := []
  focus : Who := ⟨0, 0⟩
  tick : Nat := 0
deriving DecidableEq, Repr

/-- The device after a cold reset whose bring-up has finished step 6 with no ROUTE (R60, R190, R336, R339). -/
def State.reset : State := {}

end Sys2Proof.Machine
end

