-- ==== Sys2Proof/Machine/Ops.lean ====
section
/-! DEFINITION. The operations that every meaning shares: finding a context, reading and writing its registers with the
result distances of R44, advancing the PC, taking an exception and returning from one, and ending tasks. -/

namespace Sys2Proof.Machine

/-! ## Numbers as sets, and the map of cores -/

/-- Add a number to a rising list. -/
def insertNat : List Nat → Nat → List Nat
  | [], n => [n]
  | k :: l, n => if n < k then n :: k :: l else if n = k then k :: l else k :: insertNat l n

/-- Remove a number from a rising list. -/
def eraseNat : List Nat → Nat → List Nat
  | [], _ => []
  | k :: l, n => if k = n then l else k :: eraseNat l n

/-- The cluster of a physical core (R10). -/
def clusterOf (phys : Nat) : Nat := phys / 40 / 5 * 8 + phys % 40 / 5

/-- The local index of a physical core in its cluster (R10). -/
def localOf (phys : Nat) : Nat := phys / 40 % 5 * 5 + phys % 40 % 5

/-- The physical core at a local index of a cluster (R10). -/
def physAt (cluster loc : Nat) : Nat := (cluster / 8 * 5 + loc / 5) * 40 + (cluster % 8 * 5 + loc % 5)

/-- Graticule hops between two physical cores: the mesh distance. -/
def hops (a b : Nat) : Nat :=
  let d := fun x y => if x < y then y - x else x - y
  d (a % 40) (b % 40) + d (a / 40) (b / 40)

/-- The local index of the core that the factory left as a cluster's spare (R11). -/
def Dx.spareOf (d : Dx) (cluster : Nat) : Nat := d.spares.get 24 cluster

/-- The physical core that the factory put into a logical slot: slots are filled in ascending local index, past the spare
(R11). -/
def Dx.factory (d : Dx) (n : Nat) : Nat :=
  physAt (n / 24) (if n % 24 < d.spareOf (n / 24) then n % 24 else n % 24 + 1)

/-- The physical core that fills a logical slot, or none while it is unmapped (R11, R12). -/
def State.physOf (s : State) (n : Nat) : Option Nat :=
  if n < 1152 then s.dx.map.get (some (s.dx.factory n)) n else none

/-- The logical number of a physical core, or none for a spare or a removed core. -/
def State.logicalOf (s : State) (phys : Nat) : Option Nat :=
  let c := clusterOf phys
  ((upTo 24).find? (fun k => s.physOf (c * 24 + k) = some phys)).map (c * 24 + ·)

/-! ## Cores and contexts -/

/-- The base of context `c`'s shadow stack in the own-scratchpad range of the aperture (R56, R504). -/
def shadowBase (slot : Nat) : Word := 0x01FFFFFF0107B000 + BitVec.ofNat 64 (slot * 0x200)

/-- The address of the byte after context `c`'s stack (R56, R57). -/
def stackTop (slot : Nat) : Word := 0x01FFFFFF01071000 + BitVec.ofNat 64 (slot * 0x1000)

/-- A context as reset leaves it: everything zero, with the empty shadow stack of R57. -/
def Ctx.fresh (slot : Nat) : Ctx :=
  { trap := { ssp := shadowBase slot, sslim := shadowBase slot + 0x200 } }

def State.core (s : State) (k : Nat) : Core := s.cores.get {} k
def State.setCore (s : State) (k : Nat) (c : Core) : State := { s with cores := s.cores.set k c }
def State.modCore (s : State) (k : Nat) (f : Core → Core) : State := s.setCore k (f (s.core k))
def State.modPart (s : State) (k : Nat) (f : Part → Part) : State :=
  s.modCore k (fun c => { c with part := f c.part })
def State.modMarks (s : State) (k : Nat) (f : CoreMarks → CoreMarks) : State :=
  s.modCore k (fun c => { c with marks := f c.marks })
def State.modVault (s : State) (k : Nat) (f : Vault → Vault) : State :=
  s.modCore k (fun c => { c with vault := f c.vault })
def State.modRegs (s : State) (k : Nat) (f : PartRegs → PartRegs) : State :=
  s.modPart k (fun p => { p with regs := f p.regs })
def State.cluster (s : State) (k : Nat) : Cluster := s.clusters.get {} k
def State.modCluster (s : State) (k : Nat) (f : Cluster → Cluster) : State :=
  { s with clusters := s.clusters.set k (f (s.cluster k)) }
def State.unit (s : State) (k : Nat) : GroupUnit := s.units.get {} k
def State.modUnit (s : State) (k : Nat) (f : GroupUnit → GroupUnit) : State :=
  { s with units := s.units.set k (f (s.unit k)) }

/-- A context of a core by slot. -/
def Core.ctx (c : Core) (slot : Nat) : Ctx :=
  if slot < 11 then c.part.ctxs.get (Ctx.fresh slot) slot else c.handlers.get {} (slot - 11)

def Core.setCtx (c : Core) (slot : Nat) (x : Ctx) : Core :=
  if slot < 11 then { c with part := { c.part with ctxs := c.part.ctxs.set slot x } }
  else { c with handlers := c.handlers.set (slot - 11) x }

def State.ctx (s : State) (w : Who) : Ctx := (s.core w.core).ctx w.slot
def State.setCtx (s : State) (w : Who) (x : Ctx) : State := s.modCore w.core (fun c => c.setCtx w.slot x)
def State.modCtx (s : State) (w : Who) (f : Ctx → Ctx) : State := s.setCtx w (f (s.ctx w))
def State.modHold (s : State) (w : Who) (f : Hold → Hold) : State :=
  s.modCtx w (fun c => { c with hold := f c.hold })
def State.modStatus (s : State) (w : Who) (f : Status → Status) : State :=
  s.modCtx w (fun c => { c with status := f c.status })
def State.modTrap (s : State) (w : Who) (f : TrapRegs → TrapRegs) : State :=
  s.modCtx w (fun c => { c with trap := f c.trap })
def State.modRegFile (s : State) (w : Who) (f : RegFile → RegFile) : State :=
  s.modCtx w (fun c => { c with regs := f c.regs })
def State.setPc (s : State) (w : Who) (a : Word) : State := s.modCtx w (fun c => { c with pc := a })

/-- Whether a slot is a handler context of the vault agent. -/
def Who.isHandler (w : Who) : Bool := decide (11 ≤ w.slot)

/-- The privilege level of a context; a handler runs at user privilege (R266). -/
def State.pl (s : State) (w : Who) : BitVec 2 := (s.ctx w).status.pl
def State.isUser (s : State) (w : Who) : Bool := decide (s.pl w = 0)

/-- The queue of a core by its number in CFR.QUEUE (R68). -/
def State.queue (s : State) (core q : Nat) : Queue := (s.core core).part.queues.get {} q
def State.modQueue (s : State) (core q : Nat) (f : Queue → Queue) : State :=
  s.modPart core (fun p => { p with queues := p.queues.set q (f (p.queues.get {} q)) })

/-! ## Registers and result distances (R44 to R48) -/

def allOnes : Word := BitVec.allOnes 64

/-- The register a write names. -/
def RegWrite.name : RegWrite → RegName
  | .g n _ => .g n
  | .v n _ => .v n
  | .p n _ => .p n

/-- Whether a result in flight will write a register. -/
def Flight.names (f : Flight) (r : RegName) : Bool :=
  match f.write with
  | some x => decide (x.name = r)
  | none => false

def Hold.inFlight (h : Hold) (r : RegName) : Bool := h.flights.any (·.names r)

/-- The old value or one of the new ones, unpredictably (R44). -/
def pickValue {α : Type} (tick key : Nat) (base : α) : List α → α
  | [] => base
  | l => (base :: l).getD (Config.nat tick key % (l.length + 1)) base

def flightG (n : Nat) (f : Flight) : Option Word :=
  match f.write with
  | some (.g k x) => if k = n then some x else none
  | _ => none

def flightV (n : Nat) (f : Flight) : Option VWord :=
  match f.write with
  | some (.v k x) => if k = n then some x else none
  | _ => none

def flightP (n : Nat) (f : Flight) : Option Word :=
  match f.write with
  | some (.p k x) => if k = n then some x else none
  | _ => none

/-- What a context reads from a `g` register: `g0` reads zero (R60). -/
def State.g (s : State) (w : Who) (n : Nat) : Word :=
  if n = 0 then 0 else
  pickValue s.tick n ((s.ctx w).regs.g.get 0 n) ((s.ctx w).hold.flights.filterMap (flightG n))

def State.v (s : State) (w : Who) (n : Nat) : VWord :=
  pickValue s.tick (64 + n) ((s.ctx w).regs.v.get 0 n) ((s.ctx w).hold.flights.filterMap (flightV n))

/-- What a context reads from a `p` register: `p0` reads all ones (R60). -/
def State.p (s : State) (w : Who) (n : Nat) : Word :=
  if n = 0 then allOnes else
  pickValue s.tick (128 + n) ((s.ctx w).regs.p.get allOnes n) ((s.ctx w).hold.flights.filterMap (flightP n))

/-- The changes of guard slots among these that are in force, from the second cycle after their issue on, and those that are not yet (R434). -/
def Ctx.landGuards (c : Ctx) (landed : Nat → Bool) : Ctx :=
  { c with
    regs := { c.regs with q := (c.hold.guards.filter (fun x => landed x.2.2)).foldl (fun m x => Store.set m x.1 x.2.1) c.regs.q }
    hold := { c.hold with guards := c.hold.guards.filter (fun x => !landed x.2.2) } }

/-- The changes in force at a reading of the clock. (DESIGN CHOICE, notes/assumptions/137.md) -/
def Ctx.guardsAt (c : Ctx) (clock : Nat) : Ctx := c.landGuards (fun t => decide (t + 2 ≤ clock))

/-- The state of a guard slot as an engine and the issue of a command read it (R50, R51, R434). -/
def State.q (s : State) (w : Who) (n : Nat) : GuardState := ((s.ctx w).guardsAt s.clock).regs.q.get .no n

/-- Change a guard slot (R49, R434). -/
def State.setGuard (s : State) (w : Who) (q : Nat) (x : GuardState) : State :=
  s.modCtx w (fun c =>
    let c := c.guardsAt s.clock
    { c with hold := { c.hold with guards := c.hold.guards ++ [(q, x, s.clock)] } })

/-- The value of a vector register once every result that has issued is written (R46). -/
def State.vIssued (s : State) (w : Who) (n : Nat) : VWord :=
  (((s.ctx w).hold.flights.filterMap (flightV n)).getLast?).getD ((s.ctx w).regs.v.get 0 n)

def State.h (s : State) (w : Who) (n : Nat) : Handle := (s.ctx w).regs.h.get {} n
def State.tb (s : State) (w : Who) (n : Nat) : Word := (s.ctx w).regs.tb.get 0 n
def State.setH (s : State) (w : Who) (n : Nat) (x : Handle) : State :=
  s.modRegFile w (fun r => { r with h := r.h.set n x })

/-- Put a value into a register file; `g0` and `p0` ignore writes (R60). -/
def RegFile.put (r : RegFile) : RegWrite → RegFile
  | .g n x => if n = 0 then r else { r with g := r.g.set n x }
  | .v n x => { r with v := r.v.set n x }
  | .p n x => if n = 0 then r else { r with p := r.p.set n x }

/-- A later write to a register, landing `left` instructions on, overtakes every earlier write that would land no sooner,
and marks the divergence records it overtakes (R45, R327). -/
def Hold.overtake (h : Hold) (r : RegName) (left : Nat) : Hold :=
  { h with
    flights := h.flights.map (fun f => if f.names r && decide (left ≤ f.left) then { f with write := none } else f)
    divergence := h.divergence.map (fun d => if d.write.name = r then { d with overtaken := true } else d) }

/-- Land one result: its register if no later write overtook it, and its sticky flags (R117). -/
def Ctx.land (c : Ctx) (f : Flight) : Ctx :=
  { c with
    regs := match f.write with
      | some x => c.regs.put x
      | none => c.regs
    status := { c.status with fflags := c.status.fflags ||| f.flags } }

/-- One more instruction of the context issues: results whose distance is reached land (R44, R45). -/
def Ctx.issued (c : Ctx) : Ctx :=
  let fs := c.hold.flights.map (fun f => { f with left := f.left - 1 })
  let c' := (fs.filter (·.left = 0)).foldl Ctx.land c
  { c' with hold := { c'.hold with
      flights := fs.filter (·.left ≠ 0)
      divergence := c'.hold.divergence.map (fun d => { d with age := d.age + 1 }) } }

/-- Every result that has issued is written (R46). A change of a guard slot keeps the time at which it takes effect (R434). -/
def Ctx.landAll (c : Ctx) : Ctx :=
  let c' := c.hold.flights.foldl Ctx.land c
  { c' with hold := { c'.hold with flights := [] } }

/-- A result with distance `d`: written at once for distance 1, else put in flight (R44). -/
def Ctx.result (c : Ctx) (d : Nat) (x : RegWrite) (flags : BitVec 5) : Ctx :=
  let h := c.hold.overtake x.name d
  if d ≤ 1 then
    { c with
      regs := c.regs.put x
      status := { c.status with fflags := c.status.fflags ||| flags }
      hold := h }
  else { c with hold := { h with flights := h.flights ++ [{ left := d, write := some x, flags }] } }

def State.result (s : State) (w : Who) (d : Nat) (x : RegWrite) (flags : BitVec 5 := 0) : State :=
  s.modCtx w (fun c => c.result d x flags)

/-- Write a `g` register at once. -/
def State.setG (s : State) (w : Who) (n : Nat) (x : Word) : State := s.result w 1 (.g n x)

/-! ## Sequencing and loops -/

/-- The loop-end check of R53 at a sequential successor. -/
def Ctx.loopEnd (c : Ctx) (next : Word) : Ctx :=
  if c.lc1.active && decide (next = c.lc1.last) then
    if c.lc1.count ≠ 0 then { c with lc1 := { c.lc1 with count := c.lc1.count - 1 }, pc := c.lc1.first }
    else
      let c := { c with lc1 := { c.lc1 with active := false } }
      if c.lc0.active && decide (next = c.lc0.last) then
        if c.lc0.count ≠ 0 then { c with lc0 := { c.lc0 with count := c.lc0.count - 1 }, pc := c.lc0.first }
        else { c with lc0 := { c.lc0 with active := false }, pc := next }
      else { c with pc := next }
  else if c.lc0.active && decide (next = c.lc0.last) then
    if c.lc0.count ≠ 0 then { c with lc0 := { c.lc0 with count := c.lc0.count - 1 }, pc := c.lc0.first }
    else { c with lc0 := { c.lc0 with active := false }, pc := next }
  else { c with pc := next }

/-- The address after an instruction that stands at the context's PC (R80). -/
def State.nextPc (s : State) (w : Who) (i : Instr) : Word := (s.ctx w).pc + BitVec.ofNat 64 (sizeOf i)

/-- An instruction completes with its sequential successor next (R53). -/
def State.advance (s : State) (w : Who) (i : Instr) : State :=
  s.modCtx w (fun c => c.loopEnd (c.pc + BitVec.ofNat 64 (sizeOf i)))

/-! ## Messages between parts of the machine -/

/-- A request to a group unit that nobody waits on. -/
def State.askUnit (s : State) (u : Nat) (r : GroupRequest) : State :=
  s.modUnit u (fun x => { x with queue := x.queue ++ [r] })

/-- The home unit of a handle: its record id div 256 (R244, R246). -/
def unitOfHandle (h : Word) : Nat := h.toNat % 2 ^ 14 / 256

/-- The memberships of a context: register number and handle. -/
def Ctx.members (c : Ctx) : List (Nat × Handle) := c.regs.h.filter (fun p => decide (p.2.kind ≠ .none))

/-- A context enters or leaves trap service, or its core is saved or restored: each membership is paused or not (R259). -/
def State.pauseMembers (s : State) (w : Who) (enter : Bool) : State :=
  forEach (s.ctx w).members s (fun m s => s.askUnit (unitOfHandle m.2.value) (.pause w m.2.value enter))

/-! ## Taking an exception (R313, R314) -/

/-- The cause codes of R316. -/
def cIllegalInstr : Nat := 0x01
def cIllegalFetch : Nat := 0x02
def cPrivilege : Nat := 0x03
def cMisaligned : Nat := 0x04
def cTranslation : Nat := 0x05
def cNonlocal : Nat := 0x06
def cControlIntegrity : Nat := 0x07
def cHazard : Nat := 0x08
def cShadow : Nat := 0x09
def cUncorrectable : Nat := 0x0A
def cIllegalOperand : Nat := 0x0B
def cEngineFault : Nat := 0x0C
def cGroupWatchdog : Nat := 0x0D
def cDramEvent : Nat := 0x0E
def cSyscall : Nat := 0x0F
def cDebug : Nat := 0x10
def cPreempt : Nat := 0x12
def cMailboxOverflow : Nat := 0x13

/-- The firmware image in force, and its header (R334). -/
def State.image (s : State) : List Byte := s.mod.image.getD Config.image
def State.imageHeader (s : State) : List Byte := s.image.take 512

/-- The firmware vector of the image in force (R313). -/
def State.firmwareVector (s : State) : Word := Config.imageVector s.imageHeader

/-- Whether a trap of the context goes to the firmware vector. -/
def State.toFirmware (s : State) (w : Who) : Bool :=
  decide (s.pl w = 2) || decide ((s.core w.core).part.regs.tvec = 0)

/-- The trap entry address of a context (R313). -/
def State.trapEntry (s : State) (w : Who) : Word :=
  if s.toFirmware w then s.firmwareVector else (s.core w.core).part.regs.tvec

/-- What a handler or task end does to the guards of its context: pending ones resolve false (R50). -/
def RegFile.resolveGuards (r : RegFile) : RegFile :=
  { r with q := r.q.map (fun p => (p.1, if p.2 = .pending then .no else p.2)) }

/-- A core's scratchpad takes no access between the start of its save and the end of its restore (R148). -/
def State.isSaving (s : State) (core : Nat) : Bool :=
  match (s.core core).preemption with
  | .saving _ => true
  | _ => false

/-- The command at the head of a queue. -/
def Queue.head (x : Queue) : Option Cmd :=
  match x.entries with
  | .cmd c :: _ => some c
  | _ => none

/-- The engines of a core work while the module and its part run, outside a scan, and up to step 3 of a save (R213, R308,
R328). -/
def State.engineOn (s : State) (core : Nat) : Bool :=
  let c := s.core core
  s.mod.powered && decide (7 ≤ s.mod.step) && c.run.isSome && !c.marks.underScan && !s.isSaving core

/-- A queue works unless a command-precise fault or a DRAM event holds it. -/
def State.queueOn (s : State) (core q : Nat) : Bool :=
  s.engineOn core && !(s.queue core q).held && (s.queue core q).suspended.isNone

/-- The queue lets its running head end: a matrix command runs to its end in a save (R213). -/
def State.queueEnds (s : State) (core q : Nat) : Bool :=
  s.queueOn core q
    || (decide (q = 1) && s.mod.powered && (s.core core).run.isSome && s.isSaving core && !(s.queue core 1).held)

/-- The queue of a channel. -/
def chQueue (ch : Nat) : Nat := 4 + ch

/-- A channel works while the module and its part run; once a save has begun, on the transfer it has started (R308). -/
def State.copyOn (s : State) (core ch : Nat) (c : Cmd) : Bool :=
  let k := s.core core
  s.mod.powered && decide (7 ≤ s.mod.step) && k.run.isSome && !k.marks.underScan && !(s.queue core (chQueue ch)).held
    && (!s.isSaving core || c.running)

/-- The agents of a module that is on (R13, R340). -/
def State.agentOn (s : State) : Bool := s.mod.powered

/-- The DX's interrupt has stopped issue (R308). -/
def Preemption.stops : Preemption → Bool
  | .none => false
  | .called => false
  | .stopping => true
  | .saving _ => true

/-- A context may issue: the module is on and past bring-up, its core is mapped, not under scan and not stopped for a
pre-emption, it is LIVE, and nothing of it is in hand (R27, R32, R308, R328). Handlers run on until the save begins. -/
def State.mayIssue (s : State) (w : Who) : Bool :=
  let c := s.core w.core
  let x := s.ctx w
  s.mod.powered && decide (7 ≤ s.mod.step) && (s.logicalOf w.core).isSome && !c.marks.underScan
    && !(if w.isHandler then s.isSaving w.core else c.preemption.stops) && x.live && x.hold.hand.isNone
    && !(w.isHandler && (x.hold.returnTrap || x.hold.fwEntry.isSome))

/-- The phase that a membership joins in, while it is JOINING (R249). -/
def Handle.joiningIn (h : Handle) : Option (BitVec 32) := if h.kind = .joining then some h.ap else none

/-- The memberships of a context depart, one update each to the home unit (R258). -/
def State.departAll (s : State) (w : Who) : State :=
  let c := s.ctx w
  forEach c.members s (fun m s =>
    s.askUnit (unitOfHandle m.2.value)
      (.depart m.2.value m.2.joiningIn m.2.arrived (c.status.intrap || s.isSaving w.core) w m.1 m.2.no))

/-- Free a ring entry; the front of the ring that is free is given back (R272). -/
def dropFreed (l : List RingEntry) : List RingEntry := l.dropWhile (·.freed)
def State.freeRing (s : State) (core id : Nat) : State :=
  s.modPart core (fun p =>
    { p with ring := dropFreed (p.ring.map (fun e => if e.id = id then { e with freed := true } else e)) })

/-- A command that a DRAM event suspended for a context whose task ends is squashed (R178). -/
def State.squashSuspended (s : State) (w : Who) : State :=
  let mark := fun (q : Nat) (s : State) =>
    if (s.queue w.core q).suspended = some w.slot then
      let s := s.modQueue w.core q (fun x => { x with
        suspended := none
        entries := match x.entries with
          | .cmd c :: r => if q = 0 then .cmd c :: r else .cmd { c with squashed := true } :: r
          | l => l })
      if q = 0 then
        s.modPart w.core (fun p => { p with loads := p.loads.map (fun (c : Cmd) => { c with squashed := true }) })
      else s
    else s
  mark 2 (mark 0 s)

/-- The core that a client of a translation unit belongs to. -/
def Client.core : Client → Option Nat
  | .ctx w | .fetch w => some w.core
  | .queue k _ | .cmd k _ _ | .leg k _ _ _ => some k
  | .msg _ => none

/-- An access of a client waits at a bank no more. -/
def Bank.leave (client : Client) (b : Bank) : Bank :=
  { b with waiting := b.waiting.filter (fun y => decide (y.client ≠ client)) }

/-- It waits at no bank of a core any more. -/
def Core.leaveBanks (client : Client) (c : Core) : Core :=
  { c with vault := { c.vault with banks := c.vault.banks.map (fun b => (b.1, b.2.leave client)) } }

/-- What a client has translated and not performed is given up. -/
def Core.unresolve (client : Client) (c : Core) : Core :=
  { c with resolved := c.resolved.filter (fun x => decide (x.client ≠ client)) }

/-- An access is given up: it waits at no bank, and none is held for it; a Welt operation that the agent has not accepted is
withdrawn (R148, R177, R498). -/
def Core.giveUp (w : Who) (c : Core) : Core :=
  let c := (c.leaveBanks (.ctx w)).leaveBanks (.fetch w)
  { ((c.unresolve (.ctx w)).unresolve (.fetch w)) with
    vault := { c.vault with operations := c.vault.operations.filter (fun k => decide (k ≠ w.slot)) }
    part := { c.part with heldAt := c.part.heldAt.filter (fun x => decide (x.2 ≠ w.slot)) } }

/-- Nothing of a core's contexts and engines waits at a bank any more, or has been translated for it. -/
def State.leaveAll (s : State) (core : Nat) : State :=
  let gone := fun (b : Bank) => { b with waiting := b.waiting.filter (fun y => decide (y.client.core ≠ some core)) }
  let s := { s with cores := s.cores.map (fun (p : Nat × Core) =>
    (p.1, { p.2 with vault := { p.2.vault with banks := p.2.vault.banks.map (fun (b : Nat × Bank) => (b.1, gone b.2)) } })) }
  s.modCore core (fun c => { c with resolved := [] })

/-- A message leaves, with a number of its own. -/
def State.post (s : State) (m : Msg) : State :=
  { s with fabric := s.fabric ++ [{ m with id := s.posted + 1 }], posted := s.posted + 1 }

/-- The access that a context waits with is given up, by a trap, the end of its task, or a pre-emption. -/
def State.giveUp (s : State) (w : Who) : State := s.modCore w.core (Core.giveUp w)

/-- The requests of a context that a trap or the end of its task withdraws: accesses that wait at a bank or for an owner, waits
at words, mailboxes and translation units, and held arrivals at group units (R146, R148, R156, R177, R247, R273). -/
def State.withdraw (s : State) (w : Who) : State :=
  let s := s.giveUp w
  let c := s.ctx w
  let s := { s with
    cores := s.cores.map (fun p => (p.1, { p.2 with words := p.2.words.filter (fun f => f.who ≠ w) }))
    clusters := s.clusters.map (fun p =>
      (p.1, { p.2 with walks := p.2.walks.filter (fun x => decide (x.client ≠ .ctx w) && decide (x.client ≠ .fetch w)) }))
    units := s.units.map (fun p => (p.1, { p.2 with
      groups := p.2.groups.map (fun q => (q.1, { q.2 with
        heldArrivals := q.2.heldArrivals.filter (fun a => a.deferred || decide (a.who ≠ w)) })) })) }
  let s := if c.hold.hand.isSome || c.hold.drain.isSome || c.hold.waiting.isSome then
      s.modHold w (fun h => { h with hand := none, drain := none, waiting := none })
    else s
  if w.slot < 11 then
    s.modPart w.core (fun p =>
      { p with mail := { p.mail with waiters := p.mail.waiters.filter (fun x => x.2 ≠ w.slot) } })
  else s

end Sys2Proof.Machine

namespace Sys2Proof
open Machine

/-- Whether the item in hand is an engine command that writes a register of the context, which a trap does not
withdraw (R213, R308). -/
def Instr.ownsRegister : Instr → Bool
  | .apCnt .. | .apFirst .. | .apMax .. | .apRd .. | .tqDot .. | .tqFnDir .. | .tqFnSeg .. | .tqLk .. | .tqPair .. => true
  | _ => false

end Sys2Proof

namespace Sys2Proof.Machine

/-- The helper's task has ended: it becomes FREE (R31, R318). Its memberships depart, and with them the deferred arrivals that
the core holds for them; one whose membership was left before is still to be sent (R250, R254). -/
def State.freeContext (s : State) (w : Who) : State :=
  let s := s.withdraw w
  let s := s.departAll w
  let s := s.squashSuspended w
  let s := forEach (s.ctx w).hold.gates s (fun p s => s.freeRing w.core p.2)
  s.modCtx w (fun c => { c with
    live := false
    regs := { (c.landGuards (fun _ => true)).regs.resolveGuards with h := [] }
    held := c.held.filter (fun e => !c.members.any (fun m => decide (m.1 = e.h) && decide (m.2.no = e.no)))
    reply := none
    status := { c.status with intrap := false }
    hold := { gen := c.hold.gen + 1, opNext := c.hold.opNext } })

/-- A task of a context that issued something is still the one that runs there. -/
def State.lives (s : State) (w : Who) (gen : Nat) : Bool := (s.ctx w).live && decide ((s.ctx w).hold.gen = gen)

/-- The context whose `ctx.save` or `ctx.rest` named a core goes on behind it, if its task still waits there (R387). -/
def State.releaseRequester (s : State) (core : Nat) : State :=
  match (s.core core).requester with
  | some (w, gen) =>
    let s := s.modCore core (fun c => { c with requester := none })
    if s.lives w gen then s.modCtx w (fun c => ({ c with hold := { c.hold with hand := none } }).loopEnd (c.pc + 8)) else s
  | none => s

/-- What the contexts of a core asked of other cores is asked by nobody any more, since their part has ended (R330, R387): it is
performed, and no context goes on behind it. -/
def State.disown (s : State) (core : Nat) : State :=
  let nobody : Who := ⟨core, 63⟩
  { s with
    cores := s.cores.map (fun (p : Nat × Core) =>
      (p.1, { p.2 with requester := p.2.requester.map (fun r => if r.1.core = core then (nobody, r.2) else r) }))
    dx := { s.dx with moving := s.dx.moving.map (fun m => if m.who.core = core then { m with who := nobody } else m) } }

/-- The handler contexts of an agent, all ended: the generations of their tasks go on. -/
def Core.endedHandlers (c : Core) : Store Ctx := c.handlers.map (fun q => (q.1, { hold := { gen := q.2.hold.gen + 1 } }))

/-- The contexts of a core that its next part finds: as after reset, with generations and numbers of operations that none of the last part
has had.
(DESIGN CHOICE, notes/assumptions/145.md) -/
def Core.nextCtxs (c : Core) : Store Ctx :=
  (upTo 11).map (fun k => (k, { Ctx.fresh k with hold := { gen := (c.ctx k).hold.gen + 1, opNext := (c.ctx k).hold.opNext } }))

/-- The messages that were spilled for a job's part are dropped with it (R275). -/
def Core.dropSpilled (c : Core) (job : BitVec 32) : Core := { c with spill := c.spill.filter (fun m => decide (m.job ≠ job)) }

/-- A part is over: every context of the core stops, its memberships depart, and the core runs nothing (R300). Commands,
deque and messages of the part go with it. -/
def State.stopPart (s : State) (core : Nat) : State :=
  let s := forEach (upTo 11) s (fun k s =>
    (if (s.ctx ⟨core, k⟩).live then s.freeContext ⟨core, k⟩ else s).modCtx ⟨core, k⟩ (fun c => { c with held := [] }))
  let s := s.modCore core (fun c => { c with handlers := c.endedHandlers })
  let s := { s with clusters := s.clusters.map (fun (p : Nat × Cluster) =>
    (p.1, { p.2 with walks := p.2.walks.filter (fun (x : Walk) => decide (x.client.core ≠ some core)) })) }
  -- chunk writes that a channel has sent are performed like other writes on their way
  let strays := (s.core core).part.legs.flatMap (fun p => (p.2.filter (fun (l : Leg) => !l.listed && decide (l.key < 2 ^ 58))).map (fun (l : Leg) =>
    ({ src := ⟨core, 0⟩, gen := 0, job := (s.core core).jobId, dst := l.key / 2 ^ 47 % 2 ^ 11, lane := 0, va := l.va
       body := .leg p.1 0 l } : Msg)))
  let s := (forEach strays s (fun m s => s.post m)).leaveAll core
  let s := s.modPart core (fun p =>
    { p with queues := [], loads := [], legs := [], deque := [], returns := [], ring := [], steal := {}, heldAt := [] })
  ((s.releaseRequester core).disown core).modCore core (fun c => { c.dropSpilled c.jobId with run := none, preemption := .none })

/-- The physical cores of a job's parts that are in progress. -/
def State.coresOf (s : State) (id : BitVec 32) : List Nat :=
  (s.cores.filter (fun p => match p.2.run with
    | some r => decide (r.job = id)
    | none => false)).map (·.1)

/-- The key of the byte that holds VALID of a core's save header (R310, R311). -/
def validKey (core : Nat) : Nat := core * 2 ^ 47 + 0x0B0FFC07

/-- VALID of the save header is cleared. -/
def State.clearValid (s : State) (core : Nat) : State :=
  let b := Store.get 0 s.memory.bytes (validKey core)
  { s with memory := { s.memory with bytes := Store.put 0 s.memory.bytes (validKey core) (b &&& 0x7F) } }

/-- A saved image is dropped: its memberships, which are paused, depart (R258, R300, R387). -/
def State.dropImage (s : State) (core : Nat) (im : Image) : State :=
  let s := forEach im.part.ctxs s (fun p s => forEach p.2.members s (fun m s =>
    s.askUnit (unitOfHandle m.2.value)
      (.depart m.2.value m.2.joiningIn m.2.arrived true ⟨core, p.1⟩ m.1 m.2.no)))
  ((s.modCore core (fun c => { c.dropSpilled im.run.job with saved := none })).clearValid core).releaseRequester core

/-- A job ends: the DX ends its other parts, drops its saved images, and its completion word follows when its last
writes are performed (R300). -/
def State.endJob (s : State) (id : BitVec 32) (status : Nat) : State :=
  let s := forEach (s.coresOf id) s (fun k s => s.stopPart k)
  let s := forEach s.cores s (fun p s => match p.2.saved with
    | some im => if im.run.job = id then s.dropImage p.1 im else s
    | none => s)
  { s with dx := { s.dx with
    jobs := s.dx.jobs.map (fun (j : Job) =>
      if j.id = id && j.closing.isNone then { j with closing := some status } else j) } }

/-- The status codes of a job's end (R300). -/
def stOk : Nat := 0
def stZeroWork : Nat := 0x100
def stInvalidCount : Nat := 0x101
def stInvalidDesc : Nat := 0x102
def stFaulted : Nat := 0x103
def stCancelled : Nat := 0x104
def stQueueFull : Nat := 0x105

/-- A context is killed (R318): a helper's task ends; a killed control context ends its job FAULTED. -/
def State.kill (s : State) (w : Who) : State :=
  if w.slot = 0 then
    match (s.core w.core).run with
    | some r => s.endJob r.job stFaulted
    | none => s.stopPart w.core
  else (s.freeContext w).modCtx w (fun c => { c with held := [] })

/-- A trap in a handler: its first one is the handler fault that HANDLER_FAULT then reports (R270). -/
def State.handlerTrap (s : State) (w : Who) (cause : Nat) (tval : Word) : State :=
  s.modCtx w (fun c => { c with
    trap := { c.trap with tval := tval }
    hold := { c.hold with fwEntry := some (c.hold.fwEntry.getD cause) } })

/-- A handler has met its fault (R270). -/
def State.hasFaulted (s : State) (w : Who) : Bool := w.isHandler && (s.ctx w).hold.fwEntry.isSome

/-- TVAL of a trap at an instruction with the restart progress it carries, if any (R55, R141). -/
def tvalAt (progress : Option Nat) (x : Word) : Word :=
  match progress with
  | none => x
  | some k => 0x8000000000000000 ||| BitVec.ofNat 64 (k * 2 ^ 57) ||| (x &&& 0x1FFFFFFFFFFFFFF)

/-- Enter trap service (R313), or kill the context whose trapping instruction is the first one at the entry (R314).
In a handler any trap is a handler fault. -/
def State.enterTrap (s : State) (w : Who) (cause : Nat) (tval epc : Word) (trapping : Option Word) : State :=
  if w.isHandler then s.handlerTrap w cause tval
  else
    let entry := s.trapEntry w
    let fw := s.toFirmware w
    let below := decide (s.pl w ≠ 2)
    let kills := match trapping with
      | some a => decide (a = entry)
      | none => false
    if kills then s.kill w
    else
      let s := (if (s.ctx w).status.intrap then s else s.pauseMembers w true).giveUp w
      s.modCtx w (fun c =>
        let c := c.landAll
        { c with
          pc := entry
          status := { c.status with ppl := c.status.pl, pl := if fw then 2 else 1, intrap := true }
          trap := { c.trap with
            epc := epc &&& 0x1FFFFFFFFFFFFF8
            tcause := BitVec.ofNat 64 cause
            tval := tval }
          hold := { c.hold with
            hand := none
            waiting := none
            progress := none
            drain := none
            yields := 0
            issuing := false
            fwEntry := if fw && below then some cause else none } })

/-- A synchronous trap at the instruction the context stands at. -/
def State.trapSync (s : State) (w : Who) (cause : Nat) (tval : Word) : State :=
  s.enterTrap w cause tval (s.ctx w).pc (some (s.ctx w).pc)

/-- A trap whose EPC is the next instruction, after the loop-end check (R316). -/
def State.trapNext (s : State) (w : Who) (i : Instr) (cause : Nat) (tval : Word) : State :=
  let at_ := (s.ctx w).pc
  let s := s.advance w i
  s.enterTrap w cause tval (s.ctx w).pc (some at_)

/-- A command goes on behind its suspension (R178, R243). -/
def Entry.resume : Entry → Entry
  | .cmd c => .cmd { c with resumed := c.running }
  | e => e

/-- Return from trap service (R315, R55, R178): PC, privilege and INTRAP, the restart progress, and the commands that were
suspended when the DRAM_EVENT trap was taken; one suspended since waits for its own. -/
def State.returnTrap (s : State) (w : Who) : State :=
  let c := s.ctx w
  let s := s.pauseMembers w false
  let wake := fun (q : Nat) (s : State) =>
    if (s.queue w.core q).suspended = some w.slot then s.modQueue w.core q (fun x =>
      { x with suspended := none, entries := x.entries.map Entry.resume }) else s
  let s := forEach c.hold.dramTrap s wake
  s.modCtx w (fun c => { c with
    pc := c.trap.epc
    status := { c.status with pl := c.status.ppl, intrap := false }
    trap := { c.trap with tval := c.trap.tval &&& 0x7FFFFFFFFFFFFFFF }
    hold := { c.hold with
      dramTrap := []
      fwEntry := none
      progress := if c.trap.tval.getLsbD 63 then some ((c.trap.tval >>> 57) &&& 0x3F).toNat else none } })

/-- What the firmware in force does with a trap that reached its vector from below (R313). -/
def State.firmwareAct (s : State) (w : Who) (cause : Nat) : State :=
  if cause = cPreempt || cause = cDramEvent then s.returnTrap w else s.kill w

/-! ## Marking asynchronous traps (R317) -/

/-- The context a report goes to: the issuing one while its task lives, else the control context (R160, R264, R325). -/
def State.reportTo (s : State) (w : Who) (gen : Nat) : Who := if w.slot < 11 && s.lives w gen then w else ⟨w.core, 0⟩

/-- A failure is reported: to a handler that still runs as a handler fault (R270), else as a trap that becomes pending in
`reportTo`'s context. -/
def State.report (s : State) (w : Who) (gen cause : Nat) (tval : Word) (k : State → Who → State) : State :=
  if w.isHandler && s.lives w gen then s.handlerTrap w cause tval else k s (s.reportTo w gen)

def State.modPending (s : State) (w : Who) (f : Pending → Pending) : State :=
  s.modHold w (fun h => { h with pending := f h.pending })

/-- TVAL's MORE bit of a late UNCORRECTABLE, an ENGINE_FAULT and a matrix divergence (R316, R323). -/
def moreLate : Word := 0x2000000000000000
def moreEngine : Word := 0x4000000000000000
def moreMatrix : Word := 0x0200000000000000

/-- ENGINE_FAULT pending, or MORE in the one that is (R264, R316). -/
def State.engineFault (s : State) (w : Who) (gen cause : Nat) (tval : Word) : State :=
  s.report w gen cause tval (fun s w => s.modPending w (fun p => { p with
    engine := match p.engine with
      | some (c, t) => some (c, t ||| moreEngine)
      | none => some (cause, tval) }))

/-- A late UNCORRECTABLE pending, or MORE in the one that is (R458). -/
def State.lateFault (s : State) (w : Who) (gen : Nat) (va : Word) : State :=
  s.report w gen cUncorrectable (va ||| 0x4000000000000000) (fun s w => s.modPending w (fun p => { p with
    late := match p.late with
      | some t => some (t ||| moreLate)
      | none => some ((va &&& 0x1FFFFFFFFFFFFFF) ||| 0x4000000000000000) }))

/-- A matrix command's divergence pending, or MORE in the one that is (R325, R323). -/
def State.matrixFault (s : State) (w : Who) (gen : Nat) (tval : Word) : State :=
  s.modPending (s.reportTo w gen) (fun p => { p with
    matrix := match p.matrix with
      | some t => some (t ||| moreMatrix)
      | none => some tval })

/-! ## Running one instruction -/

/-- What the effect of an instruction comes to: it completes in a state; or it has issued and its context interlocks until it can go
on, with a mark on the state as it was before it issued (R47); or it cannot issue for want of space in an engine queue (R32). -/
inductive Effect where
  | done (s : State)
  | wait (mark : State → State)
  | full

def Effect.andThen (e : Effect) (f : State → Effect) : Effect :=
  match e with
  | .done s => f s
  | .wait m => .wait m
  | .full => .full

/-- A restartable instruction waits at its step `k`: what its earlier steps have done stands, and the next issue goes on from `k` (R55). It
has not completed, so that its issue does not count towards the results in flight. -/
def State.pausedAt (s : State) (w : Who) (k : Nat) : State :=
  s.modHold w (fun h => { h with
    flights := h.flights.map (fun f => { f with left := f.left + 1 })
    divergence := h.divergence.map (fun d => { d with age := d.age - 1 })
    progress := some k })

/-- A step of a restartable instruction that waits keeps what the steps before it have done, in `s`. -/
def Effect.keeping (e : Effect) (s : State) (w : Who) (k : Nat) : Effect :=
  match e with
  | .done t => .done t
  | .wait m => .wait (fun _ => m (s.pausedAt w k))
  | .full => .full

/-- Nothing happens yet. -/
def waits : Effect := .wait id

/-- The context interlocks on an instruction that it has issued, until that can go on (R47). -/
def State.isWaiting (s : State) (w : Who) (i : Instr) : State := s.modHold w (fun h => { h with waiting := some i })

/-- The context has issued an item that another step completes (R47). -/
def State.inHand (s : State) (w : Who) (i : Instr) : State := s.modHold w (fun h => { h with hand := some i })

end Sys2Proof.Machine

namespace Sys2Proof
open Machine

/-- Forms that need supervisor or firmware privilege (R96). -/
def Instr.supervisorOnly : Instr → Bool
  | .cmap .. | .cqResume | .ctxRest _ | .ctxSave _ | .evwait _ | .fbufPop _ | .qrt _ | .redo | .scanAbort | .scanRun _
  | .scanSig _ | .sret | .tlbInv .. | .tlbReplay | .weltRestore | .weltRetire .. => true
  | _ => false

/-- The forms that a handler runs (R267), guards apart. -/
def Instr.handlerForm : Instr → Bool
  | .bcmp .. | .bpred .. | .br _ | .jr _ | .nop => true
  | .add .. | .addi .. | .and .. | .andi .. | .bext .. | .bins .. | .clz .. | .cmp .. | .div .. | .divu .. | .lea .. | .leaPc ..
  | .li .. | .li64 .. | .madd .. | .max .. | .maxu .. | .min .. | .minu .. | .mul .. | .mulh .. | .mulhu .. | .or .. | .ori ..
  | .popc .. | .rem .. | .remu .. | .rot .. | .sel .. | .shl .. | .shlImm .. | .shr .. | .shrImm .. | .sra .. | .sraImm ..
  | .sub .. | .xor .. | .xori .. => true
  | .amo .. | .cas .. | .feclr .. | .feset .. | .ld .. | .ldf .. | .ldfe .. | .ract .. | .rpre .. | .st .. | .stef ..
  | .stf .. => true
  | .apClr .. | .apCmp .. | .apCnt .. | .apFirst .. | .apLd .. | .apMax .. | .apMcode .. | .apRd .. | .apSeq .. | .apSt ..
  | .apSweep .. | .apTg .. | .apWr .. | .apWrr .. | .tqBind .. | .tqDot .. | .tqFnDir .. | .tqFnSeg .. | .tqLk ..
  | .tqPair .. => true
  | .hret | .rpcReply | .sendm .. => true
  | _ => false

/-- The guard and completion word of an engine command (R86, R89). -/
def Instr.eng : Instr → Option Eng
  | .cbcfg _ _ _ _ e | .cbrel _ _ e | .mdrain _ _ _ _ _ _ e | .mdrainr _ _ _ _ e | .mld _ _ _ e | .mma _ _ _ _ _ _ _ e
  | .mrecv _ _ _ e | .msa _ _ _ _ e | .mz _ e | .mzPb e | .tld _ _ _ _ _ _ e | .tst _ _ _ _ e
  | .apClr _ _ e | .apCmp _ _ _ _ e | .apCnt _ _ e | .apFirst _ _ e | .apLd _ _ e | .apMax _ _ _ _ e | .apMcode _ _ e
  | .apRd _ _ e | .apSeq _ _ _ _ _ _ _ e | .apSt _ _ e | .apSweep _ _ _ _ _ _ _ _ _ _ e | .apTg _ _ _ _ e
  | .apWr _ _ _ e | .apWrr _ _ e | .tqDot _ _ _ _ e | .tqFnDir _ _ _ _ e | .tqFnSeg _ _ _ e | .tqLk _ _ _ _ e
  | .tqPair _ _ _ _ _ _ e | .rpcAmo _ _ _ _ e | .rpcCall _ _ _ _ _ _ e | .rpcGet _ _ _ _ e | .rpcPut _ _ _ _ e
  | .sendm _ _ _ e | .tcopy _ _ _ _ e => some e
  | _ => none

def Instr.guard (i : Instr) : Option Guard := i.eng.bind (·.guard)
def Instr.cw (i : Instr) : Option Nat := i.eng.bind (·.cw)

/-- The `g`, `v` and `p` registers that a form reads at issue (R48). -/
def Instr.reads : Instr → List RegName
  | .bcmp _ a b _ | .st _ a _ b | .stef a _ b | .stf a _ b => [.g a, .g b]
  | .bpred _ p _ => [.p p]
  | .callr a | .join _ a _ | .jr a | .qset _ a => [.g a]
  | .fork _ a _ => [.g a, .g 1, .g 2, .g 3, .g 4]
  | .hstart _ _ => [.g 1, .g 2, .g 3, .g 4]
  | .loop _ c _ => [.g c]
  | .ret => [.g 31]
  | .add _ a b | .and _ a b | .cmp _ _ a b | .div _ a b | .divu _ a b | .fadd _ _ a b | .fcmp _ _ a b | .fmax _ a b
  | .fmin _ a b | .fmul _ _ a b | .fsub _ _ a b | .max _ a b | .maxu _ a b | .min _ a b | .minu _ a b | .mul _ a b
  | .mulh _ a b | .mulhu _ a b | .or _ a b | .rem _ a b | .remu _ a b | .rot _ a b | .shl _ a b | .shr _ a b | .sra _ a b
  | .sub _ a b | .xor _ a b => [.g a, .g b]
  | .addi _ a _ | .andi _ a _ | .bext _ a _ _ | .clz _ a | .fcvt _ _ _ _ a | .lea _ a _ | .ori _ a _ | .popc _ a
  | .shlImm _ a _ | .shrImm _ a _ | .sraImm _ a _ | .xori _ a _ => [.g a]
  | .bins d a _ _ => [.g d, .g a]
  | .ffma _ _ a b c | .madd _ a b c | .sel _ a b c => [.g a, .g b, .g c]
  | .amo _ _ _ a b => [.g a, .g b]
  | .cas _ _ a b c => [.g a, .g b, .g c]
  | .feclr a _ | .feset a _ | .ld _ _ _ a _ | .ldf _ a _ | .ldfe _ a _ | .ract a _ | .rpre a _ | .vld _ a _ => [.g a]
  | .vabs _ _ a | .vcvt _ _ _ _ _ a | .vmov _ a | .vneg _ _ a | .vred _ _ _ a | .vrot _ a _ | .vscan _ _ _ a
  | .vext _ a _ => [.v a]
  | .vadd _ _ _ a b | .vand _ a b | .vcmp _ _ _ a b | .vmax _ _ a b | .vmin _ _ a b
  | .vmul _ _ _ a b | .vor _ a b | .vperm _ a b | .vshl _ _ a b | .vshr _ _ a b | .vsub _ _ _ a b
  | .vxor _ a b => [.v a, .v b]
  | .vdqnt _ _ a b | .vqnt _ _ _ _ a b => [.v a, .g b]
  | .vbaq _ _ _ _ a b c => [.v a, .v b, .g c]
  | .vclamp _ _ a b c | .vfma _ _ _ a b c => [.v a, .v b, .v c]
  | .vdot _ _ _ a b _ => [.v a, .v b]
  | .vbc _ _ a => [.g a]
  | .vgat _ _ a b => [.g a, .v b]
  | .vins d a _ => [.v d, .g a]
  | .vlds _ _ a b => [.g a, .g b]
  | .vpcnt _ p | .vpfirst _ p => [.p p]
  | .vsca _ a b c => [.g a, .v b, .v c]
  | .vsel _ a b p => [.v a, .v b, .p p]
  | .vst a _ b => [.g a, .v b]
  | .mdrain _ _ a _ _ _ _ | .mld _ a _ _ | .tld _ _ a _ _ _ _ | .tst _ _ a _ _ => [.g a]
  | .mdrainr _ _ b _ _ => [.g b]
  | .mrecv _ _ c _ => [.g c]
  | .msa _ a b c _ => [.g a, .g b, .g c]
  | .apCmp _ _ a b _ | .apWr a b _ _ => [.v a, .v b]
  | .apLd a _ _ | .apMcode _ a _ | .apRd _ a _ | .apSt a _ _ => [.g a]
  | .apSweep _ a b _ _ _ _ _ _ _ _ => [.g a, .g b]
  | .apWrr a b _ => [.g a, .v b]
  | .tqBind _ a b _ => [.g a, .g b]
  | .tqDot _ _ _ b _ => [.v b, .v (b + 1)]
  | .tqFnDir _ _ _ b _ | .tqFnSeg _ _ b _ | .tqLk _ _ _ b _ => [.v b]
  | .tqPair _ _ _ _ b c _ => [.v b, .v c]
  | .bind _ b c => [.g b, .g c]
  | .bindFe a b c => [.g a, .g b, .g c]
  | .cwait _ _ a | .unbind a => [.g a]
  | .grpExp _ b | .grpRed _ _ _ b | .grpVote _ _ b | .grpWdog _ b => [.g b]
  | .grpJoin _ _ a | .grpNew _ _ a _ => [.g a]
  | .rpcAmo _ _ a b _ | .rpcPut _ a b _ _ | .sendm a _ b _ => [.g a, .g b]
  | .rpcCall _ a _ _ b _ _ => [.g a, .g b, .g 1, .g 2, .g 3, .g 4]
  | .rpcGet _ _ _ a _ | .tcopy _ a _ _ _ => [.g a]
  | .rpcReply => [.g 1, .g 2, .g 3, .g 4]
  | .cmap a b | .jsub a b => [.g a, .g b]
  | .ctxRest a | .ctxSave a | .qrt a | .scanRun a | .tlbInv a _ => [.g a]
  | .sysw a _ | .syswStatus a | .syswLoop a _ | .syswVevCount a | .syswCfail a _ | .syswFbufStat a | .syswActAlertSrc a
  | .syswSuspect a _ | .syswRing a _ | .syswPlaneProgress a _ => [.g a]
  | _ => []

end Sys2Proof

namespace Sys2Proof.Machine

/-- TVAL of a HAZARD: the register number and its class (R48). -/
def hazardTval : RegName → Word
  | .g n => BitVec.ofNat 64 n
  | .v n => BitVec.ofNat 64 (n + 0x100)
  | .p n => BitVec.ofNat 64 (n + 0x200)

/-- A context as an instruction's own effect finds it: one more instruction has issued, so that results whose distance is
reached have landed (R44, R45), and the restart progress passed on is taken (R55). -/
def Ctx.begun (c : Ctx) : Ctx := { c.issued with hold := { c.issued.hold with waiting := none, progress := none } }

/-- The state that an instruction's own effect starts from. -/
def State.begun (s : State) (w : Who) : State := s.modCtx w Ctx.begun

/-- A task still owes the reply of its call (R269). -/
def State.owesReply (s : State) (w : Who) : Bool :=
  match (s.ctx w).reply with
  | some r => !r.sent && !r.nr
  | none => false

/-- The registers that an instruction reads at issue: the end of a task that owes a reply reads the reply's values (R48, R269, R409). -/
def State.readsOf (s : State) (w : Who) (i : Instr) : List RegName :=
  let ends := match i with
    | .hret => true
    | .hexit => !(s.ctx w).status.intrap
    | _ => false
  if ends && s.owesReply w then [.g 1, .g 2, .g 3, .g 4] else i.reads

/-- The operand register for which an instruction is trapped with HAZARD: the first read of one that has a result in
flight, while STATUS.HZD is set (R48). A write of `g0` or `p0` is ignored and counts as a result in flight all the same (DESIGN CHOICE,
notes/assumptions/155.md). -/
def State.hazard (s : State) (w : Who) (i : Instr) : Option RegName :=
  if (s.ctx w).status.hzd then (s.readsOf w i).find? ((s.begun w).ctx w).hold.inFlight else none

/-- An instruction that a handler does not run is its return trap (R267). -/
def Who.returnsAt (w : Who) (i : Instr) : Bool := w.isHandler && (!i.handlerForm || i.guard.isSome)

/-- Issue an instruction on the context in focus: a form a handler does not run is the return trap (R267); the privilege
of the form (R96); one instruction more towards every distance (R44, R45); HAZARD (R48); then its own effect, which gets
the restart progress passed on (R55). A wait leaves the state as it was, with the effect's mark and the instruction that waits. -/
def issueWith (i : Instr) (s : State) (k : Who → Option Nat → State → Effect) : State :=
  let w := s.focus
  if w.returnsAt i then s.modHold w (fun h => { h with returnTrap := true })
  else if i.supervisorOnly && decide (s.pl w = 0) then
    s.trapSync w cPrivilege (illegalTval 9 (opcSubOf i).1 (opcSubOf i).2 0)
  else
    match s.hazard w i with
    | some r => (s.begun w).trapSync w cHazard (tvalAt (s.ctx w).hold.progress (hazardTval r))
    | none =>
      match k w (s.ctx w).hold.progress (s.begun w) with
      | .done t => t
      | .wait mark => (mark s).isWaiting w i
      | .full => s

/-- The outcome of an instruction with the given effect. -/
def run (i : Instr) (s : State) (k : Who → State → Effect) : Host.Outcome State Fault Refusal :=
  .next (issueWith i s (fun w _ t => k w t))

/-- The outcome of a restartable instruction. -/
def runFrom (i : Instr) (s : State) (k : Who → Option Nat → State → Effect) : Host.Outcome State Fault Refusal :=
  .next (issueWith i s k)

/-- A form whose only effect is a fixed-latency result. -/
def runResult (i : Instr) (s : State) (d : Nat) (k : Who → State → RegWrite × BitVec 5) :
    Host.Outcome State Fault Refusal :=
  run i s (fun w t => let r := k w t; .done ((t.result w d r.1 r.2).advance w i))

/-- Another agent's step: always a next state. -/
def event (s : State) : Host.Outcome State Fault Refusal := .next s

end Sys2Proof.Machine
end

