-- ==== Sys2Proof/Machine/Memory.lean ====
section
/-! DEFINITION. Storage, addresses, translation, the vault's banks, and what performs a direct access: the operations
that every load, store, engine command and remote operation shares. -/

namespace Sys2Proof.Machine

/-! ## Storage -/

/-- Bytes as a little-endian number (R2). -/
def leNat : List Byte → Nat
  | [] => 0
  | b :: l => b.toNat + 256 * leNat l

/-- The low `n` bytes of a number, lowest first. -/
def natLE : Nat → Nat → List Byte
  | 0, _ => []
  | n + 1, x => BitVec.ofNat 8 x :: natLE n (x / 256)

/-- The memory key of an offset of a physical core's column. -/
def coreKey (core off : Nat) : Nat := core * 2 ^ 47 + off
/-- The memory key of a scratchpad offset of a physical core (R137). -/
def spKey (core off : Nat) : Nat := coreKey core (0x10000000 + off)
/-- The memory key of a far offset. -/
def farKey (off : Nat) : Nat := 0x7FF * 2 ^ 47 + off
def keyCore (key : Nat) : Nat := key / 2 ^ 47
def keyOff (key : Nat) : Nat := key % 2 ^ 47
/-- Whether a key lies in storage of this device; keys of other devices lie above (R136). -/
def isHere (key : Nat) : Bool := decide (key < 0x800 * 2 ^ 47)
def isSp (key : Nat) : Bool := isHere key && decide (keyCore key ≠ 0x7FF) && decide (0x10000000 ≤ keyOff key)
def isVault (key : Nat) : Bool := isHere key && decide (keyCore key ≠ 0x7FF) && decide (keyOff key < 0x10000000)

/-- The canonical form of memory: keys rise strictly, and no listed byte is zero; the marks rise strictly. -/
def rising : List Nat → Bool
  | [] => true
  | [_] => true
  | a :: b :: l => decide (a < b) && rising (b :: l)

def Memory.wf (m : Memory) : Bool :=
  Store.rising m.bytes && Store.proper 0 m.bytes && rising m.flips && rising m.wordPoison && rising m.full && rising m.logFlips

/-- One byte of storage: an unlisted address reads 0. Another device's storage is not held here. -/
def Memory.byte (m : Memory) (key : Nat) : Byte := Store.get 0 m.bytes key

def Memory.setByte (m : Memory) (key : Nat) (b : Byte) : Memory := { m with bytes := Store.put 0 m.bytes key b }

/-- Bytes from a key up. -/
def Memory.read (m : Memory) (key : Nat) : Nat → List Byte
  | 0 => []
  | n + 1 => m.byte key :: m.read (key + 1) n

def Memory.writeBytes (m : Memory) (key : Nat) : List Byte → Memory
  | [] => m
  | b :: l => (m.setByte key b).writeBytes (key + 1) l

/-- The protection unit of a key: 8 bytes in a scratchpad, 32 elsewhere (R165). -/
def unitSize (key : Nat) : Nat := if isSp key then 8 else 32

/-- The repair log that a key lies in, as 2 × core and one more for the partner's (R187). -/
def logOf (key : Nat) : Option Nat :=
  if isVault key ∧ 0x0B140000 ≤ keyOff key ∧ keyOff key < 0x0B150000 then
    some (2 * keyCore key + (keyOff key - 0x0B140000) / 0x8000)
  else none

/-- Whether a repair log has been written whole since a cold reset (R189). -/
def Memory.logWritten (m : Memory) (log : Nat) : Bool := m.logs != decide (log ∈ m.logFlips)

/-- Whether a unit of a vault or of the far column was poisoned when nothing had written it yet: every one, but for those of a
repair log that the agent has written whole (R189, R190). -/
def Memory.bornPoisoned (m : Memory) (key : Nat) : Bool :=
  match logOf key with
  | some log => !m.logWritten log
  | none => true

/-- Whether a unit carries its poison mark. -/
def Memory.marked (m : Memory) (key : Nat) : Bool :=
  if isSp key then decide (key / 8 ∈ m.wordPoison) else decide (key / 32 ∈ m.flips) != m.bornPoisoned key

/-- Set or clear the mark of a unit. -/
def Memory.setMark (m : Memory) (key : Nat) (b : Bool) : Memory :=
  if isSp key then
    { m with wordPoison := if b then insertNat m.wordPoison (key / 8) else eraseNat m.wordPoison (key / 8) }
  else { m with flips := if b = m.bornPoisoned key then eraseNat m.flips (key / 32) else insertNat m.flips (key / 32) }

/-- Clear every mark of a repair log, which has been written whole (R189). -/
def Memory.cleanLog (m : Memory) (log : Nat) : Memory :=
  { m with
    flips := m.flips.filter (fun u => decide (logOf (u * 32) ≠ some log))
    logFlips := if m.logs then eraseNat m.logFlips log else insertNat m.logFlips log }

def Memory.clear (m : Memory) (key : Nat) : Memory := m.setMark key false
def Memory.mark (m : Memory) (key : Nat) : Memory := m.setMark key true

def Memory.isFull (m : Memory) (key : Nat) : Bool := decide (key / 8 ∈ m.full)
def Memory.setFull (m : Memory) (key : Nat) (b : Bool) : Memory :=
  { m with full := if b then insertNat m.full (key / 8) else eraseNat m.full (key / 8) }

/-! ## The vault's geometry (R17, R183, R188) -/

def bankOf (off : Nat) : Nat := off / 2 ^ 24 % 16 * 4 + off / 2 ^ 22 % 4
def rowOf (off : Nat) : Nat := off / 2 ^ 11 % 2048
def layerOfBank (b : Nat) : Nat := b / 4

/-- Welt `w` serves a layer when no segment of it at the layer or below is retired (R183). -/
def Vault.serves (v : Vault) (w layer : Nat) : Bool := !v.retired.any (fun p => decide (p.1 = w ∧ p.2 ≤ layer))

/-- A Welt is blocked for a layer between a warm reset and `welt.restore` (R188). -/
def Vault.isBlocked (v : Vault) (w layer : Nat) : Bool := v.blocked.any (fun p => decide (p.1 = w ∧ p.2 ≤ layer))

/-- The quad neighbours of a physical core in the order of R183. -/
def quadNeighbours (phys : Nat) : List Nat :=
  let at_ := fun x y => y * 40 + x
  let x := phys % 40
  let y := phys / 40
  [at_ (x ^^^ 1) y, at_ x (y ^^^ 1), at_ (x ^^^ 1) (y ^^^ 1)]

/-- The Welts of a vault that serve a layer (R183). -/
def Vault.serving (v : Vault) (layer : Nat) : List Nat := (upTo 2).filter (fun w => v.serves w layer)

/-- The vault and the Welt that carry the sector at a vault offset: a Welt of its own, or that of the first quad neighbour that
serves the layer (R20, R183); the agent of a removed core lends one where its self-test passed (R330). A Welt of a neighbour
that serves with both is split by sector too (notes/assumptions/110.md). (DEDUCED, notes/assumptions/144.md) -/
def State.pathOf (s : State) (core off : Nat) : Option (Nat × Nat) :=
  let layer := off / 2 ^ 24 % 16
  let by_ := fun (k : Nat) =>
    if (s.core k).vault.dead then none
    else match (s.core k).vault.serving layer with
    | [] => none
    | [w] => some (k, w)
    | _ => some (k, off / 32 % 2)
  if (s.core core).vault.dead then none else (core :: quadNeighbours core).findSome? by_

/-- Whether the sector at a vault offset can be reached: it has a path, whose Welt is not blocked (R183, R188). -/
def State.sectorReached (s : State) (core off : Nat) : Bool :=
  match s.pathOf core off with
  | some (k, w) => !(s.core k).vault.isBlocked w (off / 2 ^ 24 % 16)
  | none => false

/-- The switchings that an access to a sector waits for: those of a segment at or below its layer, in its own vault and in each one
up to that which lends it a Welt (R185), and the lane repairs of the Welt that carries it (R184). -/
def State.switchesOf (s : State) (core off : Nat) : List Switching :=
  let layer := off / 2 ^ 24 % 16
  let segs := fun (k : Nat) => (s.core k).vault.switching.filter (fun x => x.seg.any (fun n => decide (n ≤ layer)))
  let quad := core :: quadNeighbours core
  match s.pathOf core off with
  | some (k, w) =>
    (quad.take (quad.findIdx (fun x => decide (x = k)) + 1)).flatMap segs
      ++ (s.core k).vault.switching.filter (fun x => decide (x.welt = w) && x.seg.isNone)
  | none => quad.flatMap segs

/-- The switchings that an access of `len` bytes waits for: one of more than a sector uses both Welts of a pair (R20, R184). -/
def State.switchesAt (s : State) (core off : Nat) (len : Nat := 1) : List Switching :=
  let one := s.switchesOf core off
  if 32 < off % 32 + len then one ++ (s.switchesOf core (off / 32 * 32 + 32)).filter (fun x => decide (x ∉ one)) else one

/-- The reserved area of a vault, which reads as zero and whose writes are ignored (R19). -/
def isReserved (key : Nat) : Bool :=
  isVault key && decide (0x0B154000 ≤ keyOff key) && decide (keyOff key < 0x0B800000)

/-- A unit reads as poison: it is marked, or its sector cannot be reached (R183, R188). The reserved area reads as zero
(R19). -/
def State.poisoned (s : State) (key : Nat) : Bool :=
  !isReserved key && (s.memory.marked key || (isVault key && !s.sectorReached (keyCore key) (keyOff key)))

/-- The first poisoned byte among `n` from a key, as a distance from it. -/
def State.firstPoison (s : State) (key n : Nat) : Option Nat :=
  (upTo n).find? (fun j => (decide (j = 0) || decide ((key + j) % unitSize key = 0)) && s.poisoned (key + j))

/-- What a read of `n` bytes at a key delivers; another device's bytes are free values, and the reserved system area
reads as zero (R19). -/
def State.fetchBytes (s : State) (key n : Nat) : List Byte :=
  if isHere key then s.memory.read key n
  else (upTo n).map (fun j => BitVec.ofNat 8 (Config.nat s.tick (key + j)))

/-- Perform a write at its owner (R165): every unit covered wholly is replaced and its poison cleared; a write to part
of a poisoned unit fails with no effect. -/
def State.store (s : State) (key : Nat) (bytes : List Byte) : Option State :=
  if !isHere key || isReserved key then some s
  else
    let u := unitSize key
    let n := bytes.length
    let units := (upTo (n / u + 2)).map (fun j => key / u + j) |>.filter (fun x => decide (x * u < key + n))
    let whole := fun x => decide (key ≤ x * u) && decide (x * u + u ≤ key + n)
    let blocked := fun x => isVault key && !s.sectorReached (keyCore key) (keyOff (x * u))
    if units.any (fun x => blocked x || (!whole x && s.memory.marked (x * u))) then none
    else
      let m := s.memory.writeBytes key bytes
      some { s with memory := (units.filter whole).foldl (fun m x => m.clear (x * u)) m }

/-- Store a unit as poison (R232). -/
def State.storePoison (s : State) (key : Nat) : State := { s with memory := s.memory.mark key }

def State.setFull (s : State) (key : Nat) (b : Bool) : State := { s with memory := s.memory.setFull key b }

/-- A 64-bit word of storage. -/
def State.word (s : State) (key : Nat) : Word := BitVec.ofNat 64 (leNat (s.memory.read key 8))

/-! ## DRAM events and activations (R166, R176 to R181) -/

/-- What asks a vault: KIND and CTX of R71, its sequence number, and the context an event is charged to. -/
structure Source where
  kind : Nat
  ctx : Nat
  seq : Nat
  charged : Who

/-- A core access of a context, or of a handler, whose events go to the control context (R176, R181). -/
def directSource (w : Who) (kind : Nat) : Source :=
  if w.isHandler then { kind := 3, ctx := w.slot - 11, seq := 0, charged := ⟨w.core, 0⟩ }
  else { kind, ctx := w.slot, seq := 0, charged := w }

/-- Raise one counter of VEV_COUNT, saturating (R69, R176). -/
def bumpVev (x : Word) (event : Nat) : Word :=
  let f := (x >>> (12 * event)) &&& 0xFFF
  if f = 0xFFF then x else x + (1 <<< (12 * event))

/-- TVAL of a DRAM_EVENT trap (R177). -/
def dramTval (event bank row susp seq : Nat) : Word :=
  BitVec.ofNat 64 (event + susp * 2 ^ 4 + bank / 4 * 2 ^ 8 + bank % 4 * 2 ^ 12 + row * 2 ^ 14 + seq * 2 ^ 32)

/-- A DRAM event (R176, R177): it is counted, and its trap is marked pending if enabled and none waits already. -/
def State.dramEvent (s : State) (core event : Nat) (charged : Who) (bank row susp seq : Nat) : State :=
  let s := s.modRegs core (fun r => { r with vevCount := bumpVev r.vevCount event })
  if (s.core core).part.regs.vevMask.getLsbD event then
    s.modPending charged (fun p => { p with
      dram := match p.dram with
        | some t => some t
        | none => some (dramTval event bank row susp seq) })
  else s

def State.bank (s : State) (core b : Nat) : Bank := (s.core core).vault.banks.get {} b
def State.modBank (s : State) (core b : Nat) (f : Bank → Bank) : State :=
  s.modVault core (fun v => { v with banks := v.banks.set b (f (v.banks.get {} b)) })

/-- The record of ACT_ALERT_SRC (R71, R181). -/
def alertRecord (src : Source) (bank row : Nat) : Word :=
  BitVec.ofNat 64 (src.seq % 2 ^ 16 + row * 2 ^ 27 + bank % 4 * 2 ^ 38 + bank / 4 * 2 ^ 40 + src.ctx * 2 ^ 44
    + src.kind * 2 ^ 48)

/-- The number of the piece of work that begins next at a vault, apart from those of every other vault (R176). -/
def State.nextWork (s : State) (core : Nat) : Nat := (s.core core).vault.works * 2048 + core

/-- The temperature of a layer, in °C. -/
def State.layerTemp (s : State) (core layer : Nat) : Nat := (s.core core).vault.temps.get 40 layer

/-- tREFI of a layer, on the DRAM clock (R3, R173). -/
def State.trefi (s : State) (core layer : Nat) : Nat := if s.layerTemp core layer ≤ 85 then 7800 else 3900

/-- The DRAM clock at which the next refresh of a bank falls due. After a reset of the device the phase of a layer is free, and its
four banks are a quarter of tREFI apart (R173). -/
def State.bankDue (s : State) (core b : Nat) : Nat :=
  (s.bank core b).due.getD (Config.nat (s.core core).vault.origin (2 ^ 70 + core * 16 + b / 4) % 7800 + b % 4 * 1950)

/-- The DRAM clock at which a bank is due after the refresh that begins: a tREFI on for the first bank of a layer, and for the
others the next moment that is their quarters of tREFI from it (R173). -/
def State.nextDue (s : State) (core b : Nat) : Nat :=
  let t := s.bankDue core b
  let n := s.trefi core (layerOfBank b)
  if b % 4 = 0 then t + n
  else
    let r := (s.bankDue core (b / 4 * 4) + b % 4 * (n / 4)) % n
    t + 1 + (r + n - (t + 1) % n) % n

/-- The physical place of a row: its own, or behind the bank's rows its spare (R186). -/
def Bank.place (b : Bank) (row : Nat) : Nat :=
  match b.spares.reverse.find? (fun p => decide (p.1 = row)) with
  | some p => 2048 + p.2
  | none => row

/-- The row at a physical place, if any. -/
def Bank.rowAt (b : Bank) (place : Nat) : Option Nat :=
  if place < 2048 then if b.place place = place then some place else none
  else
    match b.spares.find? (fun p => decide (2048 + p.2 = place)) with
    | some p => if b.place p.1 = place then some p.1 else none
    | none => none

/-- The physical places next to a row (R180); the last ordinary row and the first of the 32 spares are not adjacent. -/
def Bank.neighbours (b : Bank) (row : Nat) : List Nat :=
  let p := b.place row
  (if p = 0 ∨ p = 2048 then [] else [p - 1]) ++ (if p = 2047 ∨ 2079 ≤ p then [] else [p + 1])

/-- The pieces of work, by number, that an access of `len` bytes at a vault offset waits for, each with its event: REFRESH_STALL 0, or
REPAIR_STALL 1 (R166, R174, R176, R184, R185). -/
def State.worksAt (s : State) (core off : Nat) (len : Nat := 1) : List (Nat × Nat) :=
  let b := s.bank core (bankOf off)
  (match b.busy with
    | .idle => []
    | .repair => [(b.work, 1)]
    | _ => [(b.work, 0)]) ++ (s.switchesAt core off len).map (fun x => (x.work, 1))

/-- An access at a vault offset must wait for some. -/
def State.bankBusy (s : State) (core off : Nat) (len : Nat := 1) : Bool := !(s.worksAt core off len).isEmpty

/-- The place of a client at a bank, where it waits there. -/
def Bank.place? (b : Bank) (client : Client) : Option Waiting := b.waiting.find? (fun y => decide (y.client = client))

/-- The pieces of work for which no stall of a client has been counted yet (R176). -/
def State.freshWorks (s : State) (core off : Nat) (client : Client) (len : Nat := 1) : List (Nat × Nat) :=
  let counted := (((s.bank core (bankOf off)).place? client).map (·.counted)).getD []
  (s.worksAt core off len).filter (fun x => decide (x.1 ∉ counted))

/-- When a client came to a bank, or the number it would get there now (R168). -/
def State.turnAt (s : State) (core b : Nat) (client : Client) : Nat :=
  (((s.bank core b).place? client).map (·.since)).getD (s.core core).vault.arrivals

/-- A command is still the one that a channel reads for. -/
def Cmd.reads (c : Cmd) : Bool := c.failed.isNone && !c.squashed

/-- A command that waits at a bank is still to go there: a tile load on its way or behind it, or the head of its queue. A sweep comes
before ordinary requests only where the rule of R241 says so. -/
def State.commandWaits (s : State) (core q seq : Nat) : Bool :=
  let same := fun (c : Cmd) => decide (c.seq.toNat = seq) && !c.squashed
  let x := s.queue core q
  match q with
  | 0 => s.engineOn core && x.suspended.isNone && ((s.core core).part.loads.any same || (!x.held && x.entries.any (fun e => match e with
    | .cmd c => same c
    | .barrier _ _ => false)))
  | 2 => s.queueOn core 2 && x.head.any (fun c => same c && match c.instr with
    | .apSweep .. => c.arb || decide ((s.core core).part.regs.arbwin = 0)
    | _ => true)
  | 4 | 5 | 6 | 7 => x.head.any (fun c => same c && c.reads && s.copyOn core (q - 4) c)
  | _ => s.queueEnds core q && x.head.any same

/-- A client that waits at a bank will go on there by itself. (DEDUCED, notes/assumptions/139.md) -/
def State.stillWaits (s : State) : Client → Bool
  | .ctx w => s.mayIssue w
  | .fetch w => s.mayIssue w
  | .queue _ _ => false
  | .cmd core q seq => s.commandWaits core q seq
  | .msg id => s.agentOn && s.fabric.any (fun m => decide (m.id = id))
  | .leg core ch seq offset => match (s.queue core (chQueue ch)).head with
    | some c => decide (c.seq.toNat = seq) && s.copyOn core ch c
        && ((s.core core).part.legs.get [] ch).any (fun l => decide (l.offset = offset) && !l.listed)
    | none => false

/-- A client waits for itself: an access, or the fetch of the instruction whose access waits already. -/
def Client.isOwn (client other : Client) : Bool :=
  decide (other = client) || match client with
    | .fetch w => decide (other = .ctx w)
    | _ => false

/-- An access of another client came to the bank before a number and still waits there (R168). -/
def State.behindOther (s : State) (core b : Nat) (client : Client) (turn : Nat) : Bool :=
  (s.bank core b).waiting.any (fun y => !client.isOwn y.client && decide (y.since < turn) && s.stillWaits y.client)

/-- A stall strikes a waiting access: it is counted once for each piece of work (R176). While its trap is enabled it suspends a tile load
or a sweep (R178). -/
def State.stallWaiter (s : State) (y : Waiting) (works : List (Nat × Nat)) : State :=
  let enabled := works.any (fun x => (s.core y.charged.core).part.regs.vevMask.getLsbD x.2)
  let susp := if enabled then y.susp else 0
  let s := forEach works s (fun x s =>
    s.dramEvent y.charged.core x.2 y.charged (bankOf y.off) (rowOf y.off) susp (if susp = 0 then 0 else y.seq))
  match y.client with
  | .cmd k q _ => if susp = 0 then s else s.modQueue k q (fun x => { x with suspended := some y.charged.slot })
  | _ => s

/-- An access waits at its bank, where it keeps its place; its stalls are counted (R168, R176). One that was cut off goes on before all
others (R174). -/
def State.stall (s : State) (core off : Nat) (charged : Who) (client : Client) (susp seq : Nat := 0) (first : Bool := false)
    (len : Nat := 1) : State :=
  let b := bankOf off
  let fresh := s.freshWorks core off client len
  let old := (s.bank core b).place? client
  let turn := (old.map (·.since)).getD (s.core core).vault.arrivals
  let place : Waiting := { client, since := if first then 0 else turn, off, len, charged, susp, seq
                           counted := ((old.map (·.counted)).getD []) ++ fresh.map (·.1) }
  let s := s.modBank core b (fun x => { x with waiting := (x.leave client).waiting ++ [place] })
  let s := if old.isSome then s else s.modVault core (fun v => { v with arrivals := v.arrivals + 1 })
  s.stallWaiter place fresh

/-- A buffered request waits for its bank's work, which is counted once (R176). -/
def State.stallReq (s : State) (core n : Nat) (r : Req) : State :=
  let off := keyOff r.key
  let fresh := (s.worksAt core off).filter (fun x => decide (x.1 ∉ r.counted))
  let s := s.modCore core (fun c => { c with
    vaultRequests := modAt (fun q => { q with counted := q.counted ++ fresh.map (·.1) }) c.vaultRequests n })
  forEach fresh s (fun x s => s.dramEvent core x.2 (directSource r.who 2).charged (bankOf off) (rowOf off) 0 0)

/-- An access that waits at its bank is that of a tile load behind the one on its way, which is worked on ahead only (R172). -/
def State.isAhead (s : State) : Client → Bool
  | .cmd k 0 seq => !(s.core k).part.loads.head?.any (fun c => decide (c.seq.toNat = seq))
  | _ => false

/-- Work has begun that a bank's accesses wait for: a stall of each of them is counted, whichever ends first (R176, R180). One that would
suspend a tile load before its turn is left to that. -/
def State.stallBank (s : State) (core b : Nat) : State :=
  let s := forEach ((s.bank core b).waiting.filter (fun y => s.stillWaits y.client)) s (fun y s =>
    let enabled := (s.worksAt core y.off y.len).any (fun x => (s.core y.charged.core).part.regs.vevMask.getLsbD x.2)
    if s.isAhead y.client && enabled then s else s.stall core y.off y.charged y.client y.susp y.seq false y.len)
  forEach (upTo (s.core core).vaultRequests.length) s (fun n s =>
    match (s.core core).vaultRequests[n]? with
    | some r => if bankOf (keyOff r.key) = b then s.stallReq core n r else s
    | none => s)

/-- Work of a bank begins: its row closes (R174, R176). -/
def State.beginWork (s : State) (core b : Nat) (w : BankBusy) : State :=
  ((s.modBank core b (fun x => { x with row := none, busy := w, work := s.nextWork core })).modVault core
    (fun v => { v with works := v.works + 1 })).stallBank core b

/-- The refresh of a bank's next row begins (R173, R174). -/
def State.beginRefresh (s : State) (core bank : Nat) : State :=
  let due := s.nextDue core bank
  (s.modBank core bank (fun b => { b with due := some due })).beginWork core bank .refresh

/-- Activate a row for a source: the row is open; its count rises, and at 4,096 the alert is raised, recorded and the
bank's neighbours are refreshed, one after the other (R169, R180, R181). -/
def State.activate (s : State) (core bank row : Nat) (src : Source) : State :=
  let s := s.modBank core bank (fun b => { b with row := some row })
  let n := (s.core core).vault.counts.get 0 (bank * 2048 + row) + 1
  if n < 4096 then s.modVault core (fun v => { v with counts := v.counts.set (bank * 2048 + row) n })
  else
    let s := s.modVault core (fun v => { v with counts := v.counts.set (bank * 2048 + row) 0 })
    let s := s.modMarks core (fun m => { m with actAlert := alertRecord src bank row, actValid := true })
    let s := s.dramEvent core 3 src.charged bank row 0 0
    s.beginWork core bank (.targeted ((s.bank core bank).neighbours row))

/-- An access finds its row open or activates it (R166, R168). -/
def State.touchRow (s : State) (core off : Nat) (src : Source) : State :=
  if (s.bank core (bankOf off)).row = some (rowOf off) then s
  else s.activate core (bankOf off) (rowOf off) src

/-- An access goes ahead at its bank. -/
def State.leaveBank (s : State) (core off : Nat) (client : Client) : State :=
  if (s.bank core (bankOf off)).waiting.isEmpty then s else s.modBank core (bankOf off) (Bank.leave client)

/-- A context is interlocked on an access that stalls (R177). -/
def State.isStalled (s : State) (w : Who) : Bool :=
  (s.core w.core).vault.banks.any (fun p => p.2.waiting.any (fun y =>
    (decide (y.client = .ctx w) || decide (y.client = .fetch w)) && !y.counted.isEmpty))

/-! ## Addresses (R136 to R140) -/

/-- What a global physical address names. -/
inductive Loc where
  | scratch (core off : Nat)
  | vault (core off : Nat)
  | far (off : Nat)
  | other (key : Nat)
  | nowhere
deriving DecidableEq, Repr

/-- The far column's storage ends here (R23). -/
def farSize : Nat := 3072000000000

/-- Resolve a global physical address (R136, R137). Other devices' storage lies at keys of its own. -/
def State.locate (s : State) (pa : Nat) : Loc :=
  let dev := pa / 2 ^ 58
  let col := pa / 2 ^ 47 % 2 ^ 11
  let off := pa % 2 ^ 47
  let named := decide (off < 0x0C000000) || (decide (0x10000000 ≤ off) && decide (off < 0x10080000))
  if dev = s.mod.devId then
    if col = 0x7FF then (if off < farSize then .far off else .nowhere)
    else
      match s.physOf col with
      | none => .nowhere
      | some k =>
        if off < 0x0C000000 then .vault k off
        else if 0x10000000 ≤ off ∧ off < 0x10080000 then .scratch k (off - 0x10000000)
        else .nowhere
  else if dev < s.mod.domain then
    if (decide (col = 0x7FF) && decide (off < farSize)) || (decide (col < 1152) && named) then
      .other ((1 + dev) * 2 ^ 58 + col * 2 ^ 47 + off)
    else .nowhere
  else .nowhere

def Loc.key : Loc → Nat
  | .scratch c o => spKey c o
  | .vault c o => coreKey c o
  | .far o => farKey o
  | .other k => k
  | .nowhere => 0

/-- The global physical address of an offset of a core's column. -/
def State.paOf (s : State) (core off : Nat) : Option Nat :=
  (s.logicalOf core).map (fun n => s.mod.devId * 2 ^ 58 + n * 2 ^ 47 + off)

def isGeneral (off : Nat) : Bool := decide (off < 0x0B000000)
def isGaz (off : Nat) : Bool := decide (0x0B800000 ≤ off) && decide (off < 0x0C000000)

/-- The access kinds of R140. -/
inductive Reach where
  | direct | fullEmpty | row | tile | plane | table | remote | copy
deriving DecidableEq, Repr

/-- The cause with which storage is refused to an access of a core (R140, R137); `handler` accesses reach their own
column only (R266). -/
def refuse (r : Reach) (own : Nat) (handler : Bool) (l : Loc) : Option Nat :=
  match l, r with
  | .nowhere, _ => some cTranslation
  | .far _, .copy => none
  | .far _, _ => some cNonlocal
  | .other key, .remote => if key / 2 ^ 47 % 2 ^ 11 = 0x7FF then some cNonlocal else none
  | .other _, .copy => none
  | .other _, _ => some cNonlocal
  | .scratch k _, r =>
    let isOwn := decide (k = own)
    let mate := decide (clusterOf k = clusterOf own) && !handler
    match r with
    | .direct => if isOwn || mate then none else some cNonlocal
    | .fullEmpty => if isOwn || mate then none else some cNonlocal
    | .row => if isOwn || mate then some cIllegalOperand else some cNonlocal
    | .tile => if isOwn then none else some cNonlocal
    | .plane => some cNonlocal
    | .table => if isOwn || mate then some cIllegalOperand else some cNonlocal
    | .remote => none
    | .copy => none
  | .vault k o, r =>
    let isOwn := decide (k = own)
    match r with
    | .direct => if isOwn then none else some cNonlocal
    | .fullEmpty => if isOwn then some cIllegalOperand else some cNonlocal
    | .row => if !isOwn then some cNonlocal else if 0x0B000000 ≤ o ∧ o < 0x0B800000 then some cTranslation else none
    | .tile => if isOwn then none else some cNonlocal
    | .plane => if isOwn then none else some cNonlocal
    | .table => if isOwn then (if isGaz o then none else some cIllegalOperand) else some cNonlocal
    | .remote => none
    | .copy => none

/-! ## Translation (R138, R139, R149 to R158) -/

/-- What an access needs of a translation (R155). -/
structure Need where
  write : Bool := false
  exec : Bool := false

/-- The outcome of a translation: a global physical address, a cause, or not known yet. -/
inductive Xl where
  | ok (pa : Nat)
  | fault (cause : Nat)
  | miss
deriving DecidableEq, Repr

def Mapping.covers (m : Mapping) (asid : BitVec 16) (va : Nat) : Bool :=
  decide (m.asid = asid) && decide (m.base ≤ va) && decide (va < m.base + m.size)

def Mapping.permits (m : Mapping) (n : Need) (user : Bool) : Bool :=
  (!user || m.u) && (!n.write || m.w) && (!n.exec || m.x)

/-- The range of lowest index that covers an address (R154). -/
def bestRange (l : List Mapping) (asid : BitVec 16) (va : Nat) : Option Mapping :=
  l.foldl (fun best m => if m.covers asid va then
    match best with
    | some b => if m.index < b.index then some m else best
    | none => some m
    else best) none

/-- The cached translation of an address: any range wins over any page (R154). -/
def State.cached (s : State) (core : Nat) (asid : BitVec 16) (va : Nat) : Option Mapping :=
  let c := s.core core
  let cl := s.cluster (clusterOf core)
  match bestRange (c.l1Ranges ++ cl.ranges) asid va with
  | some m => some m
  | none => (c.l1Pages ++ cl.pages).find? (fun m => m.covers asid va)

/-- Whether a core runs, or holds a pre-empted part of, the job that runs on another (R139). -/
def State.sameJob (s : State) (mine other : Nat) : Bool × Bool :=
  match (s.core mine).run with
  | none => (decide (mine = other), false)
  | some r =>
    (match (s.core other).run with
      | some r' => decide (r'.job = r.job)
      | none => false,
     match (s.core other).saved with
      | some im => decide (im.run.job = r.job)
      | none => false)

/-- An access of a core to a scratchpad is held: its owner is being saved, or is pre-empted of a part of the core's job (R148).
That of a third job is performed (DESIGN CHOICE, notes/assumptions/130.md). -/
def State.isHeld (s : State) (core owner : Nat) : Bool :=
  s.isSaving owner || (decide (owner ≠ core) && decide (s.sameJob core owner = (false, true)))

/-- Translate a virtual address for a client of a core at a privilege level (R138, R139, R149, R154, R155). -/
def State.translate (s : State) (client : Client) (core : Nat) (asid : BitVec 16) (pl : BitVec 2) (need : Need) (va : Nat) :
    Xl :=
  if va < 0x1C0 * 2 ^ 48 then
    let cl := s.cluster (clusterOf core)
    let check := fun (m : Mapping) => if m.permits need (decide (pl = 0)) then Xl.ok (m.target + (va - m.base)) else .fault cTranslation
    if (s.dx.asids.get {} asid.toNat).ptroot.isNone then .fault cTranslation
    else if asid ∉ cl.read then .miss
    else
      match s.cached core asid va with
      | some m => check m
      | none =>
        match cl.walks.find? (fun x => decide (x.client = client) && decide (x.asid = asid) && decide (x.va = va)) with
        | some x =>
          match x.state with
          | .done (some m) => check m
          | .done none => .fault cTranslation
          | _ => .miss
        | none => .miss
  else if va < 0x1E0 * 2 ^ 48 then
    if pl = 2 then .ok (s.mod.devId * 2 ^ 58 + va / 2 ^ 42 % 2 ^ 11 * 2 ^ 47 + va % 2 ^ 42) else .fault cTranslation
  else if va / 2 ^ 32 = 0x1FFFFFF then
    let o := va % 2 ^ 32
    if need.exec then .fault cTranslation
    else if o < 0xC00000 then
      let n := clusterOf core * 24 + o / 2 ^ 19
      match s.physOf n with
      | none => .fault cTranslation
      | some k =>
        let pa := s.mod.devId * 2 ^ 58 + n * 2 ^ 47 + 0x10000000 + o % 2 ^ 19
        if k = core then .ok pa
        else
          if s.sameJob core k = (false, false) then .fault cTranslation else .ok pa
    else if 0x1000000 ≤ o ∧ o < 0x1080000 then
      match s.paOf core (0x10000000 + o % 2 ^ 19) with
      | some pa => .ok pa
      | none => .fault cTranslation
    else .fault cTranslation
  else .fault cTranslation

/-- Translate for a client whose access may have been translated before, and waits since (R159). -/
def State.resolve (s : State) (client : Client) (core : Nat) (asid : BitVec 16) (pl : BitVec 2) (need : Need) (va : Nat) : Xl :=
  match (s.core core).resolved.find? (fun x => decide (x.client = client) && decide (x.va = va)) with
  | some x => .ok x.pa
  | none => s.translate client core asid pl need va

/-- A translated access waits: it keeps its translation (R159). (DEDUCED, notes/assumptions/140.md) -/
def State.keepPa (s : State) (client : Client) (core va pa : Nat) : State :=
  if (s.core core).resolved.any (fun x => decide (x.client = client) && decide (x.va = va)) then s
  else s.modCore core (fun c => { c with resolved := c.resolved ++ [{ client, va, pa }] })

/-- Register a translation request of a client, once (R154). -/
def State.askWalk (s : State) (client : Client) (core : Nat) (asid : BitVec 16) (need : Need) (user : Bool) (va : Nat) : State :=
  s.modCluster (clusterOf core) (fun c =>
    if c.walks.any (fun x => decide (x.client = client) && decide (x.va = va)) then c
    else
      let old := c.walks.filter (fun x => decide (x.client ≠ client))
      { c with walks := old ++ [{
          client, asid, va, write := need.write, exec := need.exec, user
          state := .walking 4 (((s.dx.asids.get {} asid.toNat).ptroot).getD 0) }] })

/-- A client's request is served: it leaves the L2, and the L1 keeps the page (R154). -/
def State.doneWalk (s : State) (client : Client) (core va : Nat) : State :=
  let k := clusterOf core
  let mine := fun (x : Walk) => decide (x.client = client) && decide (x.va = va)
  let kept := fun (x : Resolved) => decide (x.client = client) && decide (x.va = va)
  let s := if (s.core core).resolved.any kept then
      s.modCore core (fun c => { c with resolved := c.resolved.filter (fun x => !kept x) })
    else s
  if (s.cluster k).walks.any mine then
    s.modCluster k (fun c => { c with walks := c.walks.filter (fun x => !mine x) })
  else s

/-- Nothing of an engine queue's last command waits to be translated or at a bank any more. -/
def State.leaveQueue (s : State) (core q : Nat) : State :=
  let k := clusterOf core
  let mine := fun (x : Walk) => decide (x.client = .queue core q)
  let s := if (s.core core).resolved.any (fun x => decide (x.client = .queue core q)) then s.modCore core (Core.unresolve (.queue core q)) else s
  if (s.cluster k).walks.any mine then s.modCluster k (fun c => { c with walks := c.walks.filter (fun x => !mine x) }) else s

/-- Keep a translation in a store of a given size; which one makes room is not architected (R154). -/
def keepMapping (tick size : Nat) (l : List Mapping) (m : Mapping) : List Mapping :=
  if m ∈ l then l
  else if l.length < size then l ++ [m]
  else dropAt l (Config.nat tick 200 % size) ++ [m]

/-- The L1 of a core keeps a translation it used (R154). -/
def State.fillL1 (s : State) (core : Nat) (asid : BitVec 16) (va : Nat) : State :=
  let cl := s.cluster (clusterOf core)
  match bestRange cl.ranges asid va with
  | some m => s.modCore core (fun c => { c with l1Ranges := keepMapping s.tick 8 c.l1Ranges m })
  | none =>
    match cl.pages.find? (fun m => m.covers asid va) with
    | some m => s.modCore core (fun c => { c with l1Pages := keepMapping s.tick 64 c.l1Pages m })
    | none => s

/-- A core's address space: the running job's (R63). -/
def State.asid (s : State) (core : Nat) : BitVec 16 := (s.core core).asid

/-- Whether a scratchpad offset lies in a shadow-stack area (R56, R59). -/
def inShadow (off n : Nat) : Bool := decide (0x7B000 < off + n) && decide (off < 0x7C600)

/-! ## Result of a table read (R150 to R153) -/

/-- A page-table or range-table word of the far column, unless its unit is poisoned or no storage (R150). -/
def State.farWord (s : State) (off : Nat) : Option Nat :=
  if off + 8 ≤ farSize ∧ !s.memory.marked (farKey off) then some (leNat (s.memory.read (farKey off) 8)) else none

def bitAt (x k : Nat) : Bool := decide (x / 2 ^ k % 2 = 1)

/-- Whether a span of physical addresses lies wholly in one storage region that a job may map (R19, R152, R153). -/
def oneRegion (pa size : Nat) (scratch : Bool) : Bool :=
  let col := pa / 2 ^ 47 % 2 ^ 11
  let off := pa % 2 ^ 47
  let last := off + size
  if col = 0x7FF then decide (last ≤ farSize)
  else decide (col < 1152) &&
    (decide (last ≤ 0x0B000000) || (decide (0x0B800000 ≤ off) && decide (last ≤ 0x0C000000))
      || (scratch && decide (0x10000000 ≤ off) && decide (last ≤ 0x10080000)))

/-- The page of a leaf: its size code and size in bytes (R150, R151, R157). -/
def leafSize (level : Nat) (p64 : Bool) : Nat × Nat :=
  if level = 2 then (3, 2 ^ 30) else if level = 1 then (2, 2 ^ 21) else if p64 then (1, 2 ^ 16) else (0, 2 ^ 12)

/-- One level of a walk (R150 to R152). An absent leaf parks the request if its permissions allow it (R141, R156). -/
def State.walkLevel (s : State) (x : Walk) : Walk :=
  match x.state with
  | .walking level table =>
    let idx := x.va / 2 ^ (12 + 9 * level) % 512
    let none_ : Walk := { x with state := .done none }
    let read := fun i => s.farWord (table + 8 * i)
    let e0 := read idx
    -- a 64 KiB page is one of its 16 entries, unpredictably (R151)
    let e := match e0 with
      | some v => if level = 0 && bitAt v 1 && bitAt v 6 then read (idx / 16 * 16 + Config.nat s.tick 201 % 16) else some v
      | none => none
    match e with
    | none => none_
    | some v =>
      if !bitAt v 0 then none_
      else if !bitAt v 1 then
        if level = 0 || decide (v / 2 % 2 ^ 11 ≠ 0) then none_
        else
          let pa := v / 2 ^ 12 * 2 ^ 12
          if pa / 2 ^ 58 = s.mod.devId ∧ pa / 2 ^ 47 % 2 ^ 11 = 0x7FF then { x with state := .walking (level - 1) (pa % 2 ^ 47) }
          else none_
      else if decide (2 < level) || decide (v / 2 ^ 7 % 32 ≠ 0) || (bitAt v 6 && decide (level ≠ 0)) then none_
      else
        let (code, size) := leafSize level (bitAt v 6)
        let base := x.va / size * size
        let m : Mapping := { asid := x.asid, base, size, target := v / 2 ^ 12 * 2 ^ 12, w := bitAt v 3, x := bitAt v 4, u := bitAt v 5 }
        if bitAt v 2 then
          if m.target % size = 0 ∧ oneRegion m.target size (decide (level = 0)) then { x with state := .done (some m) } else none_
        else if m.permits ⟨x.write, x.exec⟩ x.user then { x with state := .parked code base }
        else none_
  | _ => x

/-- One entry of a range table, or none where the L2 ignores it (R153). -/
def State.rangeEntry (s : State) (asid : BitVec 16) (rtab i : Nat) : Option Mapping :=
  match s.farWord (rtab + 32 * i), s.farWord (rtab + 32 * i + 8), s.farWord (rtab + 32 * i + 16), s.farWord (rtab + 32 * i + 24) with
  | some w0, some w1, some w2, some w3 =>
    let base := w0 / 2 ^ 12 % 2 ^ 45 * 2 ^ 12
    let lim := w1
    if !bitAt w0 0 || decide (w0 / 2 ^ 57 ≠ 0) || bitAt w0 1 || bitAt w0 2 || decide (w0 / 2 ^ 6 % 64 ≠ 0)
        || decide (w1 / 2 ^ 57 ≠ 0) || decide (w1 % 2 ^ 12 ≠ 0) || decide (w2 % 2 ^ 12 ≠ 0) || decide (w3 ≠ 0)
        || decide (lim ≤ base) || !oneRegion w2 (lim - base) true then none
    else some { asid, base, size := lim - base, target := w2, w := bitAt w0 3, x := bitAt w0 4, u := bitAt w0 5, index := i }
  | _, _, _, _ => none

/-! ## Full/empty words (R145, R146, R37) -/

/-- Every acquire of a context empties the Gazetteer latch of its core (R216); a handler's `ldf` or `ldfe` counts as one (DESIGN CHOICE,
notes/assumptions/153.md). -/
def State.emptyLatch (s : State) (core : Nat) : State := s.modCore core (fun c => { c with latch := {} })

/-- An item in hand is complete: the context goes on behind it. -/
def State.finish (s : State) (w : Who) (i : Instr) : State :=
  (s.modHold w (fun h => { h with hand := none })).advance w i

/-- The bytes that a request covers; a request without bytes covers its word. -/
def Req.size (r : Req) : Nat := max r.bytes.length 8

/-- Whether bytes at a virtual address meet one of the regions bound to an object. -/
def meets (regions : List (Nat × Nat)) (va len : Nat) : Bool := regions.any (fun r => decide (r.1 < va + len) && decide (va < r.2))

/-- The remote operations of a context that a release of an object's regions covers. A `.nr` call's writes are its handler's, so an object
with regions waits for them all (R284). (DEDUCED, notes/assumptions/25.md) -/
def RemoteOp.covered (regions : List (Nat × Nat)) (o : RemoteOp) : Bool :=
  !o.send && (if o.len = 0 then !regions.isEmpty else meets regions o.va o.len)

/-- The regions bound to a full/empty word for an address space (R288). -/
def State.wordRegions (s : State) (asid : BitVec 16) (key : Nat) : List (Nat × Nat) :=
  ((s.unit (clusterOf (keyCore key))).words.filter (fun b => decide (b.1 = asid) && decide (b.2.1 = key))).map (·.2.2)

/-- A context that releases now covers all its writes before (R284). -/
def State.coversNow (s : State) (w : Who) : Before := { step := s.tick, op := (s.ctx w).hold.opNext }

/-- A release of a context must still wait for a write to its object's regions that it covers: a direct write, in a core's buffers or
among those `ahead`, or a remote operation (R284). -/
def State.owesWrites (s : State) (w : Who) (regions : List (Nat × Nat)) (b : Before) (ahead : List Req := []) : Bool :=
  !regions.isEmpty
    && ((ahead ++ s.cores.flatMap (fun c => c.2.requests ++ c.2.vaultRequests)).any (fun q =>
        decide (q.who = w) && decide (q.no < b.step) && meets regions q.va.toNat q.size)
      || (s.ctx w).remote.any (fun o => decide (o.id < b.op) && o.covered regions))

/-- Serve one waiting request of a word's queue (R146, R420): some state if it was served. -/
def State.serveWait (s : State) (f : FeWait) : Option State :=
  let full := s.memory.isFull f.key
  let bad := s.poisoned f.key
  let fail := fun (s : State) => (s.modHold f.who (fun h => { h with hand := none })).trapSync f.who cUncorrectable f.va
  match f.instr with
  | .ldf d _ _ =>
    if !full then none
    else if bad then some (fail s)
    else some (((s.setG f.who d (s.word f.key)).emptyLatch f.who.core).finish f.who f.instr)
  | .ldfe d _ _ =>
    if !full then none
    else if bad then some (fail s)
    else some ((((s.setG f.who d (s.word f.key)).setFull f.key false).emptyLatch f.who.core).finish f.who f.instr)
  | .stef _ _ _ =>
    -- a release of the regions bound to the word now (R284, R288)
    if full || s.owesWrites f.who (s.wordRegions (s.asid f.who.core) f.key) (s.coversNow f.who) then none
    else
      match s.store f.key (natLE 8 f.value.toNat) with
      | some t => some ((t.setFull f.key true).finish f.who f.instr)
      | none => some s
  | .join _ _ off =>
    -- a waiting join watches the word and takes no place in its queue's order (R37)
    if !full then none
    else
      let s := s.modHold f.who (fun h => { h with hand := none, joinAt := none })
      let s := s.emptyLatch f.who.core
      some (s.setPc f.who ((s.ctx f.who).pc + BitVec.ofInt 64 (8 * off)))
  | _ => none

/-- The waiting request of a word that is to be looked at next: waiting joins first, since they change nothing; then the oldest taker of a
full word, and the oldest filler of an empty one: a request of the other kind need not wait for it (R145, R146). -/
def nextWait (l : List FeWait) (key : Nat) (full : Bool) : Option FeWait :=
  let mine := l.filter (fun f => decide (f.key = key))
  let isJoin := fun (f : FeWait) => match f.instr with
    | .join .. => true
    | _ => false
  let fills := fun (f : FeWait) => match f.instr with
    | .stef .. => true
    | _ => false
  match if full then mine.find? isJoin else none with
  | some f => some f
  | none => mine.find? (fun f => !isJoin f && decide (fills f ≠ full))

/-- Serve a word's queue in order until a request must still wait (R146). -/
def State.serveWord (s : State) (key : Nat) : Nat → State
  | 0 => s
  | n + 1 =>
    let core := keyCore key
    match nextWait (s.core core).words key (s.memory.isFull key) with
    | none => s
    | some f =>
      match s.serveWait f with
      | none => s
      | some t =>
        (t.modCore core (fun c => { c with words := c.words.filter (fun x => decide (x ≠ f)) })).serveWord key n

def State.serveWords (s : State) (key : Nat) : State := s.serveWord key ((s.core (keyCore key)).words.length)

/-- Write a word with `stf` semantics: the value, full, and its queue served (R145, R209). -/
def State.storeFull (s : State) (key : Nat) (x : Word) : State :=
  match s.store key (natLE 8 x.toNat) with
  | some t => (t.setFull key true).serveWords key
  | none => s

/-- Status codes of completion words (R87). -/
def csOk : Nat := 0
def csDiscarded : Nat := 1
def csSrc : Nat := 2
def csDst : Nat := 3
def csTranslation : Nat := 4
def csShadow : Nat := 5
def csSquashed : Nat := 6
def csLinkFail : Nat := 7

/-! ## Scratchpad protection (R161, R162) -/

/-- A bank of a scratchpad is marked failed (R162). With three failed banks reads go on as with two (DESIGN CHOICE,
notes/assumptions/109.md). -/
def State.failBank (s : State) (core bank : Nat) : State :=
  let m := (s.core core).marks
  if bank ∈ m.spFailed then s
  else
    let n := m.spFailed.length + 1
    s.modMarks core (fun m => { m with
      spFailed := insertNat m.spFailed bank
      degraded := m.degraded || decide (2 ≤ n)
      events := m.events ||| 0x04#6 ||| (if 2 ≤ n then 0x08#6 else 0) })

/-- What an access meets in its stripe (R161, R162): a single bad symbol is corrected; 16 corrections in a bank within 2²⁴ cc
mark it failed; behind one failed bank a bad symbol poisons the word, which is taken to be its own data word, and in a check bank none
(DESIGN CHOICE, notes/assumptions/109.md). Behind two it is not found: what the read then delivers
is not given, and the model lets it deliver the word as it was stored (DESIGN CHOICE, notes/assumptions/109.md). -/
def State.meetStripe (s : State) (core key : Nat) (found : StripeFinding) : State :=
  match found with
  | .clean => s
  | .selfTestFails b => s.failBank core b
  | .badSymbol b =>
    let m := (s.core core).marks
    match m.spFailed.length with
    | 0 =>
      let l := s.clock :: (m.spCorrections.get [] b).filter (fun t => decide (s.clock < t + 2 ^ 24))
      let s := s.modMarks core (fun m => { m with spCorrections := m.spCorrections.set b l })
      if 16 ≤ l.length then s.failBank core b else s
    | 1 => if b < 16 ∧ b ∉ m.spFailed then { s with memory := s.memory.mark (key / 128 * 128 + b * 8) } else s
    | _ => s

/-! ## What a read or write meets on its way (R161, R182) -/

/-- Whether the misread that a Welt has in store strikes the access at a key. -/
def State.beatStrikes (s : State) (key : Nat) : Bool :=
  isVault key && !decide ((s.core (keyCore key)).marks.beats = .clean) && Config.bit s.tick (2 ^ 20 + key)

def State.clearBeats (s : State) (core : Nat) : State := s.modMarks core (fun m => { m with beats := .clean })

/-- The sectors, by key div 32, that one Welt beat of an access of `n` bytes carried: any of the access's, and the one with which it
shares its 512 lines, the next of the same Welt (R20, R182). -/
def State.beatSectors (s : State) (key n : Nat) : List Nat :=
  let both := match s.pathOf (keyCore key) (keyOff key) with
    | some (k, _) => decide (((s.core k).vault.serving (keyOff key / 2 ^ 24 % 16)).length = 2)
    | none => false
  let x := key / 32 + Config.nat s.tick (2 ^ 21 + key) % ((key % 32 + n + 31) / 32)
  [x, x ^^^ (if both then 2 else 1)]

/-- An access of `n` bytes over a Welt meets the misread that this has in store: the sectors that a beat which failed twice carried.
One that carried a sector of `seen`, which the command has been through already, would have failed there (R182). -/
def State.takeBeat (s : State) (key n : Nat) (seen : List Nat := []) : State × List Nat :=
  let l := s.beatSectors key n
  if s.beatStrikes key && !l.any (fun x => decide (x ∈ seen)) then
    (s.clearBeats (keyCore key), if (s.core (keyCore key)).marks.beats = .failedTwice then l else [])
  else (s, [])

/-- The first byte of an access of `n` bytes that some sectors hold, as a distance from its start. -/
def lostAt (key n : Nat) (lost : List Nat) : Option Nat :=
  lost.foldl (fun (r : Option Nat) x =>
    if key < x * 32 + 32 ∧ x * 32 < key + n then some (min (r.getD n) (x * 32 - key)) else r) none

/-- The first poisoned byte of a read, as a distance from its start. The read meets what its stripe or Welt has in store
for it (R161, R182). -/
def State.poisonAt (s : State) (key n : Nat) (seen : List Nat := []) : State × Option Nat :=
  let core := keyCore key
  let m := (s.core core).marks
  if isSp key then
    let s := if m.stripe = .clean then s
      else (s.meetStripe core key m.stripe).modMarks core (fun m => { m with stripe := .clean })
    (s, s.firstPoison key n)
  else
    let (s, lost) := s.takeBeat key n seen
    (s, match lostAt key n lost, s.firstPoison key n with
      | some i, some j => some (min i j)
      | some i, none => some i
      | none, r => r)

/-- Those sectors of a write which a failed beat carried are stored as poison (R182). -/
def State.spoil (s : State) (key n : Nat) (lost : List Nat) : State :=
  forEach (lost.filter (fun x => decide (key < x * 32 + 32 ∧ x * 32 < key + n))) s (fun x s => s.storePoison (x * 32))

/-- A write over a Welt meets what that has in store. -/
def State.writeBeat (s : State) (key n : Nat) : State :=
  let (s, lost) := s.takeBeat key n
  s.spoil key n lost

/-! ## Performing direct writes (R143, R168, R281) -/

/-- Perform one direct write or row request at its owner. -/
def State.performReq (s : State) (r : Req) : State :=
  let core := keyCore r.key
  match r.kind with
  | .store =>
    let s := if isVault r.key then s.touchRow core (keyOff r.key) (directSource r.who 2) else s
    match s.store r.key r.bytes with
    | some t => t.writeBeat r.key r.bytes.length
    | none => s.lateFault r.who r.gen r.va
  | .storeFull => s.storeFull r.key (BitVec.ofNat 64 (leNat r.bytes))
  | .setFull => if s.poisoned r.key then s.lateFault r.who r.gen r.va else (s.setFull r.key true).serveWords r.key
  | .setEmpty => if s.poisoned r.key then s.lateFault r.who r.gen r.va else (s.setFull r.key false).serveWords r.key
  | .activate =>
    if (s.bank core (bankOf (keyOff r.key))).row = some (rowOf (keyOff r.key)) then s
    else s.activate core (bankOf (keyOff r.key)) (rowOf (keyOff r.key)) (directSource r.who 1)
  | .precharge => s.modBank core (bankOf (keyOff r.key)) (fun b => { b with row := none })

/-- Two requests of one context meet in a scratchpad word (R144). -/
def Req.meetsWord (a b : Req) : Bool :=
  decide (a.who = b.who) && decide (a.key / 8 * 8 < b.key + b.size) && decide (b.key / 8 * 8 < a.key + a.size)

/-- An earlier request that is performed before a later one: one to the same bank (R168), or of the same context to the same
word (R144). -/
def Req.before (a b : Req) : Bool :=
  if isVault b.key then isVault a.key && decide (bankOf (keyOff a.key) = bankOf (keyOff b.key)) else a.meetsWord b

/-- An `stf` must still wait for a write that it covers, to the regions that are bound to its word now (R284, R288, R459). (DEDUCED,
notes/assumptions/142.md) -/
def State.isBlocked (s : State) (r : Req) (ahead : List Req) : Bool :=
  decide (r.kind = .storeFull) && s.owesWrites r.who (s.wordRegions r.asid r.key) { step := r.no, op := r.opMark } ahead

/-- Requests in order of arrival, each with whether it is to be performed now: it is selected, or ahead of one that is. -/
def chosen (p : Req → Bool) : List Req → List (Req × Bool)
  | [] => []
  | r :: l =>
    let rest := chosen p l
    (r, p r || rest.any (fun q => q.2 && r.before q.1)) :: rest

/-- An activation of the row that is open, which the controller has nothing to do for (R169). -/
def State.rowIsOpen (s : State) (core : Nat) (r : Req) : Bool :=
  decide (r.kind = .activate) && decide ((s.bank core (bankOf (keyOff r.key))).row = some (rowOf (keyOff r.key)))

/-- What came to the bank of the n-th buffered request before it and is still there: an earlier request, or an access that waits
(R168). -/
def State.heldUp (s : State) (core n : Nat) (r : Req) : Bool :=
  let b := bankOf (keyOff r.key)
  !s.rowIsOpen core r
    && (((s.core core).vaultRequests.take n).any (fun q => decide (bankOf (keyOff q.key) = b))
      || (s.bank core b).waiting.any (fun y => decide (y.since < r.since) && s.stillWaits y.client))

/-- The n-th buffered request of a vault is performed, or waits (R168). -/
def State.serveReq (s : State) (core n : Nat) (r : Req) : Option State :=
  if s.heldUp core n r || s.bankBusy core (keyOff r.key) then none
  else some ((s.modCore core (fun c => { c with vaultRequests := dropAt c.vaultRequests n })).performReq r)

/-- Perform those requests at a vault, from the n-th on, that are chosen and whose turn it is (R168). -/
def State.serveVault (core : Nat) : List Bool → Nat → State → State
  | [], _, s => s
  | now :: l, n, s =>
    match now, (s.core core).vaultRequests[n]? with
    | true, some r =>
      match s.serveReq core n r with
      | some t => State.serveVault core l n t
      | none => State.serveVault core l (n + 1) (s.stallReq core n r)
    | _, _ => State.serveVault core l (n + 1) s

/-- Perform those requests at a scratchpad's bank units that are chosen, behind those that are `kept` back (R144, R284). -/
def State.serveScratch (core : Nat) : List (Req × Bool) → List Req → State → State
  | [], kept, s => s.modCore core (fun c => { c with requests := kept ++ c.requests })
  | (r, now) :: l, kept, s =>
    if now && !s.isBlocked r kept && !kept.any (·.before r) then State.serveScratch core l kept (s.performReq r)
    else State.serveScratch core l (kept ++ [r]) s

/-- Perform, in order of arrival, the buffered requests of a core that a test selects and those ahead of them. One to a bank
at work waits there (R144, R168). -/
def State.performWhere (s : State) (core : Nat) (p : Req → Bool) : State :=
  let c := s.core core
  if !(c.requests ++ c.vaultRequests).any p then s
  else
    let s := State.serveScratch core (chosen p c.requests) [] (s.modCore core (fun c => { c with requests := [] }))
    State.serveVault core ((chosen p c.vaultRequests).map (·.2)) 0 s

/-- A core still buffers a request that a test selects. -/
def State.buffers (s : State) (core : Nat) (p : Req → Bool) : Bool :=
  ((s.core core).requests ++ (s.core core).vaultRequests).any p

/-- Perform the buffered requests of a context that a test selects, wherever they are buffered. -/
def State.flush (s : State) (w : Who) (p : Req → Bool) : State :=
  let q := fun (r : Req) => decide (r.who = w) && p r
  let cores := (s.cores.filter (fun c => s.buffers c.1 q)).map (·.1)
  forEach cores s (fun k s => s.performWhere k q)

/-- No core buffers such a request. -/
def State.flushed (s : State) (w : Who) (p : Req → Bool) : Bool :=
  s.cores.all (fun c => !s.buffers c.1 (fun r => decide (r.who = w) && p r))

/-- The requests of a context to its own scratchpad and vault are performed before an engine command or a remote
operation of it reads that storage (R283). -/
def State.flushOwn (s : State) (w : Who) : State :=
  s.performWhere w.core (fun r => decide (r.who = w))

/-- Some of them wait for a bank. -/
def State.ownWaits (s : State) (w : Who) : Bool := s.buffers w.core (fun r => decide (r.who = w))

/-- Go on once the requests of a context to its own storage are performed. -/
def State.whenOwn (s : State) (w : Who) (k : State → Effect) : Effect :=
  let t := s.flushOwn w
  if t.ownWaits w then .wait (fun s0 => s0.flushOwn w) else k t

/-- A buffered direct write leaves the context. -/
def State.sendReq (s : State) (r : Req) : State :=
  let core := keyCore r.key
  let r := { r with job := (s.core r.who.core).jobId, no := s.tick }
  if isSp r.key then s.modCore core (fun c => { c with requests := c.requests ++ [r] })
  else
    let s := s.modCore core (fun c => { c with vaultRequests := c.vaultRequests ++ [{ r with since := c.vault.arrivals }] })
    s.modVault core (fun v => { v with arrivals := v.arrivals + 1 })

/-- The requests that came to a bank before a number are performed, as far as they can be (R168). -/
def State.serveBank (s : State) (core b turn : Nat) : State :=
  s.performWhere core (fun r => isVault r.key && decide (bankOf (keyOff r.key) = b) && decide (r.since < turn))

/-- A context's buffered write to some words of a scratchpad. -/
def Req.toWords (w : Who) (key n : Nat) (r : Req) : Bool :=
  isSp r.key && decide (r.who = w) && decide (r.key / 8 * 8 < key + n) && decide (key / 8 * 8 < r.key + 8)

/-- Before a read of a scratchpad is performed: the context's own earlier writes to the unit (R144). -/
def State.serveEarlier (s : State) (w : Who) (key n : Nat) : State :=
  if isSp key then s.performWhere (keyCore key) (Req.toWords w key n) else s

/-- One of them is still to be performed, behind what it releases. -/
def State.earlierWaits (s : State) (w : Who) (key n : Nat) : Bool := isSp key && s.buffers (keyCore key) (Req.toWords w key n)

/-- Go on once they are performed; `keep` is what else a wait leaves, as the access's translation (R159). -/
def State.afterEarlier (s : State) (w : Who) (key n : Nat) (k : State → Effect) (keep : State → State := id) : Effect :=
  let t := s.serveEarlier w key n
  if t.earlierWaits w key n then .wait (fun s0 => (keep s0).serveEarlier w key n) else k t

/-- An access comes to its bank when its turn has come: everything that came there before it is over, and the bank is free (R168).
What was ahead may set the bank to work again (R180). -/
def State.atPlace (s : State) (client : Client) (core off : Nat) (len : Nat := 1) : Option State :=
  let b := bankOf off
  let turn := s.turnAt core b client
  if s.behindOther core b client turn || s.bankBusy core off len then none
  else
    let t := s.serveBank core b turn
    if t.bankBusy core off len
        || (t.core core).vaultRequests.any (fun r => isVault r.key && decide (bankOf (keyOff r.key) = b) && decide (r.since < turn)) then none
    else some (t.leaveBank core off client)

/-- An access whose turn has come keeps its place at its bank, with the number it has or would get there (R168, R172). -/
def State.stayAt (s : State) (client : Client) (core off turn len : Nat) (charged : Who) (susp seq : Nat) : State :=
  let s := s.modBank core (bankOf off) (fun x => { x with
    waiting := (x.leave client).waiting ++ [{ client, since := turn, off, len, charged, susp, seq }] })
  s.modVault core (fun v => { v with arrivals := max v.arrivals (turn + 1) })

/-- It waits there. -/
def State.waitBank (s : State) (client : Client) (core off : Nat) (charged : Who) (len : Nat := 1) : State :=
  (s.serveBank core (bankOf off) (s.turnAt core (bankOf off) client)).stall core off charged client 0 0 false len

/-! ## One direct access (R141) -/

/-- A direct access is held for the scratchpad of a pre-empted owner (R148). -/
def State.holdAt (s : State) (w : Who) (owner : Nat) : State :=
  s.modPart w.core (fun p => { p with
    heldAt := if p.heldAt.any (fun x => decide (x.2 = w.slot)) then p.heldAt else p.heldAt ++ [(owner, w.slot)] })

/-- Accesses of a core that are held for an owner go in the order in which they were held (R148). -/
def State.behindHeld (s : State) (w : Who) (owner : Nat) : Bool :=
  match (s.core w.core).part.heldAt.find? (fun x => decide (x.1 = owner)) with
  | some x => decide (x.2 ≠ w.slot)
  | none => false

def State.unhold (s : State) (w : Who) : State :=
  if (s.core w.core).part.heldAt.isEmpty then s
  else s.modPart w.core (fun p => { p with heldAt := p.heldAt.filter (fun x => decide (x.2 ≠ w.slot)) })

/-- Translate an address that a context's instruction names (R141 steps 2 to 5): go on with what it names, trap, or wait. -/
def State.locateVa (s : State) (w : Who) (need : Need) (va tval : Word) (k : Loc → State → Effect) : Effect :=
  let core := w.core
  let asid := s.asid core
  match s.resolve (.ctx w) core asid (s.pl w) need va.toNat with
  | .fault c => .done ((s.doneWalk (.ctx w) core va.toNat).trapSync w c tval)
  | .miss => .wait (fun s0 => s0.askWalk (.ctx w) core asid need (s.isUser w) va.toNat)
  | .ok pa =>
    let s := (s.doneWalk (.ctx w) core va.toNat).fillL1 core asid va.toNat
    k (s.locate pa) s

/-- A context's translated access waits (R159). -/
def State.keepFor (s : State) (w : Who) (need : Need) (va : Word) : State :=
  match s.resolve (.ctx w) w.core (s.asid w.core) (s.pl w) need va.toNat with
  | .ok pa => s.keepPa (.ctx w) w.core va.toNat pa
  | _ => s

/-- Check the reach of an access to what its address names (R141 steps 6 and 7): go on with its key, trap, or wait. -/
def State.reachLoc (s : State) (w : Who) (need : Need) (r : Reach) (va tval : Word) (n : Nat) (l : Loc) (k : Nat → State → Effect) : Effect :=
  match refuse r w.core w.isHandler l with
  | some c => .done (s.trapSync w c tval)
  | none =>
    match l with
    | .scratch o off =>
      if s.isHeld w.core o ∨ (o ≠ w.core ∧ s.behindHeld w o) then .wait (fun s0 => (s0.keepFor w need va).holdAt w o)
      else if need.write && s.isUser w && inShadow off n then .done (s.trapSync w cPrivilege tval)
      else k l.key (s.unhold w)
    | _ => k l.key s

/-- Translate a direct access and check its reach (R141 steps 2 to 7): go on with its key, trap, or wait. -/
def State.reachVa (s : State) (w : Who) (need : Need) (r : Reach) (va : Word) (n : Nat) (k : Nat → State → Effect)
    (progress : Option Nat := none) : Effect :=
  let tval := tvalAt progress va
  s.locateVa w need va tval (fun l s => s.reachLoc w need r va tval n l k)

/-- Poison met at a load, an atomic or a full/empty operation: precise UNCORRECTABLE (R164). -/
def State.checkPoison (s : State) (w : Who) (va : Word) (key n : Nat) (k : State → Effect)
    (progress : Option Nat := none) : Effect :=
  match s.poisonAt key n with
  | (s, some j) => .done (s.trapSync w cUncorrectable (tvalAt progress (va + BitVec.ofNat 64 j)))
  | (s, none) => k s

/-- A payload or descriptor word, which must lie in the own scratchpad: an address anywhere else in the aperture, or of no storage,
is outside it (R265, R276); go on with its value, or none where it is poisoned. -/
def State.ownWord (s : State) (w : Who) (va tval : Word) (k : Option Word → State → Effect) : Effect :=
  let outside := fun (s : State) => Effect.done (s.trapSync w cIllegalOperand tval)
  if va.toNat / 2 ^ 32 = 0x1FFFFFF ∧ s.translate (.ctx w) w.core (s.asid w.core) (s.pl w) {} va.toNat = .fault cTranslation then outside s
  else s.locateVa w {} va va (fun l s =>
    if isSp l.key ∧ keyCore l.key = w.core then
      match s.poisonAt l.key 8 with
      | (s, some _) => k none s
      | (s, none) => k (some (s.word l.key)) s
    else outside s)

/-- A refresh that has fallen due cuts off a direct access of several beats behind some of them: it goes on, with its row activated
again, ahead of everything else (R174). -/
def State.cutDirect (s : State) (client : Client) (core off len : Nat) (src : Source) : State :=
  let s := ((s.atPlace client core off len).getD s).touchRow core off src
  let s := if s.bankBusy core off len then s else s.beginRefresh core (bankOf off)
  s.stall core off src.charged client (first := true) (len := len)

/-- Take a direct access to its bank: wait there for its turn, and open its row (R143, R166, R168). -/
def State.atBank (s : State) (w : Who) (need : Need) (va : Word) (key n : Nat) (k : State → Effect) : Effect :=
  if isVault key then
    let core := keyCore key
    let off := keyOff key
    let src := directSource w 2
    match s.atPlace (.ctx w) core off n with
    | none => .wait (fun s0 => (s0.keepFor w need va).waitBank (.ctx w) core off src.charged n)
    | some t =>
      if 64 < n ∧ s.bankDue core (bankOf off) ≤ s.dram ∧ Config.bit s.tick 243 then
        .wait (fun s0 => (s0.keepFor w need va).cutDirect (.ctx w) core off n src)
      else k (t.touchRow core off src)
  else s.afterEarlier w key n k (fun s0 => s0.keepFor w need va)

/-- A direct read of `n` bytes (R141): alignment, translation, reach, poison; then go on with the bytes. -/
def State.loadDirect (s : State) (w : Who) (va : Word) (n : Nat) (k : Nat → State → Effect)
    (progress : Option Nat := none) : Effect :=
  if va.toNat % n ≠ 0 then .done (s.trapSync w cMisaligned (tvalAt progress va))
  else
    s.reachVa w {} .direct va n (fun key s =>
      s.atBank w {} va key n (fun s => s.checkPoison w va key n (fun s => k (leNat (s.fetchBytes key n)) s) progress)) progress

/-- A direct write of bytes (R141, R457): checked at issue, then performed some time after (R281). -/
def State.storeDirect (s : State) (w : Who) (va : Word) (bytes : List Byte) (k : State → Effect)
    (progress : Option Nat := none) : Effect :=
  let n := bytes.length
  if va.toNat % n ≠ 0 then .done (s.trapSync w cMisaligned (tvalAt progress va))
  else
    s.reachVa w { write := true } .direct va n (fun key s =>
      k (s.sendReq { kind := .store, who := w, gen := (s.ctx w).hold.gen, va, key, bytes })) progress

/-- An atomic at its owner (R147): `f` gives the new value, or none where nothing is written; go on with the old one. -/
def State.atomicDirect (s : State) (w : Who) (va : Word) (n : Nat) (f : Nat → Option Nat) (k : Nat → State → Effect) :
    Effect :=
  if va.toNat % n ≠ 0 then .done (s.trapSync w cMisaligned va)
  else
    s.reachVa w { write := true } .direct va n (fun key s =>
      s.atBank w { write := true } va key n (fun s => s.checkPoison w va key n (fun s =>
        let old := leNat (s.fetchBytes key n)
        match f old with
        | none => k old s
        | some x =>
          match s.store key (natLE n x) with
          | some t => k old (t.writeBeat key n)
          | none => .done (s.trapSync w cUncorrectable va))))

end Sys2Proof.Machine
end

