-- ==== Sys2Proof/Machine/Release.lean ====
section
/-! DEFINITION. What releases and fences wait for (R284, R289), messages on their way (R22, R271), replies (R269), the
shadow stack (R58, R504), and starting and ending tasks (R28 to R31). -/

namespace Sys2Proof.Machine

/-- Whether a mailbox of the core is PRESENT. -/
def Mail.anyPresent (m : Mail) : Bool := m.boxes.any (fun p => match p.2.state with
  | .absent => false
  | .pending => false
  | _ => true)

/-- Whether an asynchronous trap is pending for a context (R317). -/
def Hold.anyPending (h : Hold) : Bool :=
  !h.divergence.isEmpty || h.pending.preempt.isSome || h.pending.command.isSome || h.pending.matrix.isSome
    || h.pending.engine.isSome || h.pending.late.isSome || h.pending.dram.isSome

/-! ## Fences -/

/-- Whether a fence of a scope covers a buffered direct write of a context (R289). -/
def scopeDirect (sc : Scope) (own : Nat) (r : Req) : Bool :=
  match sc with
  | .ctx => decide (keyCore r.key = own)
  | .core => decide (keyCore r.key = own)
  | .cluster => true
  | .device => true
  | .domain => true

/-- Whether a fence of a scope covers a remote operation (R289); one whose target is not translated yet may lie anywhere. -/
def State.scopeRemote (s : State) (sc : Scope) (own : Nat) (o : RemoteOp) : Bool :=
  let open_ := decide (o.dev = 64) && !o.send
  let here := decide (o.dev = s.mod.devId) && !o.send
  match sc with
  | .ctx => false
  | .core => open_ || (here && decide (s.physOf o.column = some own))
  | .cluster => open_ || (here && decide (o.column / 24 = clusterOf own))
  | .device => open_ || here
  | .domain => true

/-- The release part of a fence: the direct writes it covers are performed, and it waits for the remote operations. -/
def State.release (s : State) (w : Who) (sc : Scope) (k : State → Effect) : Effect :=
  let cover := scopeDirect sc w.core
  let t := s.flush w cover
  if !t.flushed w cover || (t.ctx w).remote.any (t.scopeRemote sc w.core) then .wait (fun s0 => s0.flush w cover) else k t

/-- The stealing domain's fence scope (R38). -/
def domainScope (d : Nat) : Scope := if d = 0 then .core else if d = 1 then .cluster else .device

def State.taskScope (s : State) (core : Nat) : Scope :=
  match (s.core core).run with
  | some r => domainScope r.domain
  | none => .core

/-- The release of an object: the context's earlier writes to its regions (R284). -/
def State.releaseObject (s : State) (w : Who) (regions : List (Nat × Nat)) (k : State → Effect) : Effect :=
  let cover := fun (r : Req) => meets regions r.va.toNat r.size
  let t := s.flush w cover
  if !t.flushed w cover || (t.ctx w).remote.any (RemoteOp.covered regions) then .wait (fun s0 => s0.flush w cover) else k t

/-! ## Messages -/

/-- The lane of an address (R22). -/
def laneOf (a : Nat) : Nat :=
  (upTo 6).foldl (fun l j => l ^^^ (a / 2 ^ (6 + 2 * j) % 4)) 0

/-- The identity of a context as the headers of R266 and R272 give it. -/
def State.callerId (s : State) (w : Who) : Word :=
  BitVec.ofNat 64 (s.mod.devId * 2 ^ 58 + ((s.logicalOf w.core).getD 0) * 2 ^ 47 + w.slot * 2 ^ 43)

/-- A remote operation is over: `ORC` falls (R264). -/
def State.endOp (s : State) (w : Who) (op : Nat) : State :=
  s.modCtx w (fun c => { c with remote := c.remote.filter (fun o => decide (o.id ≠ op)) })

/-- A completion word is written with `stf` semantics (R86, R87, R209). -/
def State.complete (s : State) (core : Nat) (cw : Option Nat) (seq : BitVec 32) (status offset : Nat) : State :=
  match cw with
  | none => s
  | some n => s.storeFull (spKey core (8 * n)) (BitVec.ofNat 64 (status + offset % 2 ^ 32 * 2 ^ 16 + seq.toNat % 2 ^ 16 * 2 ^ 48))

/-- The reply of a call leaves for its caller (R269). -/
def State.sendReply (s : State) (w : Who) (r : Reply) (values : List (Presence × Word)) : State :=
  if r.nr then s
  else s.post { src := r.who, gen := r.gen, job := r.job, dst := r.who.core, lane := 0, va := r.va,
                body := .mail r.mail values true }

/-- The handler-end notice of a `.nr` call (R264). -/
def State.sendEnded (s : State) (r : Reply) : State :=
  if r.nr then s.post { src := r.who, gen := r.gen, job := r.job, dst := r.who.core, lane := 0, va := r.va, op := some r.op, body := .ended }
  else s

def replyValues (s : State) (w : Who) : List (Presence × Word) := [1, 2, 3, 4].map (fun n => (Presence.plain, s.g w n))

/-- The ring entry of a call is freed (R269). -/
def State.freeEntry (s : State) (core : Nat) (r : Reply) : State :=
  match r.entry with
  | some e => s.freeRing core e
  | none => s

/-! ## The shadow stack (R58, R504) -/

/-- The own-scratchpad range of the aperture (R139). -/
def ownAperture : Nat := 0x1FFFFFF01000000

def shadowOff (a : Word) : Option Nat :=
  if ownAperture ≤ a.toNat ∧ a.toNat < ownAperture + 0x80000 then some (a.toNat - ownAperture) else none

/-- Push a word, or trap on overflow (CONTROL_INTEGRITY) or outside the range (TRANSLATION). -/
def State.pushShadow (s : State) (w : Who) (x : Word) (k : State → Effect) : Effect :=
  let t := (s.ctx w).trap
  if t.ssp = t.sslim then .done (s.trapSync w cControlIntegrity (0x4000000000000000 ||| t.ssp))
  else
    match shadowOff t.ssp with
    | none => .done (s.trapSync w cTranslation t.ssp)
    | some off =>
      let s := s.sendReq { kind := .store, who := w, gen := (s.ctx w).hold.gen, va := t.ssp, key := spKey w.core off,
                           bytes := natLE 8 x.toNat }
      k (s.modTrap w (fun t => { t with ssp := t.ssp + 8 }))

/-- Read a word of a shadow stack. -/
def State.shadowWord (s : State) (w : Who) (a : Word) (key : Nat) (k : Word → State → Effect) : Effect :=
  s.afterEarlier w key 8 (fun s => match s.poisonAt key 8 with
    | (s, some _) => .done (s.trapSync w cUncorrectable a)
    | (s, none) => k (s.word key) s)

/-- The word at the top of the shadow stack, which is not empty. -/
def State.topShadow (s : State) (w : Who) (k : Word → State → Effect) : Effect :=
  let a := (s.ctx w).trap.ssp - 8
  match shadowOff a with
  | none => .done (s.trapSync w cTranslation a)
  | some off => s.shadowWord w a (spKey w.core off) k

def State.shadowEmpty (s : State) (w : Who) : Bool :=
  let t := (s.ctx w).trap
  decide (t.ssp = t.sslim - 0x200)

/-! ## Tasks (R28 to R31, R36) -/

/-- The registers a task or part starts with: `g1` up as listed, `g29` as given, everything else as reset leaves it. -/
def startRegs (args : List Word) (join stack : Word) : RegFile :=
  let g := (args.zip [1, 2, 3, 4]).foldl (fun m p => Store.set m p.2 p.1) []
  let g := if join = 0 then g else Store.set g 5 join
  { g := if stack = 0 then g else Store.set g 29 stack }

/-- A task starts on a context (R29): registers, an empty shadow stack, its privilege, inactive loops. Trap registers,
SCRATCH, VREF_NEXT's selection, flags and outstanding remote operations are the context's and stay (DESIGN CHOICE,
notes/assumptions/34.md). -/
def Ctx.start (c : Ctx) (slot : Nat) (pc : Word) (regs : RegFile) (pl : BitVec 2) (reply : Option Reply) : Ctx :=
  { c with
    live := true
    pc
    status := { c.status with pl, ppl := 0, intrap := false }
    regs
    lc0 := {}
    lc1 := {}
    trap := { c.trap with ssp := shadowBase slot, sslim := shadowBase slot + 0x200 }
    reply
    hold := { gen := c.hold.gen, opNext := c.hold.opNext } }

def State.startTask (s : State) (w : Who) (t : TaskRecord) : State :=
  s.modCtx w (fun c => c.start w.slot t.pc
    (startRegs t.args t.join (if t.stackless then 0 else stackTop w.slot)) t.pl none)

/-- The lowest-numbered FREE helper of a core (R30). -/
def State.freeHelper (s : State) (core : Nat) : Option Nat :=
  (upTo 11).find? (fun k => decide (k ≠ 0) && !(s.ctx ⟨core, k⟩).live)

/-- The inline frame on top of the shadow stack, if one stands there (R36, R58). -/
def State.inlineFrame (s : State) (w : Who) (k : Option Word → State → Effect) : Effect :=
  if s.shadowEmpty w then k none s
  else s.topShadow w (fun top s => k (if top.getLsbD 0 then some top else none) s)

/-- An inline frame is popped and the context goes on behind its `fork` (R36, R58). -/
def State.popFrame (s : State) (w : Who) (top : Word) : State :=
  (s.modTrap w (fun t => { t with ssp := t.ssp - 8 })).setPc w (top &&& ~~~1)

/-- The end of an arm (R31, R36, R58): an inline frame is popped, and without one the task ends. -/
def State.endTask (s : State) (w : Who) (frame : Option Word) : State :=
  match frame with
  | some top => s.popFrame w top
  | none => s.freeContext w

/-- The end of a handler, or of the arm of its shipped task at an inline frame: the reply is sent if none was, and the ring
entry is freed. A `.nr` call's end is reported to its caller with the task's (R269). -/
def State.endReply (s : State) (w : Who) (r : Reply) (frame : Option Word) : State :=
  let s := (if r.sent then s else s.sendReply w r (replyValues s w)).freeEntry w.core r
  match frame with
  | some top => (s.modCtx w (fun c => { c with reply := some { r with sent := true, entry := none } })).popFrame w top
  | none => (s.sendEnded r).freeContext w

/-- `hret` (R269, R410): the handler's writes are performed. Then the handler ends, or the arm of its shipped task as in R31. -/
def State.hretEffect (s : State) (w : Who) : Effect :=
  match (s.ctx w).reply with
  | none => .done (s.trapSync w cIllegalOperand 0)
  | some r =>
    let body := fun (frame : Option Word) (s : State) =>
      s.release w .domain (fun s => .done (if s.hasFaulted w then s else s.endReply w r frame))
    if w.isHandler then body none s else s.inlineFrame w body

end Sys2Proof.Machine
end

