-- ==== Sys2Proof/Machine/Mail.lean ====
section
/-! DEFINITION. Mailboxes and the payload ring: filling and emptying a mailbox, and serving the contexts that wait at one
(R272 to R274, R280, R431). -/

namespace Sys2Proof.Machine

def State.mail (s : State) (core : Nat) : Mail := (s.core core).part.mail
def State.modMail (s : State) (core : Nat) (f : Mail → Mail) : State :=
  s.modPart core (fun p => { p with mail := f p.mail })

def Mail.box (m : Mail) (n : Nat) : Mailbox := m.boxes.get {} n
def Mail.setBox (m : Mail) (n : Nat) (b : Mailbox) : Mail := { m with boxes := m.boxes.set n b }

/-- The places of the overflow queue (R274). -/
def overflowSize : Nat := 16

/-- A mailbox becomes ABSENT, and the oldest overflow entry for it moves in (R274). -/
def Mail.empty (m : Mail) (n : Nat) : Mail :=
  match m.overflow.find? (fun e => decide (e.1 = n)) with
  | some e => { (m.setBox n { state := .plain, value := e.2 }) with overflow := m.overflow.erase e }
  | none => m.setBox n {}

/-- A mailbox holds a value or a mark. -/
def Presence.present : Presence → Bool
  | .absent => false
  | .pending => false
  | _ => true

/-- Serve one waiter of a PRESENT mailbox (R273, R431). -/
def State.serveWaiter (s : State) (core n slot : Nat) : State :=
  let w : Who := ⟨core, slot⟩
  let b := (s.mail core).box n
  let deliver := fun (s : State) (i : Instr) (d : Nat) =>
    match b.state with
    | .poison => (s.modHold w (fun h => { h with hand := none })).trapSync w cUncorrectable b.value
    | .fault => (s.modHold w (fun h => { h with hand := none })).trapSync w cEngineFault b.value
    | _ =>
      let s := if b.reply then s.emptyLatch core else s
      (s.setG w d b.value).finish w i
  match (s.ctx w).hold.hand with
  | some (.mpeek d m) => deliver s (.mpeek d m) d
  | some (.mtake d m) => deliver (s.modMail core (fun x => x.empty n)) (.mtake d m) d
  | _ => s

/-- Serve the waiters of a mailbox from the oldest while it is PRESENT (R431). -/
def State.serveMail (s : State) (core n : Nat) : Nat → State
  | 0 => s
  | k + 1 =>
    let m := s.mail core
    if ((m.box n).state).present then
      match m.waiters.find? (fun x => decide (x.1 = n)) with
      | some x =>
        ((s.modMail core (fun m => { m with waiters := m.waiters.erase x })).serveWaiter core n x.2).serveMail core n k
      | none => s
    else s

/-- The contexts of a core that idle go on: a mailbox is PRESENT (R412). -/
def State.wakeIdle (s : State) (core : Nat) : State :=
  forEach (upTo 11) s (fun k s => if (s.ctx ⟨core, k⟩).hold.hand = some .idle then s.finish ⟨core, k⟩ .idle else s)

def State.serveBox (s : State) (core n : Nat) : State :=
  let s := if ((s.mail core).box n).state.present then s.wakeIdle core else s
  s.serveMail core n (s.mail core).waiters.length

/-- Fill a mailbox and serve its waiters. -/
def State.fillBox (s : State) (core n : Nat) (b : Mailbox) : State :=
  (s.modMail core (fun m => m.setBox n b)).serveBox core n

/-- Return a mailbox to ABSENT; an overflow entry that moves in is served. -/
def State.emptyBox (s : State) (core n : Nat) : State := (s.modMail core (fun m => m.empty n)).serveBox core n

/-! ## The payload ring (R272) -/

/-- The units of the ring of a core that its entries hold. -/
def Part.ringUsed (p : Part) : Nat := p.ring.foldl (fun n e => n + e.units) 0

/-- The length of the ring in 64-byte units. -/
def Part.ringUnits (p : Part) : Nat := p.regs.ringSize.toNat / 64

/-- The units that a payload takes with its header. -/
def unitsFor (len : Nat) : Nat := (16 + len + 63) / 64

/-- The scratchpad offset of a byte of the ring. -/
def Part.ringOff (p : Part) (start k : Nat) : Nat :=
  p.regs.ringBase.toNat + (64 * start + k) % p.regs.ringSize.toNat

/-- The own-aperture address of an entry's header (R139, R266). -/
def Part.ringVa (p : Part) (start : Nat) : Word := BitVec.ofNat 64 (ownAperture + p.ringOff start 0)

/-- The header of an entry (R272). -/
def ringHeader (block : Option Nat) (first len : Nat) (src : Word) : List Byte :=
  natLE 8 (block.getD 0 % 2 ^ 32 * 2 ^ 32 + (if block.isSome then 2 ^ 18 else 0) + first * 2 ^ 9 + len) ++ natLE 8 src.toNat

/-- Put an entry into the ring, which has space for it: header and payload, the bytes behind the payload stay as they
were. -/
def State.putRing (s : State) (core : Nat) (block : Option (Nat × Nat)) (payload : List Byte) (src : Word) : Nat × State :=
  let p := (s.core core).part
  let start := p.ringAt
  let units := unitsFor payload.length
  let size := p.regs.ringSize.toNat
  let first := min payload.length (size - (64 * start + 16))
  let bytes := ringHeader (block.map (·.2)) first payload.length src ++ payload
  let s := forEach (upTo bytes.length) s (fun k s =>
    { s with memory := (s.memory.setByte (spKey core (p.ringOff start k)) (bytes.getD k 0)).clear (spKey core (p.ringOff start k)) })
  (p.ringNext, s.modPart core (fun p => { p with
    ring := p.ring ++ [{ id := p.ringNext, start, units, block }], ringNext := p.ringNext + 1
    ringAt := (start + units) % p.ringUnits }))

/-! ## Gateway blocks (R280, R408) -/

/-- The number under which a context waits for a block of a link, behind the mailboxes' numbers. -/
def linkWait (link : Nat) : Nat := 32 + link

/-- The oldest untaken block of a link in the ring of a core. -/
def Part.nextBlock (p : Part) (link : Nat) : Option RingEntry :=
  p.ring.find? (fun e => !e.taken && !e.freed && decide (e.block.map (·.1) = some link))

/-- Serve the contexts that wait for blocks of a link, oldest first (R408). -/
def State.serveLink (s : State) (core link : Nat) : Nat → State
  | 0 => s
  | k + 1 =>
    let p := (s.core core).part
    match p.nextBlock link, p.mail.waiters.find? (fun x => decide (x.1 = linkWait link)) with
    | some e, some x =>
      let w : Who := ⟨core, x.2⟩
      let s := s.modPart core (fun p => { p with
        ring := p.ring.map (fun y => if y.id = e.id then { y with taken := true } else y)
        mail := { p.mail with waiters := p.mail.waiters.erase x } })
      let s := match (s.ctx w).hold.hand with
        | some (.gwTake d l) =>
          ((s.modHold w (fun h => { h with gates := h.gates.set link e.id })).setG w d (p.ringVa e.start)).finish w (.gwTake d l)
        | _ => s
      s.serveLink core link k
    | _, _ => s

end Sys2Proof.Machine
end

