-- ==== Sys2Proof/Machine/Operands.lean ====
section
/-! DEFINITION. Operand forms: the packed views of a vector register (R111, R474), the number formats of R109 to R115,
and the exact value an operand stands for. -/

namespace Sys2Proof.Machine

/-! ## Packed views -/

/-- Element `e` of width `w` of a register (R111). -/
def elemAt (w : Nat) (x : VWord) (e : Nat) : Nat := x.toNat / 2 ^ (w * e) % 2 ^ w

/-- The first `n` elements of width `w`. -/
def elems (w n : Nat) (x : VWord) : List Nat := (upTo n).map (elemAt w x)

/-- The number whose elements of width `w` are listed, lowest first. -/
def packNat (w : Nat) : List Nat → Nat
  | [] => 0
  | a :: l => a % 2 ^ w + 2 ^ w * packNat w l

/-- A register holding the listed elements, and zero above them (R474). -/
def packElems (w : Nat) (l : List Nat) : VWord := BitVec.ofNat 2048 (packNat w l)

/-- The elements of a whole view (R474). -/
def viewSize (w : Nat) : Nat := 2048 / w

/-- An element as a signed number. -/
def signOf (w x : Nat) : Int := if x < 2 ^ (w - 1) then (x : Int) else (x : Int) - (2 : Int) ^ w
/-- A number in `w` bits, wrapped. -/
def wrapTo (w : Nat) (x : Int) : Nat := (x % (2 : Int) ^ w).toNat

def lane (x : VWord) (k : Nat) : Nat := elemAt 32 x k

/-! ## Formats -/

/-- A floating-point format (R109): fraction bits, bias, width, and what its top exponent means. -/
inductive Fp where
  | f32 | f16 | bf16 | e4m3 | e5m2 | e2m1
deriving DecidableEq, Repr

namespace Fp

def frac : Fp → Nat
  | .f32 => 23 | .f16 => 10 | .bf16 => 7 | .e4m3 => 3 | .e5m2 => 2 | .e2m1 => 1
def expBits : Fp → Nat
  | .f32 => 8 | .f16 => 5 | .bf16 => 8 | .e4m3 => 4 | .e5m2 => 5 | .e2m1 => 2
def bias : Fp → Nat
  | .f32 => 127 | .f16 => 15 | .bf16 => 127 | .e4m3 => 7 | .e5m2 => 15 | .e2m1 => 1
def width (f : Fp) : Nat := 1 + f.expBits + f.frac
/-- The code of the largest finite magnitude. -/
def maxCode : Fp → Nat
  | .f32 => 0x7F7FFFFF | .f16 => 0x7BFF | .bf16 => 0x7F7F | .e4m3 => 0x7E | .e5m2 => 0x7B | .e2m1 => 0x7
/-- The code of +∞, for the formats that have one. -/
def infCode : Fp → Nat
  | .f32 => 0x7F800000 | .f16 => 0x7C00 | .bf16 => 0x7F80 | .e4m3 => 0x7F | .e5m2 => 0x7C | .e2m1 => 0x7
def hasInf : Fp → Bool
  | .e4m3 => false | .e2m1 => false | _ => true
/-- The canonical NaN (R118); E2M1 has none, and +0 stands in its place (R120). -/
def nanCode : Fp → Nat
  | .f32 => 0x7FC00000 | .f16 => 0x7E00 | .bf16 => 0x7FC0 | .e4m3 => 0x7F | .e5m2 => 0x7E | .e2m1 => 0

end Fp

/-- The exact value of an operand: a NaN, signalling or not; an infinity; or `± mant × 2^exp`, with the sign of a zero. -/
inductive Val where
  | nan (signalling : Bool)
  | inf (neg : Bool)
  | fin (neg : Bool) (mant : Nat) (exp : Int)
deriving DecidableEq, Repr

namespace Val

def isNan : Val → Bool
  | .nan _ => true
  | _ => false
def isSnan : Val → Bool
  | .nan true => true
  | _ => false
def neg : Val → Val
  | .nan b => .nan b
  | .inf b => .inf (!b)
  | .fin b m e => .fin (!b) m e
def isZero : Val → Bool
  | .fin _ 0 _ => true
  | _ => false

end Val

/-- The value of a code (R109, R110, R118). -/
def Fp.value (f : Fp) (code : Nat) : Val :=
  let sign := decide (code / 2 ^ (f.width - 1) % 2 = 1)
  let e := code / 2 ^ f.frac % 2 ^ f.expBits
  let m := code % 2 ^ f.frac
  let mag := code % 2 ^ (f.width - 1)
  let finite : Val :=
    if e = 0 then .fin sign m (1 - (f.bias : Int) - f.frac)
    else .fin sign (m + 2 ^ f.frac) ((e : Int) - f.bias - f.frac)
  match f with
  | .e4m3 => if mag = 0x7F then .nan false else finite
  | .e2m1 => finite
  | _ => if e = 2 ^ f.expBits - 1 then (if m = 0 then .inf sign else .nan (decide (m < 2 ^ (f.frac - 1)))) else finite

/-- A block scale: E4M5 (R113). -/
def scaleValue (code : Nat) : Val :=
  let e := code / 32 % 16
  let m := code % 32
  if e = 0 then .fin false m (-11)
  else if e = 15 ∧ m = 31 then .nan false
  else .fin false (m + 32) ((e : Int) - 12)

/-- Scale `k` of an array whose words are given (R114). -/
def scaleAt (words : List Nat) (k : Nat) : Nat := words.getD (k / 7) 0 / 2 ^ (9 * (k % 7)) % 512

/-- The words a scale array of `n` scales takes. -/
def scaleWords (n : Nat) : Nat := (n + 6) / 7

/-- An integer as an exact value; zero is +0. -/
def ofInt (x : Int) : Val := .fin (decide (x < 0)) x.natAbs 0

end Sys2Proof.Machine

namespace Sys2Proof
open Machine

/-- The FP format of an element type, if it is one (R92). -/
def ElemType.fp : ElemType → Option Fp
  | .f32 => some .f32
  | .f16 => some .f16
  | .bf16 => some .bf16
  | .e4m3 => some .e4m3
  | .e5m2 => some .e5m2
  | .e2m1 => some .e2m1
  | _ => none

/-- The exact value of an element. -/
def ElemType.val (t : ElemType) (code : Nat) : Val :=
  match t.fp with
  | some f => f.value code
  | none => ofInt (if t.isSigned then signOf t.bits code else (code : Int))

/-- The least and greatest value of an integer type (R111). -/
def ElemType.range (t : ElemType) : Int × Int :=
  if t.isSigned then (-((2 : Int) ^ (t.bits - 1)), (2 : Int) ^ (t.bits - 1) - 1) else (0, (2 : Int) ^ t.bits - 1)

end Sys2Proof
end

