-- ==== Sys2Proof/Machine/Flags.lean ====
section
/-! DEFINITION. Exact arithmetic, rounding, and the sticky flags (R116 to R121, R123). -/

namespace Sys2Proof.Machine

/-- STATUS.FFLAGS: NV, DZ, OF, UF, NX from bit 4 down (R64). -/
abbrev FpFlags := BitVec 5
def fNV : FpFlags := 0x10
def fOF : FpFlags := 0x04
def fUF : FpFlags := 0x02
def fNX : FpFlags := 0x01
def nvIf (b : Bool) : FpFlags := if b then fNV else 0

/-- A code and the flags of its computation. -/
abbrev Rounded := Nat × FpFlags

/-! ## Exact values -/

/-- Two finite magnitudes over one power of two. -/
def align (m1 : Nat) (e1 : Int) (m2 : Nat) (e2 : Int) : Nat × Nat × Int :=
  if e1 ≤ e2 then (m1, m2 * 2 ^ (e2 - e1).toNat, e1) else (m1 * 2 ^ (e1 - e2).toNat, m2, e2)

/-- The exact sum of two values, and whether it is invalid. An exact zero is −0 only from two negative zeros, or under
RDN from operands of opposite sign (R116). -/
def addExact (rm : Rounding) (a b : Val) : Val × Bool :=
  match a, b with
  | .nan x, .nan y => (.nan false, x || y)
  | .nan x, _ => (.nan false, x)
  | _, .nan y => (.nan false, y)
  | .inf s, .inf t => if s = t then (.inf s, false) else (.nan false, true)
  | .inf s, _ => (.inf s, false)
  | _, .inf t => (.inf t, false)
  | .fin s m e, .fin t n f =>
    let (p, q, x) := align m e n f
    let sum : Int := (if s then -(p : Int) else p) + (if t then -(q : Int) else q)
    if sum = 0 then
      (.fin (if m = 0 ∧ n = 0 ∧ s = t then s else decide (rm = .rdn)) 0 x, false)
    else (.fin (decide (sum < 0)) sum.natAbs x, false)

/-- The exact product of two values, and whether it is invalid. -/
def mulExact (a b : Val) : Val × Bool :=
  match a, b with
  | .nan x, .nan y => (.nan false, x || y)
  | .nan x, _ => (.nan false, x)
  | _, .nan y => (.nan false, y)
  | .inf s, .inf t => (.inf (s != t), false)
  | .inf s, .fin t n _ => if n = 0 then (.nan false, true) else (.inf (s != t), false)
  | .fin s m _, .inf t => if m = 0 then (.nan false, true) else (.inf (s != t), false)
  | .fin s m e, .fin t n f => (.fin (s != t) (m * n) (e + f), false)

/-- The exact sum of a list of values (R124, R131): a NaN from any NaN or from opposite infinities. An exact zero keeps a
sign that every term has, and otherwise follows R116. -/
def sumExact (rm : Rounding) : List Val → Val × Bool
  | [] => (.fin false 0 0, false)
  | [a] => (if a.isNan then .nan false else a, a.isSnan)
  | a :: b :: l =>
    let terms := a :: b :: l
    let snan := terms.any Val.isSnan
    let hasInf := fun s => terms.any (fun t => decide (t = .inf s))
    if hasInf true && hasInf false then (.nan false, true)
    else if terms.any Val.isNan then (.nan false, snan)
    else if hasInf true then (.inf true, false)
    else if hasInf false then (.inf false, false)
    else
      let lo := terms.foldl (fun x t => match t with
        | .fin _ (_ + 1) e => (if e < x then e else x)
        | _ => x) 1000
      let total : Int := terms.foldl (fun x t => match t with
        | .fin s m e => let v : Int := ((m * 2 ^ (e - lo).toNat : Nat) : Int); if s then x - v else x + v
        | _ => x) 0
      if total = 0 then
        let allNeg := terms.all (fun t => decide (t.isZero) && (match t with
          | .fin s _ _ => s
          | _ => false))
        let allPos := terms.all (fun t => decide (t.isZero) && (match t with
          | .fin s _ _ => !s
          | _ => false))
        (.fin (allNeg || (!allPos && decide (rm = .rdn))) 0 0, false)
      else (.fin (decide (total < 0)) total.natAbs lo, false)

/-! ## Rounding -/

/-- The exponent of the leading bit of `num / den`, both not zero. -/
def leadExp (num den : Nat) : Int :=
  let e := (Nat.log2 num : Int) - Nat.log2 den
  if 0 ≤ e then (if num < den * 2 ^ e.toNat then e - 1 else e)
  else (if num * 2 ^ (-e).toNat < den then e - 1 else e)

/-- Whether a magnitude with a remainder rounds away from zero (R116). -/
def roundsUp (rm : Rounding) (neg : Bool) (q r den : Nat) : Bool :=
  match rm with
  | .rne => decide (den < 2 * r) || (decide (2 * r = den) && decide (q % 2 = 1))
  | .rtz => false
  | .rdn => neg && decide (r ≠ 0)
  | .rup => !neg && decide (r ≠ 0)

/-- `num / den` in units of `2^ulp`, rounded, and whether it was inexact. -/
def roundUnits (rm : Rounding) (neg : Bool) (num den : Nat) (ulp : Int) : Nat × Bool :=
  let n := if 0 ≤ ulp then num else num * 2 ^ (-ulp).toNat
  let d := if 0 ≤ ulp then den * 2 ^ ulp.toNat else den
  let q := n / d
  let r := n % d
  (if roundsUp rm neg q r d then q + 1 else q, decide (r ≠ 0))

/-- What a finite value beyond the largest becomes (R116, R120). -/
inductive Overflow where
  | ieee | saturate | nan
deriving DecidableEq, Repr

/-- The code of an overflowing magnitude under R116. -/
def overflowCode (f : Fp) (rm : Rounding) (neg : Bool) : Nat :=
  match rm with
  | .rne => f.infCode
  | .rtz => f.maxCode
  | .rdn => if neg then f.infCode else f.maxCode
  | .rup => if neg then f.maxCode else f.infCode

/-- Round `± num / den` to a format (R116, R117, R120). -/
def roundRatio (f : Fp) (rm : Rounding) (ov : Overflow) (neg : Bool) (num den : Nat) : Rounded :=
  let sign := if neg then 2 ^ (f.width - 1) else 0
  if num = 0 then (sign, 0)
  else
    let emin : Int := 1 - (f.bias : Int)
    let e := leadExp num den
    let ulp := (if e < emin then emin else e) - f.frac
    let (m, inexact) := roundUnits rm neg num den ulp
    -- the magnitude's code: fields carry into each other
    let code := if m < 2 ^ f.frac then m else (ulp + f.frac + f.bias - 1).toNat * 2 ^ f.frac + m
    if f.maxCode < code then
      match ov with
      | .ieee => (sign + overflowCode f rm neg, fOF ||| fNX)
      | .saturate => (sign + f.maxCode, fOF ||| fNX)
      | .nan => (f.nanCode, fOF ||| fNX)
    else
      -- tininess is detected after rounding with an unbounded exponent (R117)
      let (t, _) := roundUnits rm neg num den (e - f.frac)
      let tiny := decide (e < emin) && !(decide (e = emin - 1) && decide (t = 2 ^ (f.frac + 1)))
      (sign + code, (if inexact then fNX else 0) ||| (if inexact && tiny then fUF else 0))

/-- Round a value to a format by arithmetic (R116, R118). -/
def roundVal (f : Fp) (rm : Rounding) (v : Val) (invalid : Bool) : Rounded :=
  match v with
  | .nan _ => (f.nanCode, nvIf invalid)
  | .inf s => ((if s then 2 ^ (f.width - 1) else 0) + f.infCode, nvIf invalid)
  | .fin s m e =>
    let r := roundRatio f rm .ieee s (if 0 ≤ e then m * 2 ^ e.toNat else m) (if 0 ≤ e then 1 else 2 ^ (-e).toNat)
    (r.1, r.2 ||| nvIf invalid)

/-- How a conversion to a format treats overflow (R120). -/
def Fp.overflow (f : Fp) (nsat : Bool) : Overflow :=
  match f with
  | .e4m3 => if nsat then .nan else .saturate
  | .e5m2 => if nsat then .ieee else .saturate
  | .e2m1 => .saturate
  | _ => .ieee

/-- Convert a value, as an exact ratio when it is finite, to a format (R120). -/
def convertFp (f : Fp) (rm : Rounding) (nsat : Bool) (v : Val) (den : Nat) (denExp : Int) : Rounded :=
  let sign := fun (s : Bool) => if s then 2 ^ (f.width - 1) else 0
  match v with
  | .nan b => (f.nanCode, nvIf (b || decide (f = .e2m1)))
  | .inf s =>
    if f.overflow nsat = .ieee then (sign s + f.infCode, 0)
    else if f.overflow nsat = .nan then (f.nanCode, fNV)
    else (sign s + f.maxCode, fNV)
  | .fin s m e =>
    let x := e - denExp
    roundRatio f rm (f.overflow nsat) s (if 0 ≤ x then m * 2 ^ x.toNat else m) (if 0 ≤ x then den else den * 2 ^ (-x).toNat)

/-- Convert a value, as an exact ratio when it is finite, to an integer type (R121). -/
def convertInt (t : ElemType) (rm : Rounding) (v : Val) (den : Nat) (denExp : Int) : Rounded :=
  let (lo, hi) := t.range
  let put := fun (x : Int) => wrapTo t.bits x
  match v with
  | .nan _ => (0, fNV)
  | .inf s => (put (if s then lo else hi), fNV)
  | .fin s m e =>
    let x := e - denExp
    let num := if 0 ≤ x then m * 2 ^ x.toNat else m
    let d := if 0 ≤ x then den else den * 2 ^ (-x).toNat
    let (q, inexact) := roundUnits rm s num d 0
    let r : Int := if s then -(q : Int) else q
    if r < lo then (put lo, fNV)
    else if hi < r then (put hi, fNV)
    else (put r, if inexact then fNX else 0)

/-- Convert to an element type, an FP or an integer one. -/
def convertTo (t : ElemType) (rm : Rounding) (nsat : Bool) (v : Val) (den : Nat := 1) (denExp : Int := 0) : Rounded :=
  match t.fp with
  | some f => convertFp f rm nsat v den denExp
  | none => convertInt t rm v den denExp

/-! ## Operations on codes -/

def fpAdd (f : Fp) (rm : Rounding) (a b : Nat) : Rounded :=
  let r := addExact rm (f.value a) (f.value b)
  roundVal f rm r.1 r.2

def fpSub (f : Fp) (rm : Rounding) (a b : Nat) : Rounded :=
  let r := addExact rm (f.value a) (f.value b).neg
  roundVal f rm r.1 r.2

def fpMul (f : Fp) (rm : Rounding) (a b : Nat) : Rounded :=
  let r := mulExact (f.value a) (f.value b)
  roundVal f rm r.1 r.2

/-- Fused: one rounding; 0 × ∞ is invalid even beside a quiet NaN (R395, R487). -/
def fpFma (f : Fp) (rm : Rounding) (a b c : Nat) : Rounded :=
  let p := mulExact (f.value a) (f.value b)
  let r := addExact rm p.1 (f.value c)
  roundVal f rm r.1 (p.2 || r.2)

/-- Less than among numbers, with −0 below +0 (R119). -/
def valLess (a b : Val) : Bool :=
  match a, b with
  | .inf s, .inf t => s && !t
  | .inf s, .fin _ _ _ => s
  | .fin _ _ _, .inf t => !t
  | .fin s m e, .fin t n g =>
    let (p, q, _) := align m e n g
    if s != t then s else if s then decide (q < p) else decide (p < q)
  | _, _ => false

/-- Equal as numbers, with −0 equal to +0. -/
def valEq (a b : Val) : Bool :=
  match a, b with
  | .inf s, .inf t => decide (s = t)
  | .fin s m e, .fin t n g =>
    let (p, q, _) := align m e n g
    decide (p = q) && (decide (s = t) || decide (p = 0))
  | _, _ => false

/-- The smaller or the larger operand (R119). -/
def fpSelect (f : Fp) (wantMax : Bool) (a b : Nat) : Rounded :=
  let x := f.value a
  let y := f.value b
  let nv := nvIf (x.isSnan || y.isSnan)
  if x.isNan && y.isNan then (f.nanCode, nv)
  else if x.isNan then (b, nv)
  else if y.isNan then (a, nv)
  else if wantMax then (if valLess x y then b else a, nv)
  else (if valLess y x then b else a, nv)

/-- An FP condition and its flags (R91, R119). -/
def fpCond (c : FpCond) (x y : Val) : Bool × FpFlags :=
  let un := x.isNan || y.isNan
  let snan := x.isSnan || y.isSnan
  -- below: less than as numbers, zeros of either sign being equal
  let below := fun (a b : Val) => valLess a b && !valEq a b
  match c with
  | .eq => (!un && valEq x y, nvIf snan)
  | .ne => (un || !valEq x y, nvIf snan)
  | .lt => (!un && below x y, nvIf un)
  | .ge => (!un && !below x y, nvIf un)
  | .gt => (!un && below y x, nvIf un)
  | .le => (!un && !below y x, nvIf un)
  | .un => (un, nvIf snan)
  | .or => (!un, nvIf snan)

/-- A list of rounded elements: the codes, and their flags ORed (R117). -/
def gather (l : List Rounded) : List Nat × FpFlags := (l.map (·.1), l.foldl (fun f r => f ||| r.2) 0)

end Sys2Proof.Machine
end

