-- ==== Sys2Proof/Machine/Shadow.lean ====
section
/-! DEFINITION. FP results of the scalar unit and the vector lanes, their shadow checks, suspect scores and quarantine
(R321 to R327). -/

namespace Sys2Proof.Machine

/-! ## Suspect scores (R75, R325, R326) -/

def State.score (s : State) (core u : Nat) : Nat := (s.core core).marks.suspects.get 0 u
def State.quarantined (s : State) (core u : Nat) : Bool := decide (128 ≤ s.score core u)

/-- The matrix columns that are quarantined. -/
def State.quarColumns (s : State) (core : Nat) : List Nat := (upTo 32).filter (fun j => s.quarantined core (65 + j))

/-- The partner of the scalar unit or of a lane, among the units that are not quarantined (R326). -/
def State.partner (s : State) (core u : Nat) : Option Nat :=
  if u = 0 then ((upTo 64).find? (fun k => !s.quarantined core (k + 1))).map (· + 1)
  else
    let k := u - 1
    ((upTo 64).find? (fun j =>
      let l := ((k ^^^ 32) + j) % 64
      decide (l ≠ k) && !s.quarantined core (l + 1))).map (fun j => ((k ^^^ 32) + j) % 64 + 1)

/-- Whether quarantine has left a unit without a substitute: a scalar unit or lane without a partner, or a column whose
partner column is quarantined too (R326). -/
def State.noSubstitute (s : State) (core u : Nat) : Bool :=
  if u ≤ 64 then (s.partner core u).isNone
  else s.quarantined core (65 + ((u - 65) ^^^ 16))

/-- Set a score: QUAR is latched when a unit becomes quarantined, and the core reports itself degraded when it has no
substitute (R75, R320, R326). -/
def State.setScore (s : State) (core u x : Nat) : State :=
  let was := s.quarantined core u
  let s := s.modMarks core (fun m => { m with suspects := m.suspects.set u x })
  if !was && decide (128 ≤ x) then
    let deg := s.noSubstitute core u
    s.modMarks core (fun m => { m with
      events := m.events ||| 0x10#6 ||| (if deg then 0x08#6 else 0)
      degraded := m.degraded || deg })
  else s

def State.addScore (s : State) (core u : Nat) : State := s.setScore core u (min 255 (s.score core u + 16))

/-- The unit that computes a unit's results: itself, or its substitute (R326). -/
def State.worker (s : State) (core u : Nat) : Nat :=
  if s.quarantined core u then (s.partner core u).getD u else u

/-! ## Shadows (R321, R322) -/

/-- A result as R322 compares it: a NaN, a zero or subnormal, or sign, exponent field and top three fraction bits, an
infinity standing one exponent above the largest. -/
inductive ShadowClass where
  | nan
  | zero
  | number (neg : Bool) (exp top : Nat)
deriving DecidableEq, Repr

def Fp.shadowOf (f : Fp) (code : Nat) : ShadowClass :=
  match f.value code with
  | .nan _ => .nan
  | .inf s => .number s (2 ^ f.expBits - 1) 0
  | .fin s _ _ =>
    let e := code / 2 ^ f.frac % 2 ^ f.expBits
    if e = 0 then .zero else .number s e (code % 2 ^ f.frac * 8 / 2 ^ f.frac)

/-- Two natural numbers differ by more than one. -/
def apart (a b : Nat) : Bool := decide (a + 1 < b) || decide (b + 1 < a)

/-- R322. -/
def Fp.diverges (f : Fp) (main shadow : Nat) : Bool :=
  match f.shadowOf main, f.shadowOf shadow with
  | .nan, .nan => false
  | .zero, .zero => false
  | .number s e t, .number s' e' t' =>
    decide (s ≠ s') || apart e e' || (decide (e = e') && apart t t')
  | _, _ => true

/-- The elements of a lane diverge somewhere (R476: a packed element is checked by the lane that holds it). -/
def Fp.laneDiverges (f : Fp) (main shadow : Nat) : Bool :=
  (upTo (32 / f.width)).any (fun e => f.diverges (main / 2 ^ (f.width * e) % 2 ^ f.width) (shadow / 2 ^ (f.width * e) % 2 ^ f.width))

/-- The result of an FP form: its write and flags, and what its shadows check: the format, and the units with the lane
each one computes (unit 0 the scalar unit, unit k + 1 lane k). An integer result has no shadow. -/
structure FpOut where
  write : RegWrite
  flags : FpFlags
  fmt : Fp
  units : List (Nat × Nat)
  checked : Bool := true

/-- The 32 bits of a write that a unit computes. -/
def RegWrite.lane (x : RegWrite) (k : Nat) : Nat :=
  match x with
  | .g _ y => y.toNat % 2 ^ 32
  | .v _ y => Machine.lane y k
  | .p _ _ => 0

def RegWrite.setLane (x : RegWrite) (k b : Nat) : RegWrite :=
  match x with
  | .g n _ => .g n (BitVec.ofNat 64 (b % 2 ^ 32))
  | .v n y => .v n (BitVec.ofNat 2048 (y.toNat - Machine.lane y k * 2 ^ (32 * k) + b % 2 ^ 32 * 2 ^ (32 * k)))
  | .p n y => .p n y

/-- What an upset of a unit turns a result, or its shadow's view of it, into; the upset has struck and is gone. -/
def strike (us : List Upset) (unit : Nat) (shadow : Bool) (bits : Nat) : Nat × List Upset :=
  match us.find? (fun u => decide (u.unit = unit) && decide (u.shadow = shadow)) with
  | some u => (u.bits.toNat, us.filter (fun v => decide (v ≠ u)))
  | none => (bits, us)

/-- Check each unit of a result: the result with upsets in it, the units that diverged, and the upsets left. -/
def checkUnits (f : Fp) (write : RegWrite) : List (Nat × Nat) → List Upset → RegWrite × List Diverged × List Upset
  | [], us => (write, [], us)
  | (u, k) :: l, us =>
    let right := write.lane k
    let (main, us) := strike us u false right
    let (shadow, us) := strike us u true right
    let (w', ds, us) := checkUnits f (write.setLane k main) l us
    (w', if f.laneDiverges main shadow then { unit := u, lane := k, shadow := BitVec.ofNat 32 shadow } :: ds else ds, us)

/-- The distance of an FP result: 1 where a substitute computes part of it (R326). -/
def State.fpDistance (s : State) (core : Nat) (units : List (Nat × Nat)) (dist : Nat) : Nat :=
  if units.any (fun p => s.quarantined core p.1) then 1 else dist

/-- The units of a divergence record, each once: one may have computed more than one lane as a substitute (R326). -/
def DivRecord.unitList (d : DivRecord) : List Nat := d.units.foldl (fun l u => insertNat l u.unit) []

/-- An FP form ends (R321, R324, R326): its result lands at its distance, at once where a substitute computed it; where
a shadow disagrees, the result is held in the divergence record instead, which is found within that distance. -/
def State.finishFp (s : State) (w : Who) (i : Instr) (dist : Nat) (o : FpOut) (scales : List Nat) : State :=
  let m := (s.core w.core).marks
  let units := o.units.map (fun p => (s.worker w.core p.1, p.2))
  let dist := s.fpDistance w.core o.units dist
  if m.upsets.isEmpty || !o.checked then (s.result w dist o.write o.flags).advance w i
  else
    let (x, ds, us) := checkUnits o.fmt o.write units m.upsets
    let s := s.modMarks w.core (fun m => { m with upsets := us })
    if ds.isEmpty then (s.result w dist x o.flags).advance w i
    else
      (s.modHold w (fun h =>
        let h := h.overtake x.name dist
        { h with divergence := (h.divergence ++
          [({ instr := i, write := x, flags := o.flags, units := ds, age := 4 - dist, scales } : DivRecord)]).take 4 })).advance w i

end Sys2Proof.Machine
end

