-- ==== Sys2Proof/Machine/Engine.lean ====
section
/-! DEFINITION. What the engine commands share: issuing into a queue (R34, R86, R203), the access of an engine to storage,
completing, discarding and faulting (R50, R160, R209). -/

namespace Sys2Proof
open Machine

/-- The queue that a command enters, by its number in CFR.QUEUE (R68). A joint command is listed under the matrix queue. -/
def Instr.queueOf : Instr → Nat
  | .tld .. | .tst .. => 0
  | .cbcfg .. | .cbrel .. | .mdrain .. | .mdrainr .. | .mld .. | .mma .. | .mrecv .. | .msa .. | .mz .. | .mzPb .. => 1
  | .apClr .. | .apCmp .. | .apCnt .. | .apFirst .. | .apLd .. | .apMax .. | .apMcode .. | .apRd .. | .apSeq .. | .apSt ..
  | .apSweep .. | .apTg .. | .apWr .. | .apWrr .. => 2
  | .tqDot .. | .tqFnDir .. | .tqFnSeg .. | .tqLk .. | .tqPair .. => 3
  | .tcopy ch _ _ _ _ => 4 + ch
  | _ => 8

/-- Joint commands enter the tile-load and the matrix queue (R197). -/
def Instr.isJoint : Instr → Bool
  | .cbcfg .. | .cbrel .. => true
  | _ => false

end Sys2Proof

namespace Sys2Proof.Machine

/-- The depth of a queue (R34). -/
def queueDepth (q : Nat) : Nat := if q ≤ 1 ∨ q = 8 then 16 else 8

/-- The commands among the entries of a queue. -/
def Queue.cmds (x : Queue) : List Cmd := x.entries.filterMap (fun e => match e with
  | .cmd c => some c
  | .barrier _ _ => none)

def Queue.mapHead (x : Queue) (f : Cmd → Cmd) : Queue :=
  { x with entries := match x.entries with
      | .cmd c :: r => .cmd (f c) :: r
      | l => l }

/-- The operations of the RPC message unit, which keep their queue entry until they are accepted (R271). -/
def Body.ofUnit : Body → Bool
  | .put .. | .amo .. | .get .. | .call .. | .send .. => true
  | _ => false

/-- A queue is full (R34); a barrier takes a place of it too (R435). -/
def State.queueFull (s : State) (core q : Nat) : Bool :=
  let out := if q = 8 then (s.fabric.filter (fun m => decide (m.src.core = core) && m.body.ofUnit)).length else 0
  decide (queueDepth q ≤ (s.queue core q).entries.length + out)

/-- Whether a `cbcfg` of a stream is issued and not yet performed. -/
def State.configuring (s : State) (core c : Nat) : Bool := (s.queue core 1).cmds.any (fun x => match x.instr with
  | .cbcfg k _ _ _ _ => decide (k = c)
  | _ => false)

/-- A stream of the tile slots (R193). -/
def State.stream (s : State) (core c : Nat) : Stream := (s.core core).part.streams.get {} c

/-- A load's stream has a slot for it to reserve; one that has no ring, or not yet, is not waited for here (R193). -/
def State.hasSlot (s : State) (core c : Nat) : Bool :=
  let x := s.stream core c
  s.configuring core c || !x.ring || decide (x.resv < x.nslots)

/-- An instruction finds the space that it needs to issue, which it waits for without an interlock (R32): an engine command in its queue, in
both for a joint one (R34, R197), and a load in its stream too (R193); a `qfence` in each queue that it names (R435). -/
def State.hasRoom (s : State) (w : Who) (i : Instr) : Bool :=
  match i with
  | .qfence mask => (upTo 9).all (fun q => !(mask.testBit q && s.queueFull w.core q))
  | .tld _ c _ _ _ _ _ => !s.queueFull w.core 0 && s.hasSlot w.core c
  | _ => i.eng.isNone || !(s.queueFull w.core i.queueOf || (i.isJoint && s.queueFull w.core 0))

/-- A command as its context issues it, with the operands it reads (R203) and, for the matrix unit, the columns that are
quarantined now (R326). -/
def State.command (s : State) (w : Who) (i : Instr) (seq : BitVec 32) : Cmd :=
  { instr := i, slot := w.slot, gen := (s.ctx w).hold.gen, pc := (s.ctx w).pc, seq, pl := s.pl w
    ops := i.reads.filterMap (fun r => match r with
      | .g n => some (s.g w n)
      | _ => none)
    vops := i.reads.filterMap (fun r => match r with
      | .v n => some (s.v w n)
      | _ => none)
    quar := if i.queueOf = 1 then s.quarColumns w.core else [], no := s.tick }

def Cmd.op1 (c : Cmd) (k : Nat) : Word := c.ops.getD k 0
def Cmd.vop (c : Cmd) (k : Nat) : VWord := c.vops.getD k 0
def Cmd.cw (c : Cmd) : Option Nat := c.instr.cw

/-- A command enters its queue with the queue's next number (R209); a joint command enters both with one number in
each (R197). -/
def State.enqueue (s : State) (core q : Nat) (c : Cmd) : State :=
  if c.instr.isJoint then
    let n0 := (s.queue core 0).next
    let n1 := (s.queue core 1).next
    let s := s.modQueue core 0 (fun x => { x with entries := x.entries ++ [.cmd { c with seq := n0, joint := some n1 }], next := n0 + 1 })
    s.modQueue core 1 (fun x => { x with entries := x.entries ++ [.cmd { c with seq := n1, joint := some n0 }], next := n1 + 1 })
  else s.modQueue core q (fun x => { x with entries := x.entries ++ [.cmd c], next := x.next + 1 })

/-- The forms that read storage of the own core at issue or in their engine; `rpc.get` and `rpc.amo` may when they are sent (R283). -/
def readsOwn (i : Instr) : Bool :=
  match i with
  | .tld .. | .mld .. | .msa .. | .apLd .. | .apMcode .. | .apSweep .. | .tqDot .. | .tqFnDir .. | .tqFnSeg .. | .tqLk .. | .tqPair ..
  | .tcopy .. => true
  | .rpcCall _ _ _ _ _ len _ => decide (len ≠ 0)
  | _ => false

/-- Before a command that reads own storage, the context's earlier direct writes to it are performed (R283). -/
def State.whenReads (s : State) (w : Who) (i : Instr) (k : State → Effect) : Effect :=
  if readsOwn i then s.whenOwn w k else k s

/-- Issue an engine command: it cannot issue into a full queue (R32, R34); a pending guard on a command that writes a register of
its context is refused (R51); the context's direct writes to own storage that it reads go first (R283); the context goes on, or
interlocks until the command has written its register (R47). `prepare` is what the form does at issue, given the restart progress (R55).
The guard is looked at before the form's own checks (DESIGN CHOICE, notes/assumptions/132.md). -/
def issueEngine (i : Instr) (s : State) (prepare : Who → Option Nat → State → Cmd → (State → Cmd → Effect) → Effect := fun _ _ s c k => k s c) :
    Host.Outcome State Fault Refusal :=
  runFrom i s (fun w progress s =>
    let core := w.core
    let q := i.queueOf
    if !s.hasRoom w i then .full
    else
      let held := match i.guard with
        | some g => decide (s.q w g.slot = .pending)
        | none => false
      if i.ownsRegister && held then
        .done (s.trapSync w cIllegalOperand (BitVec.ofNat 64 (i.guard.elim 0 (·.slot))))
      else
        let c := s.command w i (s.queue core q).next
        s.whenReads w i (fun s => prepare w progress s c (fun s c =>
          let s := s.enqueue core q c
          .done (if i.ownsRegister then s.inHand w i else s.advance w i))))

/-! ## The access of an engine to storage -/

/-- The outcome of an engine's access to one span of storage. -/
inductive EngAccess where
  | ok (key : Nat) (s : State)
  | fault (cause : Nat)
  | wait (s : State)

/-- How an engine reaches storage: its core, what it is translated for, the access kind of R140, KIND of its activations (R181), and
for a command that a stall suspends its SUSP code and queue (R178). -/
structure Port where
  core : Nat
  client : Client
  reach : Reach
  kind : Nat
  susp : Nat := 0
  queue : Nat := 0

/-- Who an event of a command is charged to (R176). -/
def State.chargedTo (s : State) (core : Nat) (c : Cmd) : Who := s.reportTo ⟨core, c.slot⟩ c.gen

/-- The number of a command as completion words and records report it (R209). -/
def Cmd.num (c : Cmd) : Nat := c.seq.toNat % 2 ^ 16

/-- The source of an engine's access to the vault of core `o`, with its number where KIND is that of a tile load, a plane
command or a query (R71); another core's agent acts for its control context, and a handler's command counts as the handler's, a query too
(R181; DESIGN CHOICE, notes/assumptions/150.md). -/
def State.engSource (s : State) (p : Port) (c : Cmd) (o : Nat) : Source :=
  if o ≠ p.core then { kind := 2, ctx := 0, seq := 0, charged := ⟨o, 0⟩ }
  else if 11 ≤ c.slot then directSource ⟨p.core, c.slot⟩ 3
  else { kind := p.kind, ctx := c.slot, seq := if p.kind = 0 ∨ p.kind = 4 ∨ p.kind = 5 then c.num else 0,
         charged := s.chargedTo p.core c }

/-- What a command waits as at a bank (R168). -/
def Port.at_ (p : Port) (c : Cmd) : Client := .cmd p.core p.queue c.seq.toNat

/-- An engine's access waits at its bank; while its trap is enabled, a stall suspends a tile load or a sweep (R176, R178). One that
is cut off keeps the first place there (R174). -/
def State.engStall (s : State) (p : Port) (c : Cmd) (o off : Nat) (first : Bool := false) (len : Nat := 1) : State :=
  s.stall o off (s.engSource p c p.core).charged (p.at_ c) p.susp c.num first len

/-- Take a command to its bank: go on there when its turn has come, with its row open, or wait (R168). -/
def State.engBank (s : State) (p : Port) (c : Cmd) (o off : Nat) (len : Nat := 1) : Except State State :=
  match s.atPlace (p.at_ c) o off len with
  | some t => .ok (t.touchRow o off (s.engSource p c o))
  | none => .error ((s.serveBank o (bankOf off) (s.turnAt o (bankOf off) (p.at_ c))).engStall p c o off false len)

/-- Translate an engine's address (R160): its physical address in place of a key. -/
def State.engPa (s : State) (p : Port) (c : Cmd) (need : Need) (va : Nat) : EngAccess :=
  let asid := s.asid p.core
  match s.resolve p.client p.core asid c.pl need va with
  | .fault k => .fault k
  | .miss => .wait (s.askWalk p.client p.core asid need (decide (c.pl = 0)) va)
  | .ok pa => .ok pa ((s.doneWalk p.client p.core va).fillL1 p.core asid va)

/-- Translate a span of an engine's access of `len` bytes, check its reach, and take it to its bank (R140, R160, R168). -/
def State.engineAt (s : State) (p : Port) (c : Cmd) (need : Need) (va : Nat) (len : Nat := 1) : EngAccess :=
  match s.engPa p c need va with
  | .fault k => .fault k
  | .wait s => .wait s
  | .ok pa t =>
    let l := t.locate pa
    let keep := fun (t : State) => t.keepPa p.client p.core va pa
    match refuse p.reach p.core false l with
    | some k => .fault k
    | none =>
      match l with
      | .vault o off =>
        match t.engBank p c o off len with
        | .ok u => .ok l.key u
        | .error u => .wait (keep u)
      | .scratch o _ => if o ≠ p.core ∧ s.isHeld p.core o then .wait (keep t) else .ok l.key t
      | _ => .ok l.key t

/-- The pieces of a span of virtual addresses between 32-byte boundaries. -/
def spans (va n : Nat) : List (Nat × Nat) :=
  (upTo (n / 32 + 2)).filterMap (fun j =>
    let lo := max va ((va / 32 + j) * 32)
    let hi := min (va + n) ((va / 32 + j + 1) * 32)
    if lo < hi then some (lo, hi - lo) else none)

/-- The spans, or the pieces of a write, that a command has not done after so many bytes (R174). -/
def dropSpans {α : Type} (size : α → Nat) : Nat → List α → List α
  | _, [] => []
  | 0, l => l
  | n, x :: l => dropSpans size (n - size x) l

/-- What reading a list of spans comes to: the bytes; poison at an address behind so many bytes; a fault at an address
behind so many bytes; or a wait behind the bytes read so far. -/
inductive Reads where
  | ok (bytes : List Byte) (s : State)
  | poison (got : List Byte) (va : Nat) (s : State)
  | fault (cause va : Nat) (got : List Byte) (s : State)
  | wait (got : List Byte) (s : State)

/-- Read spans in order; the whole pieces before a poisoned one count as delivered (DESIGN CHOICE, notes/assumptions/131.md). -/
def State.readSpans (s : State) (p : Port) (c : Cmd) (acc : List Byte) (seen : List Nat := []) : List (Nat × Nat) → Reads
  | [] => .ok acc s
  | (va, n) :: rest =>
    match s.engineAt p c {} va with
    | .fault k => .fault k va acc s
    | .wait s => .wait acc s
    | .ok key s =>
      match s.poisonAt key n seen with
      | (s, some j) => .poison acc (va + j) s
      | (s, none) => s.readSpans p c (acc ++ s.fetchBytes key n) (key / 32 :: seen) rest

/-- A command reads the spans that it has not read yet. -/
def State.readOn (s : State) (p : Port) (c : Cmd) (l : List (Nat × Nat)) : Reads :=
  s.readSpans p c c.buf [] (dropSpans (·.2) c.buf.length l)

/-- What writing a list of spans comes to, with the bytes written before the failure or the wait. -/
inductive Writes where
  | ok (s : State)
  | poison (done : Nat) (s : State)
  | fault (cause va done : Nat) (s : State)
  | wait (done : Nat) (s : State)

def State.writeSpans (s : State) (p : Port) (c : Cmd) (done : Nat) (seen lost : List Nat := []) : List (Nat × List Byte) → Writes
  | [] => .ok s
  | (va, bytes) :: rest =>
    match s.engineAt p c { write := true } va with
    | .fault k => .fault k va done s
    | .wait s => .wait done s
    | .ok key s =>
      match s.store key bytes with
      | none => .poison done s
      | some s =>
        let (s, l) := s.takeBeat key bytes.length seen
        (s.spoil key bytes.length (l ++ lost)).writeSpans p c (done + bytes.length) (key / 32 :: seen) (l ++ lost) rest

/-- A command writes the pieces that it has not written yet. -/
def State.writeOn (s : State) (p : Port) (c : Cmd) (l : List (Nat × List Byte)) : Writes :=
  s.writeSpans p c c.sent [] [] (dropSpans (·.2.length) c.sent l)

/-- The pieces of a write between 32-byte boundaries. -/
def writePieces (va : Nat) (bytes : List Byte) : List (Nat × List Byte) :=
  (spans va bytes.length).map (fun p => (p.1, (bytes.drop (p.1 - va)).take p.2))

/-! ## The end of a command -/

/-- What performing a command comes to: it ends with a status and OFFSET, or on the command-precise path of R160 with a
cause, TVAL and OFFSET, or precisely at the interlocked context (R164), or it must still wait, or it has gone on and stays at the
head of its queue. -/
inductive EngineOut where
  | ends (s : State) (status offset : Nat)
  | fault (s : State) (cause : Nat) (tval : Word) (offset : Nat := 0)
  | precise (s : State) (cause : Nat) (tval : Word)
  | wait (s : State)
  | stays (s : State)

def State.modHead (s : State) (core q : Nat) (f : Cmd → Cmd) : State := s.modQueue core q (fun x => x.mapHead f)

/-- The head of a queue waits with the bytes it has read, or with the number of bytes it has written (R174). -/
def State.waitWith (s : State) (core q : Nat) (got : List Byte) : EngineOut := .wait (s.modHead core q (fun c => { c with buf := got }))
def State.waitAfter (s : State) (core q sent : Nat) : EngineOut := .wait (s.modHead core q (fun c => { c with sent }))

/-- TVAL of a fault for which no rule names a value. -/
def State.openTval (s : State) : Word := Config.word s.tick 220

def State.dropHead (s : State) (core q : Nat) : State :=
  s.modQueue core q (fun x => { x with entries := x.entries.tail })

/-- The command is gone from its queue, or from both. -/
def State.dropCommand (s : State) (core q : Nat) (c : Cmd) : State :=
  if c.instr.isJoint then (s.dropHead core 0).dropHead core 1 else s.dropHead core q

/-- The context that issued a command still interlocks on it (R47, R352). -/
def State.owns (s : State) (core : Nat) (c : Cmd) : Bool :=
  let x := s.ctx ⟨core, c.slot⟩
  c.instr.ownsRegister && decide (x.hold.gen = c.gen) && decide (x.hold.hand = some c.instr)

/-- A command writes a register of the context that interlocks on it. -/
def State.ownerResult (s : State) (core : Nat) (c : Cmd) (x : RegWrite) : State :=
  if s.owns core c then s.result ⟨core, c.slot⟩ 1 x else s

/-- A context that interlocks on a command goes on behind it (R47, R50). -/
def State.releaseOwner (s : State) (core : Nat) (c : Cmd) : State :=
  if s.owns core c then s.finish ⟨core, c.slot⟩ c.instr else s

/-- A context that interlocks on a command takes a trap precisely at it (R164). -/
def State.trapOwner (s : State) (core : Nat) (c : Cmd) (cause : Nat) (tval : Word) : State :=
  let w : Who := ⟨core, c.slot⟩
  if s.owns core c then (s.modHold w (fun h => { h with hand := none })).trapSync w cause tval else s

/-- A stream's reservation is given up (R193). -/
def State.cancelLoad (s : State) (core stream : Nat) (assigned : Bool) : State :=
  s.modPart core (fun p =>
    let x := p.streams.get {} stream
    { p with streams := p.streams.set stream { x with resv := x.resv - 1, assigned := if assigned then x.assigned - 1 else x.assigned } })

def Cmd.stream (c : Cmd) : Option Nat :=
  match c.instr with
  | .tld _ k _ _ _ _ _ => some k
  | _ => none

/-- A command ends with a status (R209). -/
def State.endCommand (s : State) (core q : Nat) (c : Cmd) (status offset : Nat) : State :=
  (((s.dropCommand core q c).leaveQueue core q).complete core c.cw c.seq status offset).releaseOwner core c

/-- The issue-time effects of a remote command are undone (R263, R274, R445): its mailboxes are ABSENT again, its
reservation ends and `ORC` falls. The entry of a self-send holds its reservation in `pos`. -/
def State.undoIssue (s : State) (core : Nat) (c : Cmd) : State :=
  let s := match c.instr with
    | .rpcGet _ _ m _ _ => s.emptyBox core m
    | .rpcCall false _ _ m _ _ _ => forEach (upTo 4) s (fun k s => s.emptyBox core (m + k))
    | .sendm .. => if c.pos.isSome then s.modMail core (fun m => { m with reserved := m.reserved - 1 }) else s
    | _ => s
  match c.op with
  | some n => s.endOp ⟨core, c.slot⟩ n
  | none => s

/-- A command is discarded by its guard (R50, R208); `CDONE` passes a discarded transfer (R464). -/
def State.discard (s : State) (core q : Nat) (c : Cmd) : State :=
  let s := match c.stream with
    | some k => s.cancelLoad core k false
    | none => s.undoIssue core c
  let s := match c.instr with
    | .tcopy ch .. => s.modRegs core (fun r => { r with cdone := r.cdone.set ch (c.seq + 1) })
    | _ => s
  s.endCommand core q c csDiscarded 0

/-- A command-precise fault holds its queue, or both for a joint command (R160, R197). -/
def State.holdFor (s : State) (core : Nat) (f : CommandFault) (b : Bool) : State :=
  let hold := fun (q : Nat) (s : State) => s.modQueue core q (fun x => { x with held := b })
  if f.joint then hold 0 (hold 1 s) else hold f.queue s

/-- A command-precise fault is recorded in CFR and its trap marked pending (R68, R160). A trap of an earlier one that is still
pending keeps its cause and TVAL (R385). -/
def State.recordFault (s : State) (core : Nat) (f : CommandFault) : State :=
  let s := s.modRegs core (fun r => { r with cfr := some f, cfrPc := f.pc })
  s.report ⟨core, f.slot⟩ f.gen f.cause f.tval (fun s w =>
    s.modPending w (fun p => { p with command := some (p.command.getD (f.cause, f.tval)) }))

/-- The command-precise path (R160): the command, already out of its queue, has ended; the queue holds; CFR records it, or
it waits for CFR behind an earlier one. -/
def State.faultCommand (s : State) (core q : Nat) (c : Cmd) (cause : Nat) (tval : Word) (offset : Nat) : State :=
  let s := (((s.undoIssue core c).leaveQueue core q).complete core c.cw c.seq csTranslation offset).releaseOwner core c
  let f : CommandFault := { queue := q, slot := c.slot, gen := c.gen, cause, seq := c.seq, pc := c.pc, tval
                            stream := c.stream, joint := c.instr.isJoint }
  let s := s.holdFor core f true
  if (s.core core).part.regs.cfr.isSome then s.modRegs core (fun r => { r with faults := r.faults ++ [f] })
  else s.recordFault core f

/-! ## Who may work -/

/-- A command has passed its guard (R50). -/
def Cmd.ready (c : Cmd) : Bool := c.passed || c.instr.guard.isNone

end Sys2Proof.Machine
end

