-- ==== Sys2Proof/Machine/ScalarMem.lean ====
section
/-! DEFINITION. The scalar memory forms of class 0x100: loads, stores, atomics, full/empty operations and row requests. -/

namespace Sys2Proof

/-- The bytes of an access width (R92). -/
def Width.bytes : Width → Nat
  | .b => 1
  | .h => 2
  | .w => 4
  | .d => 8

def AtomWidth.bytes : AtomWidth → Nat
  | .w => 4
  | .sw => 4
  | .d => 8

def AtomWidth.signed : AtomWidth → Bool
  | .sw => true
  | _ => false

end Sys2Proof

namespace Sys2Proof.Machine

/-- The address of an offset form (R419, R457). -/
def State.offsetVa (s : State) (w : Who) (a : Nat) (off : Int) : Word := s.g w a + BitVec.ofInt 64 off

/-- `n` bytes, sign- or zero-extended to a word. -/
def extend (signed : Bool) (n x : Nat) : Word := if signed then BitVec.ofInt 64 (signOf (8 * n) x) else BitVec.ofNat 64 x

/-- What an atomic writes over `old` (R349); `w` is the width in bits. -/
def amoResult (op : AmoOp) (w old x : Nat) : Nat :=
  match op with
  | .add => (old + x) % 2 ^ w
  | .and => old &&& x
  | .or => old ||| x
  | .xor => old ^^^ x
  | .min => if signOf w x < signOf w old then x else old
  | .max => if signOf w old < signOf w x then x else old
  | .minu => if x < old then x else old
  | .maxu => if old < x then x else old

/-- R349, R350: the word is written whatever its new value is. -/
def execAmo (op : AmoOp) (wd : AtomWidth) (d a b : Nat) (s : State) : Host.Outcome State Fault Refusal :=
  let i := Instr.amo op wd d a b
  run i s (fun w s =>
    let n := wd.bytes
    let x := (s.g w b).toNat % 2 ^ (8 * n)
    s.atomicDirect w (s.g w a) n (fun old => some (amoResult op (8 * n) old x))
      (fun old s => .done ((s.setG w d (extend wd.signed n old)).advance w i)))

/-- R378: the value is written when the old one matches. -/
def execCas (wd : AtomWidth) (d a b c : Nat) (s : State) : Host.Outcome State Fault Refusal :=
  let i := Instr.cas wd d a b c
  run i s (fun w s =>
    let n := wd.bytes
    let x := (s.g w b).toNat % 2 ^ (8 * n)
    let y := (s.g w c).toNat % 2 ^ (8 * n)
    s.atomicDirect w (s.g w a) n (fun old => if old = x then some y else none)
      (fun old s => .done ((s.setG w d (extend wd.signed n old)).advance w i)))

/-- The scratchpad word of a full/empty operation (R140, R141). -/
def State.feWord (s : State) (w : Who) (need : Need) (va : Word) (k : Nat → State → Effect) : Effect :=
  if va.toNat % 8 ≠ 0 then .done (s.trapSync w cMisaligned va) else s.reachVa w need .fullEmpty va 8 k

/-- R398: the bit changes at the bank unit, which finds poison late (R458). -/
def State.feBit (s : State) (w : Who) (i : Instr) (va : Word) (kind : ReqKind) : Effect :=
  s.feWord w { write := true } va (fun key s =>
    .done ((s.sendReq { kind, who := w, gen := (s.ctx w).hold.gen, va, key }).advance w i))

/-- R398. -/
def execFeclr (a : Nat) (off : Int) (s : State) : Host.Outcome State Fault Refusal :=
  let i := Instr.feclr a off
  run i s (fun w s => s.feBit w i (s.offsetVa w a off) .setEmpty)

/-- R398. -/
def execFeset (a : Nat) (off : Int) (s : State) : Host.Outcome State Fault Refusal :=
  let i := Instr.feset a off
  run i s (fun w s => s.feBit w i (s.offsetVa w a off) .setFull)

/-- R419. -/
def execLd (wd : Width) (signed : Bool) (d a : Nat) (off : Int) (s : State) : Host.Outcome State Fault Refusal :=
  let i := Instr.ld wd signed d a off
  run i s (fun w s =>
    s.loadDirect w (s.offsetVa w a off) wd.bytes
      (fun x s => .done ((s.setG w d (extend signed wd.bytes x)).advance w i)))

/-- A full/empty operation joins its word's queue, behind the context's earlier writes to the word (R144, R146). -/
def State.joinQueue (s : State) (w : Who) (i : Instr) (need : Need) (va value : Word) (key : Nat) : Effect :=
  s.afterEarlier w key 8 (fun s =>
    .done (((s.inHand w i).modCore (keyCore key) (fun c =>
      { c with words := c.words ++ [{ key, who := w, instr := i, va, value }] })).serveWords key)) (fun s0 => s0.keepFor w need va)

/-- R420. -/
def execLdf (d a : Nat) (off : Int) (s : State) : Host.Outcome State Fault Refusal :=
  let i := Instr.ldf d a off
  run i s (fun w s =>
    let va := s.offsetVa w a off
    s.feWord w {} va (fun key s => s.joinQueue w i {} va 0 key))

/-- R420. -/
def execLdfe (d a : Nat) (off : Int) (s : State) : Host.Outcome State Fault Refusal :=
  let i := Instr.ldfe d a off
  run i s (fun w s =>
    let va := s.offsetVa w a off
    s.feWord w {} va (fun key s => s.joinQueue w i {} va 0 key))

/-- A row request is translated as a read, and left to the controller (R169, R438). -/
def State.rowRequest (s : State) (w : Who) (i : Instr) (va : Word) (kind : ReqKind) : Effect :=
  s.reachVa w {} .row va 1 (fun key s =>
    .done ((s.sendReq { kind, who := w, gen := (s.ctx w).hold.gen, va, key }).advance w i))

/-- R438. -/
def execRact (a : Nat) (off : Int) (s : State) : Host.Outcome State Fault Refusal :=
  let i := Instr.ract a off
  run i s (fun w s => s.rowRequest w i (s.offsetVa w a off) .activate)

/-- R438. -/
def execRpre (a : Nat) (off : Int) (s : State) : Host.Outcome State Fault Refusal :=
  let i := Instr.rpre a off
  run i s (fun w s => s.rowRequest w i (s.offsetVa w a off) .precharge)

/-- R457. -/
def execSt (wd : Width) (a : Nat) (off : Int) (b : Nat) (s : State) : Host.Outcome State Fault Refusal :=
  let i := Instr.st wd a off b
  run i s (fun w s =>
    s.storeDirect w (s.offsetVa w a off) (natLE wd.bytes (s.g w b).toNat) (fun s => .done (s.advance w i)))

/-- R459: it waits in the word's queue, and is performed as a release for the regions bound to the word. -/
def execStef (a : Nat) (off : Int) (b : Nat) (s : State) : Host.Outcome State Fault Refusal :=
  let i := Instr.stef a off b
  run i s (fun w s =>
    let va := s.offsetVa w a off
    s.feWord w { write := true } va (fun key s => s.joinQueue w i { write := true } va (s.g w b) key))

/-- R459: a release for the regions bound to the word. The context goes on, and the word is written once the writes that it covers have been
performed. -/
def execStf (a : Nat) (off : Int) (b : Nat) (s : State) : Host.Outcome State Fault Refusal :=
  let i := Instr.stf a off b
  run i s (fun w s =>
    let va := s.offsetVa w a off
    s.feWord w { write := true } va (fun key s =>
      .done ((s.sendReq { kind := .storeFull, who := w, gen := (s.ctx w).hold.gen, va, key, bytes := natLE 8 (s.g w b).toNat
                          asid := s.asid w.core, opMark := (s.ctx w).hold.opNext }).advance w i)))

end Sys2Proof.Machine
end

