-- ==== Sys2Proof/Machine/Messages.lean ====
section
/-! DEFINITION. The remote forms, mailbox forms and handler forms of class 0x300 at issue (R261 to R275, R280, R445 to R454). -/

namespace Sys2Proof.Machine

/-- Device and column that an address names now, or device 64 where its translation is not at hand. -/
def State.aimOf (s : State) (core : Nat) (pl : BitVec 2) (va : Word) : Nat × Nat :=
  match s.translate (.queue core 8) core (s.asid core) pl {} va.toNat with
  | .ok pa => (pa / 2 ^ 58, pa / 2 ^ 47 % 2 ^ 11)
  | _ => (64, 0)

/-- A fire-and-forget command raises `ORC` at issue, or waits while it is full (R66, R264); a handler counts nothing
(R267). -/
def State.raise (s : State) (w : Who) (c : Cmd) (o : RemoteOp) (k : State → Cmd → Effect) : Effect :=
  if w.isHandler then k s c
  else
    let x := s.ctx w
    if 0xFFFF ≤ x.remote.length then waits
    else
      let n := x.hold.opNext
      k (s.modCtx w (fun x => { x with
        remote := x.remote ++ [{ o with id := n }], hold := { x.hold with opNext := n + 1 } })) { c with op := some n }

/-- An addressed fire-and-forget command of `len` bytes. -/
def State.raiseTo (s : State) (w : Who) (c : Cmd) (va : Word) (len : Nat) (k : State → Cmd → Effect) : Effect :=
  let a := s.aimOf w.core c.pl va
  s.raise w c { id := 0, dev := a.1, column := a.2, va := va.toNat, len } k

/-- R447. -/
def execRpcAmo (op : AmoOp) (dword : Bool) (a b : Nat) (eng : Eng) (s : State) : Host.Outcome State Fault Refusal :=
  issueEngine (.rpcAmo op dword a b eng) s (fun w _ s c k =>
    s.raiseTo w c (c.op1 0) (if dword then 8 else 4) k)

/-- The words of a payload or descriptor in the own scratchpad (R265, R276). -/
def State.ownPayload (w : Who) : List Word → List Word → State → (List Word → State → Effect) → Effect
  | [], acc, s, k => k acc s
  | va :: rest, acc, s, k =>
    s.ownWord w va va (fun x s => match x with
      | none => .done (s.trapSync w cUncorrectable va)
      | some x => State.ownPayload w rest (acc ++ [x]) s k)

def putBytes : PutForm → Nat
  | .plain w => w.bytes
  | .full => 8

/-- R265, R448: the checks and the payload read at issue; reply mailboxes become PENDING. -/
def execRpcCall (nr : Bool) (a idx m b len : Nat) (eng : Eng) (s : State) : Host.Outcome State Fault Refusal :=
  issueEngine (.rpcCall nr a idx m b len eng) s (fun w _ s c k =>
    let free := (upTo 4).all (fun j => decide (((s.mail w.core).box (m + j)).state = .absent))
    let pay := c.op1 1
    if !nr && (decide (m % 4 ≠ 0) || !free) then .done (s.trapSync w cIllegalOperand (BitVec.ofNat 64 m))
    else if len ≠ 0 ∧ pay.toNat % 8 ≠ 0 then .done (s.trapSync w cMisaligned pay)
    else
      let vas := (upTo ((len + 7) / 8)).map (fun j => pay + BitVec.ofNat 64 (8 * j))
      State.ownPayload w vas [] s (fun ws s =>
        let c := { c with desc := ws }
        if nr then s.raiseTo w c (c.op1 0) 0 k
        else k (s.modMail w.core (fun x => (upTo 4).foldl (fun x j => x.setBox (m + j) { state := .pending }) x)) c))

/-- R290: waits until `ORC` is 0. -/
def execRpcFence (s : State) : Host.Outcome State Fault Refusal :=
  run .rpcFence s (fun w s => if (s.ctx w).remote.isEmpty then .done (s.advance w .rpcFence) else waits)

/-- R450: the mailbox becomes PENDING at issue. -/
def execRpcGet (wd : Width) (signed : Bool) (m a : Nat) (eng : Eng) (s : State) : Host.Outcome State Fault Refusal :=
  issueEngine (.rpcGet wd signed m a eng) s (fun w _ s c k =>
    if ((s.mail w.core).box m).state ≠ .absent then .done (s.trapSync w cIllegalOperand (BitVec.ofNat 64 m))
    else k (s.modMail w.core (fun x => x.setBox m { state := .pending })) c)

/-- `hc` must hold a membership (R263, R278). -/
def State.checkCredit (s : State) (w : Who) (hc : Option Nat) (k : Option Word → Effect) : Effect :=
  match hc with
  | none => k none
  | some n =>
    let h := s.h w n
    if h.value = 0 ∨ h.kind ≠ .member then .done (s.trapSync w cIllegalOperand h.value) else k (some h.value)

/-- R451. -/
def execRpcPut (form : PutForm) (a b : Nat) (hc : Option Nat) (eng : Eng) (s : State) : Host.Outcome State Fault Refusal :=
  issueEngine (.rpcPut form a b hc eng) s (fun w _ s c k =>
    s.checkCredit w hc (fun credit => s.raiseTo w { c with credit } (c.op1 0) (putBytes form) k))

/-- R269, R452: a release. A `.nr` call gets nothing. -/
def execRpcReply (s : State) : Host.Outcome State Fault Refusal :=
  run .rpcReply s (fun w s =>
    match (s.ctx w).reply with
    | none => .done (s.trapSync w cIllegalOperand 0)
    | some r =>
      if r.sent then .done (s.trapSync w cIllegalOperand 0)
      else s.release w .domain (fun s =>
        .done (if s.hasFaulted w then s
          else ((s.sendReply w r (replyValues s w)).modCtx w (fun c => { c with reply := some { r with sent := true } })).advance
            w .rpcReply)))

/-- Device and logical core that a `sendm` names (R274). -/
def sendTarget (x : Word) : Nat × Nat := (x.toNat / 2 ^ 11 % 2 ^ 6, x.toNat % 2 ^ 11)

/-- R274, R454: a self-send reserves a place of the overflow queue. -/
def execSendm (a idx b : Nat) (eng : Eng) (s : State) : Host.Outcome State Fault Refusal :=
  issueEngine (.sendm a idx b eng) s (fun w _ s c k =>
    let x := c.op1 0
    let t := sendTarget x
    let o : RemoteOp := { id := 0, dev := t.1, column := t.2, send := true }
    if 2 ^ 17 ≤ x.toNat then .done (s.trapSync w cIllegalOperand x)
    else if t.1 = s.mod.devId ∧ s.physOf t.2 = some w.core then
      let m := s.mail w.core
      if overflowSize ≤ m.overflow.length + m.reserved then .done (s.trapSync w cMailboxOverflow (BitVec.ofNat 64 idx))
      else s.raise w { c with pos := some 0 } o (fun s c =>
        k (s.modMail w.core (fun m => { m with reserved := m.reserved + 1 })) c)
    else s.raise w c o k)

/-- A context registers at a mailbox and is served at once if it can be (R431). -/
def State.waitAt (s : State) (w : Who) (i : Instr) (m : Nat) : State :=
  ((s.inHand w i).modMail w.core (fun x => { x with waiters := x.waiters ++ [(m, w.slot)] })).serveBox w.core m

/-- R273, R430. -/
def execMpeek (d m : Nat) (s : State) : Host.Outcome State Fault Refusal :=
  run (.mpeek d m) s (fun w s => .done (s.waitAt w (.mpeek d m) m))

/-- R273, R430. -/
def execMtake (d m : Nat) (s : State) : Host.Outcome State Fault Refusal :=
  run (.mtake d m) s (fun w s => .done (s.waitAt w (.mtake d m) m))

/-- R269, R410. -/
def execHret (s : State) : Host.Outcome State Fault Refusal := run .hret s (fun w s => s.hretEffect w)

/-! ## Gateways (R337) -/

/-- The Graticule position of a link's attachment, as a physical core. -/
def attachment (link : Nat) : Nat :=
  let p := [(5, 0), (15, 0), (25, 0), (35, 0), (39, 3), (39, 11), (39, 18), (39, 26), (35, 29), (25, 29), (15, 29), (5, 29),
    (0, 26), (0, 18), (0, 11), (0, 3)].getD link (0, 0)
  p.2 * 40 + p.1

/-- The mapped logical core nearest an attachment that is not listed yet; ties go to the lower number. -/
def State.nearest (s : State) (link : Nat) (found : List Nat) : Option Nat :=
  let far := fun (n : Nat) => (s.physOf n).map (fun k => hops k (attachment link))
  (upTo 1152).foldl (fun best n =>
    if n ∈ found then best
    else match far n, best with
      | none, _ => best
      | some _, none => some n
      | some x, some b => if x < (far b).getD 0 then some n else best) none

/-- The gateway set of a link: logical cores in gateway order. -/
def State.gatewaySet (s : State) (link : Nat) : List Nat :=
  (upTo s.mod.gateways).foldl (fun l _ => match s.nearest link l with
    | some n => l ++ [n]
    | none => l) []

/-- Whether a physical core is a gateway of a link. -/
def State.isGateway (s : State) (core link : Nat) : Bool := (s.gatewaySet link).any (fun n => decide (s.physOf n = some core))

/-- R280, R408: the block taken before is freed; the context then waits for the oldest untaken one. -/
def execGwTake (d link : Nat) (s : State) : Host.Outcome State Fault Refusal :=
  run (.gwTake d link) s (fun w s =>
    if !s.isGateway w.core link then .done (s.trapSync w cIllegalOperand (BitVec.ofNat 64 link))
    else
      let s := match (s.ctx w).hold.gates.find? (fun p => decide (p.1 = link)) with
        | some p => (s.freeRing w.core p.2).modHold w (fun h => { h with gates := h.gates.erase link })
        | none => s
      let s := (s.inHand w (.gwTake d link)).modMail w.core (fun x => { x with waiters := x.waiters ++ [(linkWait link, w.slot)] })
      .done (s.serveLink w.core link (s.mail w.core).waiters.length))

end Sys2Proof.Machine
end

