-- ==== Sys2Proof/Machine/Vault.lean ====
section
/-! DEFINITION. The bank units and the vault agent: serving buffered writes, refresh, temperatures, scrub, Welt repair and
retirement, the repair log and its replay (R143, R161 to R163, R166 to R190, R497 to R499). -/

namespace Sys2Proof.Machine

/-! ## Buffered writes (R143, R168, R281) -/

/-- SCRATCHPAD_ACCESS: a bank unit performs a buffered access of the core's scratchpad. -/
def execScratchpadAccess (core n : Nat) (found : StripeFinding) (s : State) : Host.Outcome State Fault Refusal :=
  event (
    let l := (s.core core).requests
    match l[n]? with
    | none => s
    | some r =>
      if !s.agentOn || (l.take n).any (fun q => q.meetsWord r) || s.isBlocked r [] then s
      else
        let s := s.modCore core (fun c => { c with requests := dropAt l n })
        (s.meetStripe core r.key found).performReq r)

/-- VAULT_REQUEST_SERVE: the controller serves the oldest request to a bank, or it waits for the bank's work (R168, R176). A
beat that failed twice leaves poison in the sectors it carried (R182). -/
def execVaultRequestServe (core n : Nat) (found : BeatFinding) (s : State) : Host.Outcome State Fault Refusal :=
  event (
    let l := (s.core core).vaultRequests
    match l[n]? with
    | none => s
    | some r =>
      if !s.agentOn then s
      else match s.serveReq core n r with
      | none => s.stallReq core n r
      | some t =>
        if found = .failedTwice ∧ r.kind = .store then t.spoil r.key r.bytes.length (s.beatSectors r.key r.bytes.length) else t)

/-! ## Refresh (R173, R174, R180) -/

/-- The activation count of a row is reset (R180). -/
def State.resetCount (s : State) (core bank row : Nat) : State :=
  s.modVault core (fun v => { v with counts := v.counts.set (bank * 2048 + row) 0 })

/-- The row at a place was refreshed. -/
def State.placeRefreshed (s : State) (core bank place : Nat) : State :=
  match (s.bank core bank).rowAt place with
  | some row => s.resetCount core bank row
  | none => s

/-- REFRESH_END: the bank's work ends and leaves it IDLE; a refreshed row's activation count is reset. Behind one neighbour's
targeted refresh the other's begins (R180). -/
def execRefreshEnd (core bank : Nat) (s : State) : Host.Outcome State Fault Refusal :=
  event (
    let idle := fun (s : State) => s.modBank core bank (fun b => { b with busy := .idle })
    if !s.agentOn then s
    else match (s.bank core bank).busy with
    | .idle => s
    | .refresh =>
      (idle (s.resetCount core bank (s.bank core bank).next)).modBank core bank (fun b => { b with next := (b.next + 1) % 2048 })
    | .targeted (place :: rest) =>
      let s := s.placeRefreshed core bank place
      if rest.isEmpty then idle s else s.beginWork core bank (.targeted rest)
    | .targeted [] => idle s
    | .repair => idle s)

/-! ## Temperatures (R173, R179) -/

/-- TEMP_MEASURE: the controller measures its twelve layers; a layer enters throttling at 95 °C and leaves it at 90 °C. THROTTLE
has no access: TVAL names the layer, and its ROW and BANK are 0 (DESIGN CHOICE, notes/assumptions/111.md). -/
def execTempMeasure (core : Nat) (temps : List Nat) (s : State) : Host.Outcome State Fault Refusal :=
  event (
    if !s.agentOn then s
    else forEach ((upTo 12).zip temps) s (fun p s =>
      let (layer, t) := p
      let s := s.modVault core (fun v => { v with temps := v.temps.set layer t })
      let v := (s.core core).vault
      if layer ∈ v.throttled then
        if t ≤ 90 then s.modVault core (fun v => { v with throttled := eraseNat v.throttled layer }) else s
      else if 95 ≤ t then
        (s.modVault core (fun v => { v with throttled := insertNat v.throttled layer })).dramEvent core 2 ⟨core, 0⟩ (layer * 4) 0 0 0
      else s))

/-! ## Degradation (R183, R187, R320) -/

/-- A core reports itself degraded: DEGRADED is latched. -/
def State.degrade (s : State) (core : Nat) : State :=
  s.modMarks core (fun m => { m with degraded := true, events := m.events ||| 0x08#6 })

/-- A layer of a vault has a path (R183). -/
def State.layerReached (s : State) (core layer : Nat) : Bool :=
  (core :: quadNeighbours core).any (fun k => !(s.core k).vault.dead && !((s.core k).vault.serving layer).isEmpty)

/-- The cores of a quad that have lost a layer report themselves degraded. -/
def State.checkLayers (s : State) (core : Nat) : State :=
  forEach (core :: quadNeighbours core) s (fun k s => if (upTo 12).all (s.layerReached k) then s else s.degrade k)

/-! ## The repair log (R187) -/

/-- The vault that keeps the second copy (R21). -/
def partnerOf (core : Nat) : Nat := core / 40 * 40 + (core % 40 ^^^ 1)

def ownCopy (core : Nat) : Nat := coreKey core 0x0B140000
def otherCopy (core : Nat) : Nat := coreKey (partnerOf core) 0x0B148000

/-- Word 0 of an entry, without its number. -/
def laneEntry (l : WeltLine) (spare : Nat) : Nat := l.welt * 2 ^ 60 + l.seg * 2 ^ 56 + l.line * 2 ^ 46 + spare * 2 ^ 42
def retireEntry (welt seg : Nat) : Nat := 2 ^ 61 + welt * 2 ^ 60 + seg * 2 ^ 56
def rowEntry (bank row spare : Nat) : Nat :=
  2 * 2 ^ 61 + bank / 4 * 2 ^ 56 + bank % 4 * 2 ^ 40 + row * 2 ^ 29 + spare * 2 ^ 24

/-- An entry of a copy is written where it can be. -/
def State.putEntry (s : State) (key num : Nat) (e : Word × Word) : State :=
  match s.store (key + 16 * num) (natLE 8 e.1.toNat ++ natLE 8 e.2.toNat) with
  | some t => t
  | none => s

def entryNum (e : Word × Word) : Nat := e.1.toNat % 2 ^ 16

/-- The number, and with it the place, of a log's next entry: behind the last one, also where a replay has left gaps before it (DESIGN CHOICE,
notes/assumptions/147.md). -/
def Vault.nextEntry (v : Vault) : Nat := (v.log.getLast?.map (fun e => entryNum e + 1)).getD 0

/-- Log a repair in the record and both copies; a vault whose log is full reports itself degraded (R187). -/
def State.logRepair (s : State) (core x : Nat) : State :=
  let n := (s.core core).vault.nextEntry
  if 2048 ≤ n then s.degrade core
  else
    let e : Word × Word := (BitVec.ofNat 64 (2 ^ 63 + x + n), BitVec.ofNat 64 s.ts)
    ((s.modVault core (fun v => { v with log := v.log ++ [e] })).putEntry (ownCopy core) n e).putEntry (otherCopy core) n e

/-! ## Repairs (R184 to R186) -/

/-- A failing row goes to the bank's next spare row, and is copied there; nothing happens when the spares are used up
(R186). -/
def State.repairRow (s : State) (core bank row : Nat) : State :=
  let n := (s.bank core bank).spares.length
  if 32 ≤ n then s
  else
    let s := s.logRepair core (rowEntry bank row n)
    (s.modBank core bank (fun b => { b with spares := b.spares ++ [(row, n)] })).beginWork core bank .repair

/-- PATROL_SCRUB: the agent scrubs the sector at an offset, silently; a row that has held poison twice since it was last mapped
goes to a spare (R163, R186). A row has held poison where the scrub itself found a sector uncorrectable; poison that a command stored or a
failed beat left is not counted (DESIGN CHOICE, notes/assumptions/148.md). -/
def execPatrolScrub (core offset : Nat) (found : ScrubFinding) (s : State) : Host.Outcome State Fault Refusal :=
  event (
    let bank := bankOf offset
    let row := rowOf offset
    let repair := fun (s : State) =>
      (s.repairRow core bank row).modBank core bank (fun b => { b with scrubs := b.scrubs.set row 0 })
    if !s.agentOn || decide (0x0C000000 ≤ offset) || s.bankBusy core offset then s
    else match found with
    | .clean => s
    | .corrected => s
    | .uncorrectable =>
      let s := s.storePoison (coreKey core (offset / 32 * 32))
      let n := (s.bank core bank).scrubs.get 0 row + 1
      let s := s.modBank core bank (fun b => { b with scrubs := b.scrubs.set row n })
      if 2 ≤ n then repair s else s
    | .rowFailing => repair s)

/-- A Welt is being switched: for a lane repair, or a segment of it (R184, R185). The accesses that wait in its quad stall on it (R176). -/
def State.beginSwitch (s : State) (core welt : Nat) (seg : Option Nat) : State :=
  let s := s.modVault core (fun v => { v with
    switching := v.switching ++ [{ welt, seg, work := s.nextWork core }], works := v.works + 1 })
  forEach (core :: quadNeighbours core) s (fun k s => forEach (s.core k).vault.banks s (fun b s => s.stallBank k b.1))

/-- Retire a Welt segment: logged, then switched (R185). -/
def State.retireSegment (s : State) (core welt seg : Nat) : State :=
  if (welt, seg) ∈ (s.core core).vault.retired then s
  else
    let s := s.logRepair core (retireEntry welt seg)
    (s.modVault core (fun v => { v with retired := v.retired ++ [(welt, seg)] })).beginSwitch core welt (some seg)

/-- The lane repairs of a segment in force. -/
def Vault.lanesUsed (v : Vault) (welt seg : Nat) : Nat :=
  (v.repaired.filter (fun l => decide (l.welt = welt) && decide (l.seg = seg))).length

/-- WELT_LANE_REPAIR: a line of the 576 goes onto a spare lane of its segment, with the Welt quiesced, or the segment is
retired at its 17th repair (R20, R184). -/
def execWeltLaneRepair (core : Nat) (line : WeltLine) (s : State) : Host.Outcome State Fault Refusal :=
  event (
    let v := (s.core core).vault
    if !s.agentOn || decide (2 ≤ line.welt) || decide (12 ≤ line.seg) || decide (576 ≤ line.line)
        || decide ((line.welt, line.seg) ∈ v.retired) || decide (line ∈ v.repaired) then s
    else
      let n := v.lanesUsed line.welt line.seg
      if 16 ≤ n then s.retireSegment core line.welt line.seg
      else
        ((s.logRepair core (laneEntry line n)).modVault core (fun v => { v with repaired := v.repaired ++ [line] })).beginSwitch
          core line.welt none)

/-- A segment fails its line test as a whole (R184). -/
def State.segmentFails (s : State) (core welt seg : Nat) : State :=
  if s.agentOn && decide (welt < 2) && decide (seg < 12) then s.retireSegment core welt seg else s

/-! ## Replay (R189) -/

/-- The valid entries of a copy, as far as they can be read. -/
def State.copyEntries (s : State) (key : Nat) : List (Word × Word) :=
  (upTo 2048).filterMap (fun j =>
    let a := key + 16 * j
    let e := (s.word a, s.word (a + 8))
    if !s.poisoned a && e.1.getLsbD 63 then some e else none)

/-- The union of entries by number, in rising order. Of two entries with one number that of the first list stands, so that the record comes
before the own copy, and that before the partner's (DESIGN CHOICE, notes/assumptions/147.md). -/
def unionEntries (a b : List (Word × Word)) : List (Word × Word) :=
  b.foldl (fun l e => if l.any (fun x => decide (entryNum x = entryNum e)) then l
    else l.filter (fun x => decide (entryNum x < entryNum e)) ++ [e] ++ l.filter (fun x => decide (entryNum e < entryNum x))) a

/-- Apply one entry: lane repairs and retirements take force; row repairs are in force already (R186, R188). -/
def Vault.applyEntry (v : Vault) (e : Word × Word) : Vault :=
  let x := e.1.toNat
  let welt := x / 2 ^ 60 % 2
  let seg := x / 2 ^ 56 % 16
  let l : WeltLine := { welt, seg, line := x / 2 ^ 46 % 1024 }
  match x / 2 ^ 61 % 4 with
  | 0 => if l ∈ v.repaired then v else { v with repaired := v.repaired ++ [l] }
  | 1 => if (welt, seg) ∈ v.retired then v else { v with retired := v.retired ++ [(welt, seg)] }
  | _ => v

/-- Rewrite a copy from the union where it reads as poison or holds fewer entries, in whole sectors, if it can be
reached. -/
def State.rewriteCopy (s : State) (core key : Nat) (l : List (Word × Word)) : State :=
  let reached := s.sectorReached (keyCore key) (keyOff key) && s.sectorReached (keyCore key) (keyOff key + 32)
  let stale := (upTo 1024).any (fun j => s.memory.marked (key + 32 * j)) || decide ((s.copyEntries key).length < l.length)
  if reached && stale then
    let bytes := l.flatMap (fun e => natLE 8 e.1.toNat ++ natLE 8 e.2.toNat)
    let m := s.memory.writeBytes key (bytes ++ List.replicate (32768 - bytes.length) 0)
    { s with memory := m.cleanLog ((logOf key).getD 0) }
  else s

/-- The entries of the agent's record, unless it cannot be read. -/
def Vault.record (v : Vault) : List (Word × Word) := if v.recordLost then [] else v.log

/-- A copy of a log can be read, in part at least: one sector of it is enough (DESIGN CHOICE, notes/assumptions/147.md). -/
def State.copyReads (s : State) (key : Nat) : Bool := (upTo 1024).any (fun j => !s.poisoned (key + 32 * j))

/-- A replay has something to read: the non-volatile record, or a copy (R189). -/
def State.logReads (s : State) (core : Nat) : Bool :=
  !(s.core core).vault.recordLost || s.copyReads (ownCopy core) || s.copyReads (otherCopy core)

/-- The replay of a vault's log, with the lines that fail the new test of its blocked segments (R189). -/
def State.replayLog (s : State) (core : Nat) (failing : List WeltLine) : State :=
  let l := unionEntries (unionEntries (s.core core).vault.record (s.copyEntries (ownCopy core))) (s.copyEntries (otherCopy core))
  let s := s.modVault core (fun v => { (l.foldl Vault.applyEntry v) with log := l, failing })
  let v := (s.core core).vault
  let covered := fun (p : Nat × Nat) => decide (p ∈ v.retired) ||
    (failing.filter (fun x => decide (x.welt = p.1) && decide (x.seg = p.2))).all (fun x => decide (x ∈ v.repaired))
  let bad := v.blocked.filter (fun p => !covered p)
  let s := s.modVault core (fun v => { v with blocked := bad })
  let s := (s.rewriteCopy core (ownCopy core) l).rewriteCopy core (otherCopy core) l
  (forEach bad s (fun p s => s.retireSegment core p.1 p.2)).checkLayers core

/-- The Welt operation that the agent of a core performs now is that of a context (R498). -/
def State.weltOwner (s : State) (core : Nat) (i : Instr) : Option Nat :=
  (s.core core).vault.operations.head?.filter (fun k => decide ((s.ctx ⟨core, k⟩).hold.hand = some i))

/-- A context's Welt operation is over. -/
def State.weltOver (s : State) (w : Who) : State :=
  s.modVault w.core (fun v => { v with operations := v.operations.filter (fun k => decide (k ≠ w.slot)) })

/-- A context's Welt operation has reached the agent (R498). -/
def State.weltAsks (s : State) (w : Who) : State :=
  s.modVault w.core (fun v => if w.slot ∈ v.operations then v else { v with operations := v.operations ++ [w.slot] })

/-- No Welt operation of another context reached the agent before this one's. -/
def State.weltTurn (s : State) (w : Who) : Bool := (s.core w.core).vault.operations.head?.all (fun k => decide (k = w.slot))

/-- WELT_REPLAY_DONE: a replay ends, and the context that asked for it goes on; without anything to read it raises
UNCORRECTABLE, and the blocks stay as they are (R189). -/
def execWeltReplayDone (core : Nat) (failing : List WeltLine) (s : State) : Host.Outcome State Fault Refusal :=
  event (
    match s.weltOwner core .weltRestore with
    | some k =>
      let w : Who := ⟨core, k⟩
      if !s.agentOn || !(s.core core).vault.switching.isEmpty then s
      else if s.logReads core then ((s.replayLog core failing).weltOver w).finish w .weltRestore
      else ((s.weltOver w).modHold w (fun h => { h with hand := none })).trapSync w cUncorrectable
        (BitVec.ofNat 64 ((s.paOf core (keyOff (ownCopy core))).getD 0))
    | none => s)

/-- The oldest switching of a vault ends: a segment's retirement is raised, and a context that asked for it goes on (R184,
R185, R498). WELT_RETIRE has no access: TVAL names the layer of the segment's number, and its ROW and BANK are 0 (DESIGN
CHOICE, notes/assumptions/111.md). -/
def State.switched (s : State) (core : Nat) : State :=
  match (s.core core).vault.switching with
  | [] => s
  | x :: rest =>
    if !s.agentOn then s
    else
      let s := s.modVault core (fun v => { v with switching := rest })
      match x.seg with
      | none => s
      | some seg =>
        let s := (s.dramEvent core 4 ⟨core, 0⟩ (seg * 4) 0 0 0).checkLayers core
        match s.weltOwner core (.weltRetire x.welt seg) with
        | some k => (s.weltOver ⟨core, k⟩).finish ⟨core, k⟩ (.weltRetire x.welt seg)
        | none => s

/-- R189, R498: the agent replays the log while the context waits. -/
def execWeltRestore (s : State) : Host.Outcome State Fault Refusal :=
  run .weltRestore s (fun w s =>
    if s.weltTurn w then .done ((s.weltAsks w).inHand w .weltRestore) else .wait (fun s0 => s0.weltAsks w))

/-- R185, R498: performed after the operations that reached the agent before it and a switching that is under way; the context goes
on once the segment is switched over, at once where it is retired already. -/
def execWeltRetire (welt layer : Nat) (s : State) : Host.Outcome State Fault Refusal :=
  run (.weltRetire welt layer) s (fun w s =>
    let i := Instr.weltRetire welt layer
    let v := (s.core w.core).vault
    if !s.weltTurn w || !v.switching.isEmpty then .wait (fun s0 => s0.weltAsks w)
    else if (welt, layer) ∈ v.retired then .done ((s.weltOver w).advance w i)
    else .done (((s.weltAsks w).retireSegment w.core welt layer).inHand w i))

end Sys2Proof.Machine
end

