-- ==== Sys2Proof/Machine/Fabric.lean ====
section
/-! DEFINITION. Messages on their way: sending from the message unit, acceptance, refusal and notices, spilling and
redelivery, handlers, replies and failures (R261 to R275, R291, R336, R337). -/

namespace Sys2Proof.Machine

/-! ## Reports to the issuer (R264) -/

/-- Messages for a job's part are diverted at its core: while it is saved or being saved, and behind messages that still
wait to be redelivered (R275). -/
def State.diverts (s : State) (core : Nat) (job : BitVec 32) : Bool :=
  let c := s.core core
  let runs := match c.run with
    | some r => decide (r.job = job)
    | none => false
  (match c.saved with
    | some im => decide (im.run.job = job)
    | none => false) || (runs && (s.isSaving core || c.spill.any (fun m => decide (m.job = job))))

/-- The bytes a message takes in the spill queue (R275). -/
def Msg.spillSize (m : Msg) : Nat :=
  64 + match m.body with
    | .put .. => 64
    | .amo .. => 64
    | .send .. => 64
    | .leg .. => 64
    | .mail .. => 64
    | .word .. => 64
    | .call _ _ _ p _ => (p.length + 63) / 64 * 64
    | .gateway _ _ p _ _ => (p.length + 63) / 64 * 64
    | _ => 0

def Core.spillUsed (c : Core) : Nat := c.spill.foldl (fun n x => n + x.spillSize) 0

/-- A message is written to the spill queue (R18, R275). What its bytes there hold, and where they lie, is not given: free bytes
stand for them behind those of the messages before it, and the messages themselves are kept in `spill` (DESIGN CHOICE,
notes/assumptions/118.md). -/
def State.toSpill (s : State) (core : Nat) (m : Msg) : State :=
  let bytes := (upTo m.spillSize).map (fun j => BitVec.ofNat 8 (Config.nat s.tick (2 ^ 33 + j)))
  let s := (s.store (coreKey core (0x0B100000 + (s.core core).spillUsed)) bytes).getD s
  s.modCore core (fun c => { c with spill := c.spill ++ [{ m with refused := none, noticed := false }] })

/-- A completion word in the scratchpad of a core whose part is saved goes there like the other messages for it (R275). -/
def State.postWord (s : State) (core : Nat) (job : BitVec 32) (key : Nat) (value : Word) : State :=
  s.post { src := ⟨core, 0⟩, gen := 0, job, dst := core, lane := 0, body := .word key value }

/-- The completion word of a remote command: written at its core, or diverted with the core's messages. -/
def State.finishWord (s : State) (m : Msg) (status : Nat) : State :=
  match m.cw with
  | none => s
  | some (n, seq) =>
    let core := m.src.core
    if s.diverts core m.job then
      s.postWord core m.job (spKey core (8 * n)) (BitVec.ofNat 64 (status + seq.toNat % 2 ^ 16 * 2 ^ 48))
    else if (s.core core).jobId = m.job then s.complete core (some n) seq status 0
    else s

/-- The operation leaves `ORC` (R264). -/
def State.opDone (s : State) (m : Msg) : State :=
  match m.op with
  | some n => if (s.core m.src.core).jobId = m.job then s.endOp m.src n else s
  | none => s

/-- An operation has been performed. -/
def State.succeed (s : State) (m : Msg) (status : Nat) : State := (s.finishWord m status).opDone m

/-- An operation has failed: the report leaves for its issuer. -/
def State.failMsg (s : State) (m : Msg) (status cause : Nat) (tval : Word) : State :=
  s.post { m with dst := m.src.core, refused := none, noticed := false, body := .failed status cause tval }

/-- Poison that a partial put, or an atomic, meets: status UNCORRECTABLE_DST, or ENGINE_FAULT with the target's address. -/
def State.failDst (s : State) (m : Msg) : State := s.failMsg m csDst cEngineFault (m.va &&& 0x7FFFFFFFFFFFFFFF)

/-! ## Resources (R271) -/

def State.spillRoom (s : State) (core : Nat) (m : Msg) : Bool :=
  decide ((s.core core).spillUsed + m.spillSize ≤ 262144)

/-- The lowest-numbered free handler context (R266). -/
def State.freeHandler (s : State) (core : Nat) : Option Nat := (upTo 8).find? (fun k => !(s.ctx ⟨core, 11 + k⟩).live)

def State.ringRoom (s : State) (core len : Nat) : Bool :=
  let p := (s.core core).part
  decide (p.ringUsed + unitsFor len ≤ p.ringUnits)

def State.overflowRoom (s : State) (core : Nat) : Bool :=
  let m := s.mail core
  decide (m.overflow.length + m.reserved < overflowSize)

/-- Whether the resource that a message was refused for is free for it now. -/
def State.resourceFree (s : State) (m : Msg) : Bool :=
  match m.refused with
  | some .handler => (s.freeHandler m.dst).isSome
  | some .overflow => s.overflowRoom m.dst
  | some .spill => !s.diverts m.dst m.job || s.spillRoom m.dst m
  | some .ring =>
    match m.body with
    | .call _ _ _ p _ => s.ringRoom m.dst p.length
    | .gateway _ _ p _ _ => s.ringRoom m.dst p.length
    | _ => true
  | some .lane => false
  | none => false

/-! ## Handlers (R266 to R270) -/

/-- The outcome of a handler fault (R270). -/
def State.handlerFaulted (s : State) (r : Reply) (cause : Nat) : State :=
  let v := BitVec.ofNat 64 (cause + r.idx * 2 ^ 8)
  let m : Msg := { src := r.who, gen := r.gen, job := r.job, dst := r.who.core, lane := 0, va := r.va, body := .ended }
  if r.nr then s.failMsg { m with op := some r.op } csOk cEngineFault v
  else if r.sent then s
  else s.post { m with body := .mail r.mail (List.replicate 4 (.fault, v)) true }

/-- The handler table's entry: its PC, or the cause with which the call ends (R266). -/
def State.handlerEntry (s : State) (core idx : Nat) : Except Nat Word :=
  let key := coreKey core ((s.core core).part.regs.htabBase.toNat + 16 * idx)
  let w0 := s.word key
  if s.poisoned key then .error cUncorrectable
  else if w0.getLsbD 63 && decide (w0 &&& 0x7E00000000000007 = 0) && decide (s.word (key + 8) = 0) then
    .ok (w0 &&& 0x1FFFFFFFFFFFFF8)
  else .error cIllegalOperand

/-- An accepted call starts on a handler context, or ends at once (R266). -/
def State.startHandler (s : State) (m : Msg) (h : Nat) (nr : Bool) (idx : Nat) (args : List Word) (payload : List Byte)
    (mail : Nat) : State :=
  let core := m.dst
  let w : Who := ⟨core, 11 + h⟩
  let src := s.callerId m.src
  match s.handlerEntry core idx with
  | .error c =>
    s.handlerFaulted { caller := src, who := m.src, gen := m.gen, mail, nr, idx, op := m.op.getD 0, entry := none,
                       va := m.va, job := m.job } c
  | .ok pc =>
    let start := (s.core core).part.ringAt
    let (id, s) := if payload.isEmpty then (0, s) else s.putRing core none payload src
    let va := if payload.isEmpty then 0 else (s.core core).part.ringVa start
    let g := ((upTo 4).zip args).foldl (fun m p => Store.set m (p.1 + 1) p.2) []
    let g := ((g.set 5 va).set 6 (BitVec.ofNat 64 payload.length)).set 7 src
    let r : Reply := { caller := src, who := m.src, gen := m.gen, mail, nr, idx, op := m.op.getD 0
                       entry := if payload.isEmpty then none else some id, va := m.va, job := m.job }
    let gen := (s.ctx w).hold.gen
    s.setCtx w { live := true, pc, regs := { g }, reply := some r, hold := { gen := gen + 1 } }

/-- The command that a handler interlocks on is withdrawn with it (R268). -/
def State.dropOwned (s : State) (w : Who) : State :=
  let mine := fun (e : Entry) => match e with
    | .cmd c => decide (c.slot = w.slot) && s.owns w.core c
    | .barrier _ _ => false
  if (s.ctx w).hold.hand.isNone then s
  else
    let s := if (s.queue w.core 2).entries.head?.any (fun e => mine e) then
        s.modPart w.core (fun p => { p with plane := { p.plane with apmpc := 0 } })
      else s
    [2, 3].foldl (fun s q => s.modQueue w.core q (fun x => { x with entries := x.entries.filter (fun e => !mine e) })) s

/-- A handler context is free. -/
def State.freeHandlerCtx (s : State) (w : Who) : State :=
  ((s.dropOwned w).withdraw w).modCtx w (fun c => { hold := { gen := c.hold.gen + 1 } })

/-! ## Acceptance (R263, R271 to R275) -/

/-- What an arriving message meets: it is accepted, refused for a resource, or waits for a bank. -/
inductive Arrival where
  | ok (s : State)
  | refused (r : Resource)
  | busy (mark : State → State)

/-- The source of an agent's access for another core: its events go to the issuer, and an alert names the control context
(R176, R181). -/
def State.agentSource (s : State) (core : Nat) (w : Who) (gen : Nat) : Source × Source :=
  (if w.core = core ∧ w.slot < 11 then { kind := 2, ctx := w.slot, seq := 0, charged := s.reportTo w gen }
    else { kind := 2, ctx := 0, seq := 0, charged := ⟨core, 0⟩ }, { kind := 2, ctx := 0, seq := 0, charged := s.reportTo w gen })

/-- What a message waits as at a bank (R168). -/
def Msg.client (m : Msg) : Client :=
  match m.body with
  | .leg ch seq l => if m.id = 0 then .leg m.src.core ch seq.toNat l.offset else .msg m.id
  | _ => .msg m.id

/-- Take an agent's access of `n` bytes to its storage: it waits for its turn at a bank (R168). -/
def State.agentAt (s : State) (m : Msg) (key n : Nat) (k : State → Arrival) : Arrival :=
  if isVault key then
    let core := keyCore key
    let off := keyOff key
    let src := s.agentSource core m.src m.gen
    match s.atPlace m.client core off n with
    | some t => k (t.touchRow core off src.1)
    | none => .busy (fun s0 => s0.waitBank m.client core off src.2.charged n)
  else k s

/-- A chunk write is over: it leaves its channel's list, where the transfer in progress still holds it. -/
def State.legOver (s : State) (core ch : Nat) (seq : BitVec 32) (offset : Nat) (f : State → Cmd → State) : State :=
  match (s.queue core (4 + ch)).head with
  | some c =>
    if c.seq = seq ∧ ((s.core core).part.legs.get [] ch).any (fun l => decide (l.offset = offset)) then
      f (s.modPart core (fun p => { p with
        legs := p.legs.set ch ((p.legs.get [] ch).filter (fun l => decide (l.offset ≠ offset))) })) c
    else s
  | none => s

/-- A chunk write has been performed or spilled, and its bytes are credited (R277). -/
def State.legTook (s : State) (core ch : Nat) (seq : BitVec 32) (l : Leg) : State :=
  s.legOver core ch seq l.offset (fun s c => match c.credit with
    | some h =>
      if c.copy.replay then s
      else (s.askUnit (unitOfHandle h) (.credit h l.bytes.length)).modHead core (4 + ch) (fun c =>
        { c with copy := { c.copy with credited := c.copy.credited + l.bytes.length } })
    | none => s)

/-- A chunk fails: nothing more is sent (R278). -/
def State.failCopy (s : State) (core ch status offset cause : Nat) (tval : Word) : State :=
  s.modHead core (4 + ch) (fun c =>
    match c.failed with
    | some (_, o) => if o ≤ offset then c else { c with failed := some (status, offset), copy := { c.copy with cause, tval } }
    | none => { c with failed := some (status, offset), copy := { c.copy with cause, tval } })

/-- A chunk write fails at its target or on its way. -/
def State.legLost (s : State) (core ch : Nat) (seq : BitVec 32) (l : Leg) (status : Nat) : State :=
  s.legOver core ch seq l.offset (fun s _ => (s.failCopy core ch status l.offset 0 0).modHead core (4 + ch) (fun c =>
    { c with copy := { c.copy with lost := c.copy.lost + l.bytes.length } }))

/-- Whether the part that sent a message still runs on its core. -/
def State.fromPart (s : State) (m : Msg) : Bool :=
  match (s.core m.src.core).run with
  | some r => decide (r.job = m.job)
  | none => false

/-- A chunk write takes effect, or fails for poison (R277, R278). One that has been spilled is its transfer's no more, which may be on its
replay by now (R275, R309). -/
def State.performLeg (s : State) (m : Msg) (ch : Nat) (seq : BitVec 32) (l : Leg) : State :=
  match s.store l.key l.bytes with
  | some t =>
    let t := t.writeBeat l.key l.bytes.length
    if t.fromPart m && !l.spilled then t.legTook m.src.core ch seq l else t
  | none => if s.fromPart m && !l.spilled then s.legLost m.src.core ch seq l csDst else s

/-- Perform a message at its target, whose storage and mailboxes are at hand. -/
def State.acceptHere (s : State) (m : Msg) : Arrival :=
  let at_ := s.agentAt m
  match m.body with
  | .put key bytes full credit => at_ key bytes.length (fun s =>
      match s.store key bytes with
      | none => .ok (s.failDst m)
      | some t =>
        let t := t.writeBeat key bytes.length
        let t := if full then (t.setFull key true).serveWords key else t
        let t := match credit with
          | some h => t.askUnit (unitOfHandle h) (.credit h bytes.length)
          | none => t
        .ok (t.succeed m csOk))
  | .amo key op dword value => at_ key 8 (fun s =>
      let n := if dword then 8 else 4
      if !dword && isVault key then .ok (s.failDst m)
      else match s.poisonAt key n with
      | (s, some _) => .ok (s.failDst m)
      | (s, none) =>
        let old := leNat (s.memory.read key n)
        match s.store key (natLE n (amoResult op (8 * n) old (value.toNat % 2 ^ (8 * n)))) with
        | some t => .ok ((t.writeBeat key n).succeed m csOk)
        | none => .ok (s.failDst m))
  | .get key w signed mail => at_ key w.bytes (fun s =>
      let n := w.bytes
      let reply := fun (s : State) (p : Presence) (x : Word) (status : Nat) =>
        Arrival.ok ((s.succeed m status).post { m with dst := m.src.core, cw := none, body := .mail mail [(p, x)] false })
      match s.poisonAt key n with
      | (s, some _) => reply s .poison m.va csSrc
      | (s, none) => reply s .plain (extend signed n (leNat (s.memory.read key n))) csOk)
  | .call nr idx args payload mail =>
    let size := (s.core m.dst).part.regs.ringSize.toNat
    if !payload.isEmpty && decide (size < 64 * unitsFor payload.length) then
      let s := if nr then s else s.post { m with dst := m.src.core, cw := none, op := none
                                                 body := .mail mail (List.replicate 4 (.absent, 0)) true }
      .ok (s.failMsg m (1 + Config.nat s.tick 250 % 8) cIllegalOperand (BitVec.ofNat 64 payload.length))
    else
      match s.freeHandler m.dst with
      | none => .refused .handler
      | some h =>
        if !payload.isEmpty && !s.ringRoom m.dst payload.length then .refused .ring
        else
          let s := s.finishWord m csOk
          let s := match m.op with
            | some n => if (s.core m.src.core).jobId = m.job then
                s.modCtx m.src (fun c => { c with
                  remote := c.remote.map (fun (o : RemoteOp) => if o.id = n then { o with accepted := true } else o) })
                else s
            | none => s
          .ok (s.startHandler { m with cw := none } h nr idx args payload mail)
  | .send idx value =>
    let self := decide (m.src.core = m.dst)
    let b := (s.mail m.dst).box idx
    let s := if self then s.modMail m.dst (fun x => { x with reserved := x.reserved - 1 }) else s
    if b.state = .absent then .ok ((s.fillBox m.dst idx { state := .plain, value }).succeed m csOk)
    else if self || s.overflowRoom m.dst then
      .ok ((s.modMail m.dst (fun x => { x with overflow := x.overflow ++ [(idx, value)] })).succeed m csOk)
    else .refused .overflow
  | .gateway link index payload src asid =>
    let size := (s.core m.dst).part.regs.ringSize.toNat
    if (s.core m.dst).run.isNone || decide (s.asid m.dst ≠ asid) then .ok s
    else if size < 64 * unitsFor payload.length then .ok s
    else if !s.ringRoom m.dst payload.length then .refused .ring
    else
      let s := (s.putRing m.dst (some (link, index)) payload src).2
      .ok (s.serveLink m.dst link (s.mail m.dst).waiters.length)
  | .leg ch seq l => at_ l.key l.bytes.length (fun s => .ok (s.performLeg m ch seq l))
  | .mail base values isReply =>
    if (s.core m.dst).jobId ≠ m.job then .ok s
    else
      let places := (upTo values.length).zip values
      let s := s.modMail m.dst (fun x => places.foldl (fun x p =>
        if p.2.1 = .absent then x.empty (base + p.1) else x.setBox (base + p.1) { state := p.2.1, value := p.2.2, reply := isReply }) x)
      .ok (forEach places s (fun p s => s.serveBox m.dst (base + p.1)))
  | .word key value => if (s.core m.dst).jobId ≠ m.job then .ok s else .ok (s.storeFull key value)
  | .ended => .ok (s.opDone m)
  | .failed status cause tval =>
    let s := s.opDone m
    if (s.core m.src.core).jobId ≠ m.job then .ok s
    else match m.cw with
    | some (n, seq) => .ok (s.complete m.src.core (some n) seq status 0)
    | none => .ok (s.engineFault m.src m.gen cause tval)

/-- Whether a message needs its core's scratchpad or mailboxes (R275). -/
def Body.needsCore : Body → Bool
  | .put key _ _ _ => isSp key
  | .amo key _ _ _ => isSp key
  | .get key _ _ _ => isSp key
  | .leg _ _ l => isSp l.key
  | _ => true

/-- A message whose lane orders it at its agent: a remote operation or a chunk write, and no reply or report (R271). -/
def Body.laned : Body → Bool
  | .leg .. => true
  | b => b.ofUnit

/-- A spilled message counts as accepted and performed (R275). -/
def State.spillMsg (s : State) (m : Msg) : State :=
  match m.body with
  | .mail .. | .ended | .failed .. | .word .. => s.toSpill m.dst m
  | .get .. => (s.finishWord m csOk).toSpill m.dst { m with cw := none }
  | .leg ch seq l =>
    (if s.fromPart m then s.legTook m.src.core ch seq l else s).toSpill m.dst { m with body := .leg ch seq { l with spilled := true } }
  | _ => (s.succeed m csOk).toSpill m.dst { m with cw := none, op := none }

/-- The job that a gateway block is for at a core: the one with the sender's ASID that runs there, or whose part is saved there
(R337). -/
def State.blockJob (s : State) (core : Nat) (asid : BitVec 16) : Option (BitVec 32) :=
  let c := s.core core
  let of := fun (r : Running) => if r.asid = asid then some r.job else none
  match c.run.bind of with
  | some j => some j
  | none => c.saved.bind (fun (im : Image) => of im.run)

/-- Accept a message: spilled while its part is saved, else performed. A gateway block is for the part that is there now. -/
def State.accept (s : State) (m : Msg) : Arrival :=
  let job := match m.body with
    | .gateway _ _ _ _ asid => s.blockJob m.dst asid
    | _ => some m.job
  match job with
  | none => .ok s
  | some job =>
    let m := { m with job }
    if m.body.needsCore && s.diverts m.dst m.job then
      if s.spillRoom m.dst m then .ok (s.spillMsg m) else .refused .spill
    else s.acceptHere m

/-- Redeliver the spilled messages of the part that runs on a core, in order, until one is refused or must wait; those of a part
that is saved there stay (R275, R312). -/
def State.redeliver (s : State) (core : Nat) : Nat → State
  | 0 => s
  | n + 1 =>
    let c := s.core core
    match c.run with
    | none => s
    | some r =>
      if s.isSaving core then s
      else match c.spill.findIdx? (fun m => decide (m.job = r.job)) with
      | none => s
      | some k =>
        match c.spill[k]? with
        | none => s
        | some m =>
          match (s.modCore core (fun c => { c with spill := dropAt c.spill k })).acceptHere m with
          | .ok t => t.redeliver core n
          | .refused _ => s
          | .busy mark => mark s

def State.redeliverAll (s : State) (core : Nat) : State := s.redeliver core (s.core core).spill.length

/-! ## The message unit (R261, R336) -/

/-- What a message to another device comes to is not this device's: it is performed or fails there (R135); a 32-bit operation on
a vault there fails (R447). -/
def State.acceptAfar (s : State) (m : Msg) : State :=
  let fails := Config.bit s.tick 252
  let free := fun (k : Nat) => Config.word s.tick (253 + k)
  match m.body with
  | .get _ w signed mail =>
    let x := if fails then m.va else extend signed w.bytes ((free 0).toNat % 2 ^ (8 * w.bytes))
    (s.succeed m (if fails then csSrc else csOk)).post { m with dst := m.src.core, cw := none
                                                                body := .mail mail [(if fails then .poison else .plain, x)] false }
  | .call true 63 _ payload _ =>
    if !fails then s.succeed m csOk
    else if Config.bit s.tick 257 then s.failMsg m (1 + Config.nat s.tick 250 % 8) cIllegalOperand (BitVec.ofNat 64 payload.length)
    else s.failMsg m csTranslation cEngineFault (BitVec.ofNat 64 (cTranslation + 63 * 2 ^ 8))
  | .call true idx _ _ _ =>
    let s := s.finishWord m csOk
    if fails then s.failMsg { m with cw := none } csOk cEngineFault (BitVec.ofNat 64 ((free 0).toNat % 2 ^ 8 + idx * 2 ^ 8))
    else s.post { m with dst := m.src.core, cw := none, body := .ended }
  | .put _ bytes _ (some h) =>
    if fails then s.failDst m else (s.succeed m csOk).askUnit (unitOfHandle h) (.credit h bytes.length)
  | .call false idx _ _ mail =>
    let v := BitVec.ofNat 64 ((free 0).toNat % 2 ^ 8 + idx * 2 ^ 8)
    (s.finishWord m csOk).post { m with dst := m.src.core, cw := none, op := none, body := .mail mail (if fails then List.replicate 4 (.fault, v) else (upTo 4).map (fun k => (.plain, free k))) true }
  | .amo key _ false _ => if fails || decide (keyOff key < 0x10000000) then s.failDst m else s.succeed m csOk
  | _ => if fails then s.failDst m else s.succeed m csOk

/-- The links that a lane may take to a device: those of its mask (R336). -/
def State.linkTo (s : State) (dev lane : Nat) : Option Nat :=
  let mask := s.mod.masks.get 0 dev
  let set := (upTo 16).filter (fun k => mask.getLsbD k)
  set[lane % set.length]?

/-- A destination on another device: each column of it is one (R291). -/
def afar (dev column : Nat) : Nat := 0x1000 + dev * 2 ^ 11 + column

/-- A command leaves the message unit: the message is on its way, or fails for want of a link. -/
def State.sendMsg (s : State) (core : Nat) (c : Cmd) (dev column dst lane : Nat) (body : Body) : EngineOut :=
  let w : Who := ⟨core, c.slot⟩
  let m : Msg := { src := w, gen := c.gen, job := (s.core core).jobId, dst, lane, cw := c.cw.map (fun n => (n, c.seq)), op := c.op
                   va := c.op1 0, link := if dev = s.mod.devId then none else s.linkTo dev lane, body }
  let s := s.dropHead core 8
  let s := match c.op with
    | some n => s.modCtx w (fun x => { x with
        remote := x.remote.map (fun (o : RemoteOp) => if o.id = n then { o with dev := dev, column := column } else o) })
    | none => s
  if dev ≠ s.mod.devId ∧ m.link.isNone then .stays (s.failMsg m csLinkFail cEngineFault (m.va &&& 0x7FFFFFFFFFFFFFFF))
  else .stays (s.post m)

/-- The target core of an own-device column that must hold a part of the issuer's job, or none (R261). -/
def State.partner? (s : State) (core column : Nat) : Option Nat :=
  match s.physOf column with
  | none => none
  | some k => match s.sameJob core k with
    | (false, false) => none
    | _ => some k

/-- On another device the target may be an unmapped core, or hold no part of the job: which it is is not this device's to know
(R261, R454). (DESIGN CHOICE, notes/assumptions/141.md) -/
def State.nobodyAfar (s : State) : Bool := Config.bit s.tick 259

/-- The direct writes that a command's context had issued before it (R283). -/
def Cmd.behind (c : Cmd) (core : Nat) (r : Req) : Bool := decide (r.who = ⟨core, c.slot⟩) && decide (r.no < c.no)

/-- The head of the RPC queue is translated, checked and sent (R261 to R265, R447 to R454). One that reads storage of the own core goes
behind its context's earlier direct writes to it (R283). -/
def State.doRpc (s : State) (core : Nat) (c : Cmd) : EngineOut :=
  let va := c.op1 0
  let n := match c.instr with
    | .rpcAmo _ d _ _ _ => if d then 8 else 4
    | .rpcGet w _ _ _ _ => w.bytes
    | .rpcPut f _ _ _ _ => putBytes f
    | _ => 1
  let writes := match c.instr with
    | .rpcAmo .. => true
    | .rpcPut .. => true
    | _ => false
  let calls := match c.instr with
    | .rpcCall .. => true
    | _ => false
  -- a gateway block's target column does not count (R337)
  let isBlock := match c.instr with
    | .rpcCall true _ idx _ _ _ _ => decide (idx = 63)
    | _ => false
  match c.instr with
  | .sendm _ idx _ _ =>
    let t := sendTarget va
    let body := Body.send idx (c.op1 1)
    if s.mod.domain ≤ t.1 then .fault s cTranslation s.openTval
    else if t.1 ≠ s.mod.devId then
      if 1152 ≤ t.2 ∨ s.nobodyAfar then .fault s cTranslation s.openTval
      else s.sendMsg core c t.1 t.2 (afar t.1 t.2) (idx % 4) body
    else match s.partner? core t.2 with
    | none => .fault s cTranslation s.openTval
    | some k => s.sendMsg core c t.1 t.2 k (idx % 4) body
  | _ =>
    if va.toNat % n ≠ 0 then .fault s cMisaligned va
    else
      let p : Port := { core, client := .queue core 8, reach := .remote, kind := 2, queue := 8 }
      match s.engPa p c { write := writes } va.toNat with
      | .fault k => .fault s k va
      | .wait s => .wait s
      | .ok pa s =>
        let l := s.locate pa
        let dev := pa / 2 ^ 58
        let column := pa / 2 ^ 47 % 2 ^ 11
        let lane := laneOf pa
        let onVault := match l with
          | .vault .. => true
          | .other _ => decide (pa % 2 ^ 47 < 0x10000000)
          | _ => false
        let isShadow := match l with
          | .scratch _ off => inShadow off n
          | .other _ => !onVault && inShadow (pa % 2 ^ 47 - 0x10000000) n
          | _ => false
        let readsOwn := match c.instr, l with
          | .rpcAmo .., .vault o _ | .rpcAmo .., .scratch o _ | .rpcGet .., .vault o _ | .rpcGet .., .scratch o _ => decide (o = core)
          | _, _ => false
        let s := if readsOwn then s.performWhere core (c.behind core) else s
        let body : Body := match c.instr with
          | .rpcAmo op d _ _ _ => .amo l.key op d (c.op1 1)
          | .rpcGet w sg m _ _ => .get l.key w sg m
          | .rpcPut f _ _ _ _ => .put l.key (natLE n (c.op1 1).toNat) (decide (f = .full)) c.credit
          | .rpcCall nr _ idx m _ len _ =>
            .call nr idx ((upTo 4).map (fun k => c.op1 (2 + k))) ((c.desc.flatMap (fun w => natLE 8 w.toNat)).take len) m
          | _ => .ended
        match refuse .remote core false l with
        | some k => .fault s k va
        | none =>
          if writes && decide (c.pl = 0) && isShadow then .fault s cPrivilege va
          else if readsOwn && s.buffers core (c.behind core) then .wait s
          else match c.instr, onVault with
          | .rpcPut .full _ _ _ _, true => .fault s cIllegalOperand va
          | _, _ =>
            if dev ≠ s.mod.devId then
              if !isBlock && s.nobodyAfar then .fault s cTranslation va
              else s.sendMsg core c dev column (afar dev (if isBlock then 0 else column)) lane body
            else
              match s.physOf column, s.partner? core column with
              | some _, some k => s.sendMsg core c dev column k lane body
              | some k, none => if onVault && !calls then s.sendMsg core c dev column k lane body else .fault s cTranslation va
              | none, _ => .fault s cTranslation va

/-! ## The steps -/

/-- Put the n-th message back with a mark on it. -/
def State.modMsg (s : State) (n : Nat) (f : Msg → Msg) : State := { s with fabric := modAt f s.fabric n }

/-- Two messages travel from one core to one agent on one lane (R271). -/
def Msg.sameLane (q m : Msg) : Bool :=
  q.body.laned && m.body.laned && decide (q.src.core = m.src.core ∧ q.dst = m.dst ∧ q.lane = m.lane)

/-- An earlier message of the same core, destination and lane is still on its way (R291). -/
def aheadOf (l : List Msg) (m : Msg) : Bool := l.any (fun q => q.sameLane m && q.body.ofUnit && q.refused.isNone)

/-- A message of the same core and lane stands refused at the agent ahead of this one (R271). -/
def State.behindRefused (s : State) (m : Msg) : Bool :=
  s.fabric.any (fun q => q.sameLane m && q.refused.isSome && (m.refused.isNone || decide (q.since < m.since)))

/-- The lists of an agent's refused messages are full (R271). -/
def State.listsFull (s : State) (core : Nat) : Bool :=
  decide (2048 ≤ (s.fabric.filter (fun q => decide (q.dst = core) && q.refused.isSome && decide (q.refused ≠ some .lane))).length)

/-- The handler tables that lie in a core's agent region: those of the part that runs there and of the one that is saved (R77). -/
def Core.tables (c : Core) : List Nat :=
  c.part.regs.htabBase.toNat :: (c.saved.map (fun (im : Image) => im.part.regs.htabBase.toNat)).toList

/-- The agent notes a refusal in its state, beside the handler tables of its region; where, and in what layout, is not given (R18, R77, R271,
notes/assumptions/118.md). -/
def State.noteRefusal (s : State) (core : Nat) : State :=
  let blocks := ((upTo 16).map (fun k => 0x0B150000 + 1024 * k)).filter (fun b => decide (b ∉ (s.core core).tables))
  let n := Config.nat s.tick 258
  let key := coreKey core (blocks.getD (n / 32 % blocks.length) 0 + n % 32 * 32)
  (s.store key ((upTo 32).map (fun j => BitVec.ofNat 8 (Config.nat s.tick (2 ^ 34 + j))))).getD s

/-- A message waits at a bank of its agent, which has accepted it (R168). -/
def State.atBankOf (s : State) (m : Msg) : Bool :=
  let there := fun (key : Nat) => isVault key && ((s.bank (keyCore key) (bankOf (keyOff key))).place? m.client).isSome
  match m.body with
  | .put key _ _ _ => there key
  | .amo key _ _ _ => there key
  | .get key _ _ _ => there key
  | .leg _ _ l => there l.key
  | _ => false

/-- An older message waits for the resource (R271). -/
def State.waitsFor (s : State) (m : Msg) (r : Resource) : Bool :=
  s.fabric.any (fun q => decide (q.dst = m.dst) && decide (q.refused = some r))

/-- The resources that a message needs at its agent. -/
def State.needs (s : State) (m : Msg) : List Resource :=
  if m.body.needsCore && s.diverts m.dst m.job then [.spill]
  else match m.body with
    | .call _ _ _ p _ => if p.isEmpty then [.handler] else [.handler, .ring]
    | .send idx _ => if ((s.mail m.dst).box idx).state = .absent ∨ m.src.core = m.dst then [] else [.overflow]
    | .gateway .. => [.ring]
    | _ => []

/-- The agent refuses the n-th message, and keeps its place in the order of refusal. -/
def State.refuseMsg (s : State) (n : Nat) (m : Msg) (r : Resource) : State :=
  (s.modMsg n (fun m => { m with
    refused := some r, since := if m.refused.isSome then m.since else s.tick, noticed := false })).noteRefusal m.dst

/-- The agent takes the n-th message: accepts it, or refuses it for a resource, which for an older message that waits for it is not
free, or for its lane (R271). The answer says whether it was accepted. -/
def State.takeOne (s : State) (n : Nat) (m : Msg) : State × Bool :=
  let arrives := { s with fabric := dropAt s.fabric n }
  if s.atBankOf m then
    match arrives.acceptHere m with
    | .ok t => (t, true)
    | .refused r => (s.refuseMsg n m r, false)
    | .busy mark => (mark s, false)
  else if m.refused.isSome && decide (m.refused ≠ some .lane) && !m.noticed then (s, false)
  else if s.behindRefused m then (if m.refused.isSome then s else s.refuseMsg n m .lane, false)
  else if s.listsFull m.dst && !m.noticed then (s, false)
  else
    let s := s.redeliverAll m.dst
    match ({ s with fabric := dropAt s.fabric n }).accept { m with refused := none, noticed := false } with
    | .ok t =>
      match (if m.noticed then none else (s.needs m).find? (s.waitsFor m)) with
      | some r => (s.refuseMsg n m r, false)
      | none => (t, true)
    | .refused r => (s.refuseMsg n m r, false)
    | .busy mark => (mark s, false)

/-- Those that were refused only for an earlier message of their lane are taken directly after it (R271). (DEDUCED,
notes/assumptions/146.md) -/
def State.takeLane (s : State) (m : Msg) : Nat → State
  | 0 => s
  | k + 1 =>
    match s.fabric.findIdx? (fun q => q.sameLane m && decide (q.refused = some .lane) && !s.behindRefused q) with
    | none => s
    | some n =>
      match (s.fabric[n]?).map (s.takeOne n) with
      | some (t, true) => t.takeLane m k
      | some (t, false) => t
      | none => s

/-- The agent takes the n-th message, and behind it what waited for its lane alone. -/
def State.takeMsg (s : State) (n : Nat) (m : Msg) : State :=
  match s.takeOne n m with
  | (t, true) => t.takeLane m s.fabric.length
  | (t, false) => t

/-- MESSAGE_ARRIVAL: the agent takes the n-th message, accepts it or refuses it. -/
def execMessageArrival (n : Nat) (s : State) : Host.Outcome State Fault Refusal :=
  event (
    match s.fabric[n]? with
    | none => s
    | some m =>
      let mine := m.body.ofUnit || (match m.body with
        | .leg .. => true
        | .gateway .. => true
        | .word .. => true
        | _ => false)
      if !s.agentOn || !mine || (m.body.ofUnit && aheadOf (s.fabric.take n) m) then s
      else if 0x1000 ≤ m.dst then { s with fabric := dropAt s.fabric n }.acceptAfar m
      else s.takeMsg n m)

/-- RESOURCE_FREE_NOTICE: the oldest message refused for a resource that is free gets its notice (R271). -/
def execResourceFreeNotice (core n : Nat) (s : State) : Host.Outcome State Fault Refusal :=
  event (
    let s := s.redeliverAll core
    match s.fabric[n]? with
    | none => s
    | some m =>
      let same := s.fabric.filter (fun q => decide (q.dst = core) && decide (q.refused = m.refused))
      if s.agentOn && decide (m.dst = core) && m.refused.isSome && !same.any (·.noticed)
          && same.all (fun q => decide (m.since ≤ q.since)) && s.resourceFree m then
        s.modMsg n (fun m => { m with noticed := true })
      else s)

/-- A handler is shipped to its owning core (R268). -/
def State.shipHandler (s : State) (core h : Nat) : State :=
  let w : Who := ⟨core, 11 + h⟩
  let c := (s.ctx w).landAll
  match c.reply with
  | none => s
  | some r =>
    (s.modPart core (fun p => { p with returns := p.returns ++ [{ pc := c.pc, g := c.regs.g, reply := r }] })).freeHandlerCtx w

/-- What follows once every write of a handler has been performed (R284, R293). -/
def State.afterWrites (s : State) (w : Who) (k : State → State) : State :=
  let t := s.flush w (fun _ => true)
  if t.flushed w (fun _ => true) then k t else t

/-- HANDLER_RETURN_TRAP: the handler's writes have been performed before its task takes over (R293). -/
def execHandlerReturnTrap (core handler : Nat) (s : State) : Host.Outcome State Fault Refusal :=
  event (
    let c := s.ctx ⟨core, 11 + handler⟩
    if s.agentOn && decide (handler < 8) && c.live && c.hold.returnTrap && decide ((s.core core).part.returns.length < 8) then
      s.afterWrites ⟨core, 11 + handler⟩ (fun s => if s.hasFaulted ⟨core, 11 + handler⟩ then s else s.shipHandler core handler)
    else s)

/-- A handler ends with its fault, once its writes have been performed (R270, R284). -/
def State.endFaulted (s : State) (core handler : Nat) : State :=
  let w : Who := ⟨core, 11 + handler⟩
  match (s.ctx w).hold.fwEntry, (s.ctx w).reply with
  | some cause, some r =>
    s.afterWrites w (fun s => ((s.freeEntry core r).freeHandlerCtx w).handlerFaulted r cause)
  | _, _ => s

/-- HANDLER_FAULT. -/
def execHandlerFault (core handler : Nat) (s : State) : Host.Outcome State Fault Refusal :=
  event (if s.agentOn && decide (handler < 8) && (s.ctx ⟨core, 11 + handler⟩).live then s.endFaulted core handler else s)

/-- Deliver a report or reply, which its core takes at once unless it must be spilled. -/
def State.deliver (s : State) (n : Nat) (want : Body → Bool) : State :=
  match s.fabric[n]? with
  | none => s
  | some m => if s.agentOn && want m.body then s.takeMsg n m else s

/-- HANDLER_END_NOTICE (R264). -/
def execHandlerEndNotice (n : Nat) (s : State) : Host.Outcome State Fault Refusal :=
  event (s.deliver n (fun b => decide (b = .ended)))

/-- REPLY_DELIVERY (R263, R269). -/
def execReplyDelivery (n : Nat) (s : State) : Host.Outcome State Fault Refusal :=
  event (s.deliver n (fun b => match b with
    | .mail .. => true
    | _ => false))

/-- REMOTE_FAILURE_REPORT (R264). -/
def execRemoteFailureReport (n : Nat) (s : State) : Host.Outcome State Fault Refusal :=
  event (s.deliver n (fun b => match b with
    | .failed .. => true
    | _ => false))

/-! ## Links (R291, R336, R337) -/

/-- GATEWAY_BLOCK_ARRIVAL: a block from a link goes to gateway `index mod G`, where a part with the sender's ASID takes it;
without one it is dropped (R337). -/
def execGatewayBlockArrival (link : Nat) (block : GatewayBlock) (s : State) : Host.Outcome State Fault Refusal :=
  event (
    let set := s.gatewaySet link
    let trained := decide (link < 16) && !decide (link ∈ s.mod.failedLinks)
    if !s.agentOn || !decide (7 ≤ s.mod.step) || !trained || decide (256 < block.payload.length) then s
    else match set[block.index % set.length]?.bind s.physOf with
    | none => s
    | some k =>
      match s.blockJob k (BitVec.ofNat 16 block.asid) with
      | none => s
      | some j =>
        s.post { src := ⟨0x1000 + link, 0⟩, gen := 0, job := j, dst := k, lane := 0, va := 0
                 body := .gateway link (block.index % 2 ^ 32) block.payload block.src (BitVec.ofNat 16 block.asid) })

/-- LINK_CRC_RETRY: the retried transfer and everything behind it on its lane go again in order, so nothing changes here
(R291). -/
def execLinkCrcRetry (link : Nat) (s : State) : Host.Outcome State Fault Refusal := event s

end Sys2Proof.Machine
end

