-- ==== Sys2Proof/Machine/Xlate.lean ====
section
/-! DEFINITION. The cluster's translation unit: the end of a walk, range tables, the fault buffer, replay and invalidation
(R150 to R159, R393, R466, R467). -/

namespace Sys2Proof.Machine

/-! ## Events of the cores (R320) -/

/-- Latch an event at a core. -/
def State.latchEvent (s : State) (core bit : Nat) : State :=
  s.modMarks core (fun m => { m with events := m.events ||| (1#6 <<< bit) })

/-- The physical cores of a cluster. -/
def coresOfCluster (c : Nat) : List Nat := (upTo 25).map (physAt c)

/-! ## The fault buffer (R157) -/

/-- An entry of the fault buffer: page size code, address space and VA[56:12] of the page. -/
def faultEntry (size : Nat) (asid : BitVec 16) (page : Nat) : Word :=
  BitVec.ofNat 64 (2 ^ 63 + size * 2 ^ 61 + asid.toNat * 2 ^ 45 + page / 2 ^ 12)

/-- FAULT_RECORD: a parked request joins its page's entry, or is recorded, or is dropped; the cluster's cores learn of the
last two. -/
def State.recordPark (s : State) (cluster size : Nat) (asid : BitVec 16) (page : Nat) : State :=
  let c := s.cluster cluster
  let e := faultEntry size asid page
  let tell := fun (bit : Nat) (s : State) => forEach (coresOfCluster cluster) s (fun k s => s.latchEvent k bit)
  if e ∈ c.fbuf then s
  else if c.fbuf.length < 8 then tell 0 (s.modCluster cluster (fun c => { c with fbuf := c.fbuf ++ [e] }))
  else tell 1 (s.modCluster cluster (fun c => { c with dropped := true, dropCount := min 255 (c.dropCount + 1) }))

/-! ## Walks (R150 to R154, R156) -/

/-- The walks that the next read of a walk is for: itself, and those that a replay walks with it for one page (R158). -/
def Walk.mates (x y : Walk) : Bool := x.page.isSome && decide (y.page = x.page ∧ y.asid = x.asid ∧ y.state = x.state)

/-- A walk reads its next entry, once the range table of its address space has been read: a range wins over any page (R154). -/
def State.walkOn (s : State) (cluster : Nat) (x : Walk) : Option Walk :=
  let c := s.cluster cluster
  match x.state with
  | .walking .. =>
    if x.asid ∉ c.read then none
    else match bestRange c.ranges x.asid x.va with
    | some m => some { x with state := .done (some m) }
    | none => some (s.walkLevel x)
  | _ => none

/-- The n-th walk of a cluster and those with it read an entry: what each comes to, or none for the other walks. -/
def State.walkAll (s : State) (cluster n : Nat) (x : Walk) : List (Walk × Option Walk) :=
  let l := (s.cluster cluster).walks
  ((upTo l.length).zip l).map (fun p => (p.2, if p.1 = n || x.mates p.2 then s.walkOn cluster p.2 else none))

def State.setWalks (s : State) (cluster : Nat) (l : List (Walk × Option Walk)) : State :=
  s.modCluster cluster (fun c => { c with walks := l.map (fun p => p.2.getD p.1) })

/-- One more entry is read, by a walk that goes on behind it. -/
def State.walkRead (s : State) (cluster n : Nat) : State :=
  match (s.cluster cluster).walks[n]? with
  | none => s
  | some x =>
    match (s.walkOn cluster x).map Walk.state with
    | some (WalkState.walking ..) => s.setWalks cluster (s.walkAll cluster n x)
    | _ => s

/-- What the end of a walk leaves: its page is cached, or its fault recorded. A range is in the L2 already. -/
def State.walkEnded (s : State) (cluster : Nat) (x : Walk) : State :=
  match x.state with
  | .done (some m) =>
    if m ∈ (s.cluster cluster).ranges then s
    else s.modCluster cluster (fun c => { c with pages := keepMapping s.tick 2048 c.pages m })
  | .parked size page => s.recordPark cluster size x.asid page
  | _ => s

/-- PAGE_WALK_END: the walk reads its last entry: its translation is cached, or it has none, or it parks. -/
def execPageWalkEnd (cluster n : Nat) (s : State) : Host.Outcome State Fault Refusal :=
  event (
    match (s.cluster cluster).walks[n]? with
    | none => s
    | some x =>
      match s.walkOn cluster x with
      | none => s
      | some y =>
        match y.state with
        | .walking .. => s
        | _ =>
          let l := s.walkAll cluster n x
          forEach (l.filterMap (·.2)) (s.setWalks cluster l) (fun z s => s.walkEnded cluster z))

/-- The range entries that a cluster's L2 can hold (R154). -/
def rangeEntries : Nat := 64

/-- Make room for the ranges of an address space: as many other address spaces as needed leave, and are read again when they
are next used. -/
def Cluster.evictRanges (c : Cluster) (n : Nat) : List (BitVec 16) → Cluster
  | [] => c
  | b :: l =>
    if c.ranges.length + n ≤ rangeEntries then c
    else Cluster.evictRanges { c with
      read := c.read.filter (fun a => decide (a ≠ b))
      ranges := c.ranges.filter (fun (m : Mapping) => decide (m.asid ≠ b)) } n l

/-- RANGE_TABLE_READ: the L2 reads the range table of an address space that a core of its cluster uses (R153, R154). -/
def execRangeTableRead (cluster asid : Nat) (s : State) : Host.Outcome State Fault Refusal :=
  event (
    let a := BitVec.ofNat 16 asid
    let e := s.dx.asids.get {} a.toNat
    let used := (coresOfCluster cluster).any (fun k => (s.core k).run.isSome && decide ((s.core k).asid = a))
    if decide (a ∈ (s.cluster cluster).read) || !used || !s.mod.powered then s
    else
      let l := (upTo (min e.rcount rangeEntries)).filterMap (s.rangeEntry a e.rtab)
      s.modCluster cluster (fun c =>
        let c := { c with ranges := c.ranges.filter (fun (m : Mapping) => decide (m.asid ≠ a)) }
        let c := c.evictRanges l.length c.read
        { c with read := c.read ++ [a], ranges := c.ranges ++ l }))

/-! ## The forms -/

/-- A walk starts at the top table of its address space. -/
def State.fromRoot (s : State) (x : Walk) : Walk :=
  { x with state := .walking 4 (((s.dx.asids.get {} x.asid.toNat).ptroot).getD 0) }

/-- A mapping or walk that an invalidation names: its address space and, for pages, the address. -/
def invNames (kind : InvKind) (own : BitVec 16) (x : Word) (asid : BitVec 16) (covers : Nat → Bool) : Bool :=
  match kind with
  | .all => true
  | .asid => decide (asid = x.setWidth 16)
  | .page => decide (asid = own) && covers x.toNat
  | .ranges => decide (asid = x.setWidth 16)

/-- R159, R466: pages and ranges leave every L1 and L2; walks in progress that the removal meets restart. -/
def execTlbInv (a : Nat) (kind : InvKind) (s : State) : Host.Outcome State Fault Refusal :=
  let i := Instr.tlbInv a kind
  run i s (fun w s =>
    let x := s.g w a
    let own := s.asid w.core
    let bad := match kind with
      | .all => false
      | .page => decide (2 ^ 57 ≤ x.toNat)
      | _ => decide (2 ^ 16 ≤ x.toNat)
    if bad then .done (s.trapSync w cIllegalOperand x)
    else
      let names := fun (m : Mapping) => invNames kind own x m.asid (m.covers m.asid)
      let keepPage := fun (m : Mapping) => kind = .ranges || !names m
      let keepRange := fun (m : Mapping) => kind = .page || !names m
      let restart := fun (t : Walk) => match t.state with
        | .walking .. =>
          if invNames kind own x t.asid (fun va => decide (va / 2 ^ 30 = t.va / 2 ^ 30)) then
            s.fromRoot t
          else t
        | _ => t
      let unread := fun (l : List (BitVec 16)) => match kind with
        | .page => l
        | _ => l.filter (fun b => !invNames kind own x b (fun _ => false))
      .done (({ s with
        cores := s.cores.map (fun (p : Nat × Core) => (p.1, { p.2 with
          l1Pages := p.2.l1Pages.filter keepPage, l1Ranges := p.2.l1Ranges.filter keepRange }))
        clusters := s.clusters.map (fun (p : Nat × Cluster) => (p.1, { p.2 with
          pages := p.2.pages.filter keepPage, ranges := p.2.ranges.filter keepRange
          read := unread p.2.read, walks := p.2.walks.map restart })) }).advance w i))

/-- R158, R467: the parked requests of the cluster walk afresh, those on one page together. -/
def execTlbReplay (s : State) : Host.Outcome State Fault Refusal :=
  run .tlbReplay s (fun w s =>
    let again := fun (t : Walk) => match t.state with
      | .parked size page => { s.fromRoot t with page := some (size, page) }
      | _ => t
    .done ((s.modCluster (clusterOf w.core) (fun c => { c with walks := c.walks.map again })).advance w .tlbReplay))

/-- R157, R393: the oldest entry, or 0. -/
def execFbufPop (d : Nat) (s : State) : Host.Outcome State Fault Refusal :=
  let i := Instr.fbufPop d
  run i s (fun w s =>
    let k := clusterOf w.core
    match (s.cluster k).fbuf with
    | [] => .done ((s.result w 4 (.g d 0)).advance w i)
    | e :: rest => .done (((s.modCluster k (fun c => { c with fbuf := rest })).result w 4 (.g d e)).advance w i))

/-- R320: waits for an event; the latch is written and cleared as one step. -/
def execEvwait (d : Nat) (s : State) : Host.Outcome State Fault Refusal :=
  let i := Instr.evwait d
  run i s (fun w s =>
    let e := (s.core w.core).marks.events
    if e = 0 then waits
    else .done (((s.modMarks w.core (fun m => { m with events := 0 })).setG w d (e.setWidth 64)).advance w i))

end Sys2Proof.Machine
end

