-- ==== Sys2Proof/Machine/Fetch.lean ====
section
/-! DEFINITION. Fetching and decoding the instruction a context stands at (R80, R81, R94, R97, R503), and choosing whether
the context may issue at all (R32, R317). -/

namespace Sys2Proof.Machine

/-- A fetch block of a context, or why there is none: a trap with its cause and TVAL, or a wait. -/
inductive Block where
  | bytes (l : List Byte) (s : State)
  | trap (cause : Nat) (tval : Word) (s : State)
  | wait (s : State)

/-- The blocks that the instruction store can hold (R14). -/
def codeBlocks : Nat := 2048

/-- Keep a block; which one makes room is not given. -/
def keepBlock (tick : Nat) (l : Store (List Byte)) (n : Nat) (block : List Byte) : Store (List Byte) :=
  if l.length < codeBlocks || l.any (fun p => decide (p.1 = n)) then l.set n block
  else Store.set (dropAt l (Config.nat tick 204 % codeBlocks)) n block

/-- The fetch block at an address: it is translated and checked, then read from the own vault at the mapped offset (R503, R140),
through the instruction store, which may keep an old copy (R97). `refill` reads memory whatever the store holds. Poison is
reported at the first poisoned byte of the block (R81, R164). -/
def State.fetchBlock (s : State) (w : Who) (refill : Bool) : Block :=
  let core := w.core
  let pc := (s.ctx w).pc
  let asid := s.asid core
  let pl := s.pl w
  let me := Client.fetch w
  let src := directSource w 2
  match s.resolve me core asid pl { exec := true } pc.toNat with
  | .fault c => .trap c pc (s.doneWalk me core pc.toNat)
  | .miss => .wait (s.askWalk me core asid { exec := true } (decide (pl = 0)) pc.toNat)
  | .ok pa =>
    let off := pa % 2 ^ 47 / 32 * 32
    let t := (s.doneWalk me core pc.toNat).fillL1 core asid pc.toNat
    if !isGeneral off then .trap cTranslation pc t
    else
      let held := (s.core core).code.get [] (off / 32)
      if !held.isEmpty && !refill && Config.bit s.tick 202 then .bytes held (t.leaveBank core off me)
      else
        match t.atPlace me core off with
        | none => .wait ((s.keepPa me core pc.toNat pa).waitBank me core off src.charged)
        | some u =>
          let key := coreKey core off
          match (u.touchRow core off src).poisonAt key 32 with
          | (s, some j) => .trap cUncorrectable (BitVec.ofNat 64 (pc.toNat / 32 * 32 + j)) s
          | (s, none) =>
            let l := s.memory.read key 32
            .bytes l (s.modCore core (fun c => { c with code := keepBlock s.tick c.code (off / 32) l }))

/-- The instruction at the PC in its fetch block (R80, R81, R94). -/
def decodeBlock (pc : Word) (block : List Byte) : Except Illegal Instr :=
  decodeAt pc.toNat (ofBytesLE ((block.drop (pc.toNat % 32)).take 16))

/-- The trap of a word that is no instruction (R94). -/
def State.illegal (s : State) (w : Who) : Illegal → State
  | .fetch => s.trapSync w cIllegalFetch (s.ctx w).pc
  | .instr reason opc sub field => s.trapSync w cIllegalInstr (illegalTval reason opc sub field)

/-- The forms of the vector class (R33, R323). -/
def isVector (i : Instr) : Bool := decide ((opcSubOf i).1 / 128 = 3)

/-- The asynchronous trap that a context takes at its next boundary, in the order of R317: its cause, TVAL, and the state
with it no longer pending. Nothing is taken in trap service (R314), where a divergence found waits too and is taken behind every `sret` while
its record is held (DESIGN CHOICE, notes/assumptions/154.md); nor before the issue of a `tcopy` has ended (R464); nor while a restartable
instruction is between two of its steps, whose progress such a trap's TVAL could not hold (R55; DEDUCED, notes/assumptions/156.md). -/
def State.nextAsync (s : State) (w : Who) : Option (Nat × Word × State) :=
  let c := s.ctx w
  let p := c.hold.pending
  if w.isHandler || c.status.intrap || c.hold.issuing || c.hold.progress.isSome then none
  else match c.hold.divergence with
  | d :: ds =>
    let l := d.unitList
    let kind := if isVector d.instr then 1 else 0
    some (cShadow, BitVec.ofNat 64 (l.headD 0 + l.length * 2 ^ 8 + (ds.length + 1) * 2 ^ 16 + kind * 2 ^ 58), s)
  | [] =>
    match p.preempt, p.command, p.matrix, p.engine, p.late, p.dram with
    | some t, _, _, _, _, _ => some (cPreempt, t, s.modPending w (fun p => { p with preempt := none }))
    | none, some (k, t), _, _, _, _ => some (k, t, s.modPending w (fun p => { p with command := none }))
    | none, none, some t, _, _, _ => some (cShadow, t, s.modPending w (fun p => { p with matrix := none }))
    | none, none, none, some (k, t), _, _ => some (k, t, s.modPending w (fun p => { p with engine := none }))
    | none, none, none, none, some t, _ => some (cUncorrectable, t, s.modPending w (fun p => { p with late := none }))
    | none, none, none, none, none, some t =>
      if s.isStalled w then none else
      some (cDramEvent, t, s.modHold w (fun h => { h with
        pending := { h.pending with dram := none }
        dramTrap := [0, 2].filter (fun q => decide ((s.queue w.core q).suspended = some w.slot)) }))
    | none, none, none, none, none, none => none

/-- The pipe an instruction issues to (R33): 0 scalar, 1 vector, 2 the engine-command port. -/
def pipeOf (i : Instr) : Nat :=
  if isVector i then 1 else if i.eng.isSome then 2 else 0

/-- Where an instruction of a context issues: one of the three pipes, or the handlers' one slot, 3 (R267). -/
def Who.pipeOf (w : Who) (i : Instr) : Nat := if w.isHandler then 3 else Machine.pipeOf i

/-- The contexts that compete with a context: the 11 of the core (R32), or its eight handlers (R267). -/
def Who.rivals (w : Who) : List Nat := if w.isHandler then (upTo 8).map (· + 11) else upTo 11

/-- A divergence is found within the result distance of its instruction: until then the context may go on issuing
(R324). -/
def State.notFoundYet (s : State) (w : Who) : Bool :=
  match (s.ctx w).hold.divergence with
  | d :: _ => decide (d.age < 3) && Config.bit s.tick 203
  | [] => false

def Pointers.at (p : Pointers) (pipe : Nat) : Nat :=
  if pipe = 0 then p.scalar else if pipe = 1 then p.vector else if pipe = 2 then p.engine else p.handler

/-- A pipe's choice has reached a context (R32, R501). -/
def Pointers.to (p : Pointers) (pipe slot : Nat) : Pointers :=
  if pipe = 0 then { p with scalar := slot } else if pipe = 1 then { p with vector := slot }
  else if pipe = 2 then { p with engine := slot } else { p with handler := slot }

/-- A context's next instruction is ready for a pipe: the context interlocks on nothing, and an engine command has space in its queue
(R32). (DESIGN CHOICE, notes/assumptions/106.md) -/
def State.readyFor (s : State) (w : Who) (pipe : Nat) : Bool :=
  (s.ctx w).live && s.mayIssue w && (s.ctx w).hold.waiting.isNone && (s.ctx w).hold.fwEntry.isNone
    && ((s.nextAsync w).isNone || s.notFoundYet w) && (match s.fetchBlock w false with
      | .bytes l t => (match decodeBlock (t.ctx w).pc l with
        | .ok i => decide (w.pipeOf i = pipe) && t.hasRoom w i
        | .error _ => false)
      | _ => false)

/-- The contexts that a pipe comes to before `w`, from the one behind that which it last issued from (R32). -/
def State.before (s : State) (w : Who) (pipe : Nat) : List Nat :=
  let last := (s.core w.core).pointers.at pipe
  let l := w.rivals
  (l.filter (fun k => decide (last < k)) ++ l.filter (fun k => decide (k ≤ last))).takeWhile (fun k => decide (k ≠ w.slot))

/-- A context is the first ready one behind the context that a pipe last issued from (R32, R267). -/
def State.isChosen (s : State) (w : Who) (pipe : Nat) : Bool := (s.before w pipe).all (fun k => !s.readyFor ⟨w.core, k⟩ pipe)

/-- No other context that competes for a pipe is ready (R501). -/
def State.isAlone (s : State) (w : Who) (pipe : Nat) : Bool :=
  w.rivals.all (fun k => decide (k = w.slot) || !s.readyFor ⟨w.core, k⟩ pipe)

/-- A pipe's choice reaches a context, and a skip mark is cleared (R32, R501). -/
def State.choose (s : State) (w : Who) (pipe : Nat) : State :=
  (s.modCore w.core (fun c => { c with pointers := c.pointers.to pipe w.slot })).modHold w (fun h =>
    { h with yields := h.yields &&& ~~~(1#3 <<< pipe) })

/-- The full/empty word that a context waits at (R146). -/
def State.waitsAt (s : State) (w : Who) : Option Nat :=
  s.cores.findSome? (fun c => (c.2.words.find? (fun f => decide (f.who = w))).map (·.key))

/-- The next thing a context does when it may issue: the firmware's action that is due (R313); then, unless an asynchronous trap is to be
taken first (R317), the instruction that it has issued and interlocks on, or the one at its PC. A pipe chooses the ready contexts in turn
(R32), and passes a yielding one over once while another is ready (R501). A `stef` that waits behind the context's own writes is looked at
anew (R284). -/
inductive Turn where
  | idle
  | becomes (s : State)
  | runs (i : Instr) (s : State)

def State.turn (s : State) (w : Who) : Turn :=
  if (s.ctx w).hold.hand = some .idle ∧ !(s.core w.core).preemption.stops then
    if (s.core w.core).part.mail.anyPresent || (s.ctx w).hold.anyPending then .becomes (s.finish w .idle) else .idle
  else if (s.ctx w).hold.hand.isSome then (match s.waitsAt w with
    | some key => .becomes (s.serveWords key)
    | none => .idle)
  else if !s.mayIssue w then .idle
  else match (s.ctx w).hold.fwEntry with
  | some c => .becomes (s.firmwareAct w c)
  | none =>
    if (s.nextAsync w).isSome && !s.notFoundYet w then .idle
    else match (s.ctx w).hold.waiting with
    | some i => .runs i { s with focus := w }
    | none =>
    match s.fetchBlock w false with
    | .trap c tval t => .becomes (t.trapSync w c tval)
    | .wait t => .becomes t
    | .bytes l t =>
      match decodeBlock (t.ctx w).pc l with
      | .ok i =>
        let pipe := w.pipeOf i
        if !(t.hasRoom w i && t.isChosen w pipe) then .becomes t
        else if (t.ctx w).hold.yields.getLsbD pipe && !t.isAlone w pipe then .becomes (t.choose w pipe)
        else .runs i { t.choose w pipe with focus := w }
      | .error e => .becomes (t.illegal w e)

/-- The moves that are no step of the table: upsets, misreads and failures that the environment plants (R161, R182, R184, R189,
R321), one level of a page walk (R150), and the end of a Welt's switching (R184, R185). -/
def State.plant (s : State) : Move → State
  | .upset k u => s.modMarks k (fun m => { m with upsets := m.upsets ++ [u] })
  | .beats k f => s.modMarks k (fun m => { m with beats := f })
  | .stripe k f => s.modMarks k (fun m => { m with stripe := f })
  | .walkRead c n => s.walkRead c n
  | .weltDone k => s.switched k
  | .weltFails k w n => s.segmentFails k w n
  | .recordLost k => s.modVault k (fun v => { v with recordLost := true })
  | _ => s

/-- Time goes on between two steps, by free amounts: TS in nanoseconds and the DRAM clock with it, the core clock in cycles, and
WDOG_RUN of every unpaused phase with TS (R3, R259). -/
def State.elapse (s : State) : State :=
  let ns := Config.nat s.tick 210
  { s with
    ts := (s.ts + ns) % 2 ^ 64
    clock := s.clock + Config.nat s.tick 211
    dram := s.dram + 2 * ns
    units := s.units.map (fun p => (p.1, { p.2 with groups := p.2.groups.map (fun (q : Nat × Group) =>
      (q.1, if q.2.live && decide (q.2.paused = 0) then { q.2 with wdogRun := q.2.wdogRun + ns } else q.2)) }))
    tick := s.tick + 1 }

/-- The machine's next move, and the state that makes it: the agenda's head, or a free one. -/
def State.nextMove (s : State) : Move × State :=
  match s.agenda with
  | m :: rest => (m, { s.elapse with agenda := rest })
  | [] => (Config.move s.tick, s.elapse)

/-- Store code bytes and mark the sectors they touch as clean. -/
def Memory.place (m : Memory) (key : Nat) (bytes : List Byte) : Memory :=
  let m := m.writeBytes key bytes
  (upTo (bytes.length / 32 + 1)).foldl (fun m j => m.clear (key + 32 * j)) m

end Sys2Proof.Machine
end

