-- ==== Sys2Proof/Machine/Tasks.lean ====
section
/-! DEFINITION. The steps of the contexts beside issuing, of the task unit and of the deques: asynchronous traps, fetches,
task starts, steals and the end of a part (R27 to R42, R268, R300, R317). -/

namespace Sys2Proof

/-- Items that neither a trap nor the start of a save withdraws: engine commands that write a register (R213, R308), and
what the DX or the vault agent has taken up (R330, R388, R498). -/
def Instr.staysInHand : Instr → Bool
  | .cmap .. | .ctxRest _ | .ctxSave _ | .weltRestore | .weltRetire .. => true
  | i => i.ownsRegister

end Sys2Proof

namespace Sys2Proof.Machine

/-- The part of a core runs, outside trap service of the DX (R27, R308, R328). -/
def State.partOn (s : State) (core : Nat) : Bool :=
  let c := s.core core
  s.mod.powered && decide (7 ≤ s.mod.step) && c.run.isSome && !c.marks.underScan && !c.preemption.stops

/-- A wait is over for a trap or a pre-emption: `idle` completes, every other item is withdrawn (R296, R412). -/
def State.endWait (s : State) (w : Who) : State :=
  let s := if (s.ctx w).hold.hand = some .idle then s.finish w .idle else s
  s.withdraw w

/-- ASYNC_TRAP_TAKE: at an instruction boundary the first pending trap in the order of R317 is taken. -/
def execAsyncTrapTake (core slot : Nat) (s : State) : Host.Outcome State Fault Refusal :=
  event (
    let w : Who := ⟨core, slot⟩
    let x := s.ctx w
    let k := s.core core
    let stays := match x.hold.hand with
      | some i => i.staysInHand
      | none => false
    if !s.mod.powered || decide (s.mod.step < 7) || decide (11 ≤ slot) || !x.live || k.marks.underScan || k.preemption.stops
        || stays || s.notFoundYet w || (s.nextAsync w).isNone then s
    else
      let s := s.endWait w
      match s.nextAsync w with
      | some (cause, tval, t) => t.enterTrap w cause tval (t.ctx w).pc none
      | none => s)

/-- FETCH: a context that may issue reads the block at its PC anew; a failing fetch or an illegal word is its trap (R80,
R81, R94, R97, R503). -/
def execFetch (core slot : Nat) (s : State) : Host.Outcome State Fault Refusal :=
  event (
    let w : Who := ⟨core, slot⟩
    if !s.mayIssue w || (s.ctx w).hold.waiting.isSome || (s.ctx w).hold.fwEntry.isSome || ((s.nextAsync w).isSome && !s.notFoundYet w) then s
    else match s.fetchBlock w true with
    | .trap c tval t => t.trapSync w c tval
    | .wait t => t
    | .bytes l t =>
      match decodeBlock (t.ctx w).pc l with
      | .ok _ => t
      | .error e => t.illegal w e)

/-! ## The task unit (R29, R30, R39, R268) -/

/-- A shipped handler starts as a task (R268). -/
def State.startReturn (s : State) (w : Who) (r : ReturnRecord) : State :=
  let g := if r.g.get 0 29 = 0 then r.g.set 29 (stackTop w.slot) else r.g
  s.modCtx w (fun c => c.start w.slot r.pc { g } 0 (some r.reply))

/-- TASK_START: a handler-return record, or the youngest record of the deque, starts on the lowest FREE helper. -/
def execTaskStart (core : Nat) (s : State) : Host.Outcome State Fault Refusal :=
  event (
    if !s.partOn core then s
    else match s.freeHelper core with
    | none => s
    | some k =>
      let p := (s.core core).part
      match p.returns, p.deque.reverse with
      | r :: rest, _ => (s.modPart core (fun p => { p with returns := rest })).startReturn ⟨core, k⟩ r
      | [], t :: rest => (s.modPart core (fun p => { p with deque := rest.reverse })).startTask ⟨core, k⟩ t
      | [], [] => s)

/-! ## Stealing (R40 to R42) -/

/-- The job of a core's running part. -/
def State.jobOf (s : State) (core : Nat) : Option Job :=
  match (s.core core).run with
  | some r => s.dx.jobs.find? (fun j => decide (j.id = r.job))
  | none => none

/-- The victims of a core by job-relative index, in the order of a round behind the last one tried. -/
def State.victims (s : State) (core : Nat) : List Nat :=
  match (s.core core).run, s.jobOf core with
  | some r, some j =>
    let near := fun (i : Nat) => match j.parts[i]?, j.parts[r.index]? with
      | some a, some b => decide (r.domain = 2) || (decide (r.domain = 1) && decide (a / 24 = b / 24))
      | _, _ => false
    let all := (upTo j.parts.length).filter (fun i => decide (i ≠ r.index) && near i)
    let last := (s.core core).part.steal.last
    all.filter (fun i => decide (last < i)) ++ all.filter (fun i => decide (i ≤ last))
  | _, _ => []

def State.modSteal (s : State) (core : Nat) (f : Steal → Steal) : State :=
  s.modPart core (fun p => { p with steal := f p.steal })

/-- STEAL_REQUEST: an idle core asks its next victim. -/
def execStealRequest (core : Nat) (s : State) : Host.Outcome State Fault Refusal :=
  event (
    let p := (s.core core).part
    let l := s.victims core
    if !s.partOn core || !p.deque.isEmpty || (s.freeHelper core).isNone || p.steal.victim.isSome || p.steal.waiting then s
    else match l with
    | [] => s
    | v :: _ => s.modSteal core (fun x => { x with
        victim := some v, last := v, answer := none, left := some ((x.left.getD l.length) - 1) }))

/-- STEAL_ANSWER: the victim of a core's request answers with its oldest record, or "empty". -/
def execStealAnswer (core : Nat) (s : State) : Host.Outcome State Fault Refusal :=
  event (
    let x := (s.core core).part.steal
    match x.victim, x.answer, s.jobOf core with
    | some v, none, some j =>
      let k := (j.parts[v]?).bind s.physOf
      let answer := fun (s : State) (a : Option TaskRecord) => s.modSteal core (fun x => { x with answer := some a })
      match k with
      | none => answer s none
      | some k =>
        let runs := match (s.core k).run with
          | some r => decide (r.job = j.id)
          | none => false
        if !runs || !s.partOn k then answer s none
        else match (s.core k).part.deque with
        | [] => answer s none
        | t :: rest => answer (s.modPart k (fun p => { p with deque := rest })) (some t)
    | _, _, _ => s)

/-- STEAL_RECEIVE: a record starts on the thief, or lands on its deque where no helper is FREE or a pre-emption has stopped
issue (R41, R42). A full deque makes it wait (R39); once issue is stopped, where nothing else can make room for it, it starts
on a FREE helper or else lands all the same (DESIGN CHOICE, notes/assumptions/112.md). -/
def execStealReceive (core : Nat) (s : State) : Host.Outcome State Fault Refusal :=
  event (
    let x := (s.core core).part.steal
    match x.answer with
    | some (some t) =>
      let free := s.modSteal core (fun x => { last := x.last })
      let land := free.modPart core (fun p => { p with deque := p.deque ++ [t] })
      let room := decide ((s.core core).part.deque.length < 32)
      let stopped := (s.core core).preemption.stops
      if stopped && room then land
      else match s.freeHelper core with
      | some k => free.startTask ⟨core, k⟩ t
      | none => if room || stopped then land else s
    | some none =>
      s.modSteal core (fun x =>
        if x.left = some 0 then { last := x.last, waiting := true } else { x with victim := none, answer := none })
    | none => s)

/-- STEAL_BACKOFF_EXPIRY: the wait between rounds is over. -/
def execStealBackoffExpiry (core : Nat) (s : State) : Host.Outcome State Fault Refusal :=
  event (s.modSteal core (fun x => { x with waiting := false }))

/-! ## The end of a part (R31, R300) -/

/-- Every queue of a core is empty, and no load and no unaccepted remote operation is on its way. -/
def State.queuesEmpty (s : State) (core : Nat) : Bool :=
  (upTo 9).all (fun q => (s.queue core q).entries.isEmpty) && (s.core core).part.loads.isEmpty
    && !s.fabric.any (fun m => decide (m.src.core = core) && m.body.ofUnit)

/-- PART_END: what the control context's `hexit` waits for has come about, no stolen record is on its way (R43), and every
deferred arrival has been sent (R254); the part reports to the DX, and the last report ends the job OK. -/
def execPartEnd (core : Nat) (s : State) : Host.Outcome State Fault Refusal :=
  event (
    let x := s.ctx ⟨core, 0⟩
    let p := (s.core core).part
    let landing := match p.steal.answer with
      | some (some _) => true
      | _ => false
    let held := (upTo 11).any (fun k => !(s.ctx ⟨core, k⟩).held.isEmpty)
    let idle := decide ((s.freeHelper core).isSome) && (upTo 11).all (fun k => decide (k = 0) || !(s.ctx ⟨core, k⟩).live)
    match (s.core core).run, s.logicalOf core with
    | some r, some n =>
      if !s.partOn core || decide (x.hold.hand ≠ some .hexit) || !idle || !p.deque.isEmpty || !p.returns.isEmpty
          || !s.queuesEmpty core || !x.remote.isEmpty || landing || held then s
      else
        let s := s.stopPart core
        let s := { s with dx := { s.dx with jobs := s.dx.jobs.map (fun (j : Job) =>
          if j.id = r.job then { j with ended := j.ended ++ [n] } else j) } }
        match s.dx.jobs.find? (fun j => decide (j.id = r.job)) with
        | some j => if j.ended.length = j.count then s.endJob j.id stOk else s
        | none => s
    | _, _ => s)

end Sys2Proof.Machine
end

