-- ==== Sys2Proof/Machine/Dx.lean ====
section
/-! DEFINITION. The dispatch complex: arrival of jobs, the order of dispatch, launches, the end of a job and its completion
word (R297 to R307), and `jsub` (R301, R416). -/

namespace Sys2Proof.Machine

/-! ## Cores (R299, R303) -/

/-- The DX counts a core as degraded (R162, R183, R187, R326, R328). -/
def State.isDegraded (s : State) (core : Nat) : Bool :=
  let m := (s.core core).marks
  m.degraded || m.scanFailed

/-- The mapped logical cores that are not degraded. -/
def State.available (s : State) : Nat :=
  ((upTo 1152).filter (fun n => match s.physOf n with
    | some k => !s.isDegraded k
    | none => false)).length

/-- A logical core is chosen for a job that is not launched yet, or a `cmap` of it is under way. -/
def State.taken (s : State) (n : Nat) : Bool :=
  s.dx.jobs.any (fun j => j.started && !j.launched && j.closing.isNone && decide (n ∈ j.parts))
    || s.dx.moving.any (fun m => decide (m.core = n))

/-- A free core (R303). -/
def State.isFree (s : State) (n : Nat) : Bool :=
  match s.physOf n with
  | none => false
  | some k =>
    let c := s.core k
    !s.isDegraded k && c.run.isNone && c.saved.isNone && !c.marks.underScan && decide (c.preemption = .none) && !s.taken n

/-- A core that a job may pre-empt (R305). -/
def State.preemptible (s : State) (j : Job) (n : Nat) : Bool :=
  match s.physOf n with
  | none => false
  | some k =>
    let c := s.core k
    match c.run with
    | none => false
    | some r =>
      match s.dx.jobs.find? (fun x => decide (x.id = r.job)) with
      | none => false
      | some x =>
        !s.isDegraded k && !r.preempting && c.saved.isNone && decide (c.preemption = .none) && !s.taken n && decide (r.job ≠ j.id)
          && ((decide (j.tier < x.tier) && decide (j.edl < x.edl)) || (j.due && r.sliced))

/-- A core under scan, which a job of tier 0 may take (R329). -/
def State.underScan (s : State) (n : Nat) : Bool :=
  match s.physOf n with
  | none => false
  | some k => (s.core k).marks.underScan && !s.isDegraded k && !s.taken n

/-- The cores chosen for a job, in ascending logical number, if there are enough (R303, R329). `shut` says that a due job
ahead has reserved every free core. -/
def State.pick (s : State) (j : Job) (shut : Bool) : Option (List Nat) :=
  let all := upTo 1152
  let keyed := fun (n : Nat) => decide (s.dx.keys.get 0 n = j.key)
  let free := if shut then [] else all.filter s.isFree
  let pre := all.filter (s.preemptible j)
  let order := if j.key = 0 then free ++ pre
    else free.filter keyed ++ free.filter (fun n => !keyed n) ++ pre.filter keyed ++ pre.filter (fun n => !keyed n)
  let order := if order.length < j.count ∧ j.tier = 0 then order ++ all.filter s.underScan else order
  if order.length < j.count then none
  else some (all.filter (fun n => decide (n ∈ order.take j.count)))

/-! ## Completion words (R300) -/

/-- The job whose part a completion word in a scratchpad belongs to: the one that submitted the job; for a job of the
control node the one that the core holds. -/
def State.cwOwner (s : State) (core : Nat) (from_ : BitVec 32) : BitVec 32 :=
  if from_ ≠ 0 then from_
  else match (s.core core).saved, (s.core core).run with
    | some im, _ => im.run.job
    | none, some r => r.job
    | none, none => 0

/-- A completion word is written: with `stf` semantics in a scratchpad, where a saved core's is spilled (R275), and as a
whole 8-byte store in a vault or far. -/
def State.writeJobWord (s : State) (cw : Word) (from_ : BitVec 32) (job : BitVec 32) (done status : Nat) : State :=
  let x := BitVec.ofNat 64 (status + done % 2 ^ 32 * 2 ^ 16 + job.toNat % 2 ^ 16 * 2 ^ 48)
  let bytes := natLE 8 x.toNat
  if cw = 0 then s
  else match s.locate cw.toNat with
  | .scratch k off =>
    let owner := s.cwOwner k from_
    if s.diverts k owner then
      s.postWord k owner (spKey k off) x
    else s.storeFull (spKey k off) x
  | .vault k off => (s.store (coreKey k off) bytes).getD s
  | .far off => (s.store (farKey off) bytes).getD s
  | _ => s

/-- Whether a job's last writes have been performed: none of its messages and no direct write of it is on its way. -/
def State.writesDone (s : State) (id : BitVec 32) : Bool :=
  !s.fabric.any (fun m => decide (m.job = id))
    && !s.cores.any (fun p => (p.2.requests ++ p.2.vaultRequests).any (fun r => decide (r.job = id)))

/-- A job that has ended and whose writes are performed leaves the DX: its word is written, and the word bindings of its
address space are dropped (R288). -/
def State.closeJob (s : State) (j : Job) (status : Nat) : State :=
  let s := { s with
    dx := { s.dx with jobs := s.dx.jobs.filter (fun (x : Job) => decide (x.id ≠ j.id)) }
    units := s.units.map (fun (p : Nat × GroupUnit) =>
      (p.1, { p.2 with words := p.2.words.filter (fun b => decide (b.1 ≠ j.asid)) })) }
  s.writeJobWord j.cw j.from_ j.id j.ended.length status

def State.closeJobs (s : State) : State :=
  forEach s.dx.jobs s (fun j s => match j.closing with
    | some status => if s.writesDone j.id then s.closeJob j status else s
    | none => s)

/-! ## Arrival (R297, R299) -/

/-- An address names storage that can hold an 8-byte word: the reserved area of a vault holds none (R19). -/
def State.holdsWord (s : State) (a : Nat) : Bool :=
  decide (a % 8 = 0) && (match s.locate a with
    | .nowhere => false
    | .other _ => !(decide (0x0B154000 ≤ a % 2 ^ 47) && decide (a % 2 ^ 47 < 0x0B800000))
    | l => !isReserved l.key)

/-- The reserved bits of a descriptor are zero and its DOMAIN is not 3; its CW names storage for an 8-byte word. -/
def State.descValid (s : State) (d : List Word) : Bool :=
  let w := fun k => (d.getD k 0).toNat
  let cw := w 3
  let stored := decide (cw = 0) || s.holdsWord cw
  decide (w 1 / 2 ^ 57 = 0) && decide (w 1 % 8 = 0) && decide (w 4 / 2 ^ 42 = 0) && decide (w 4 / 2 ^ 31 % 2 ^ 9 = 0)
    && decide (w 4 / 2 ^ 18 % 4 ≠ 3) && (upTo 10).all (fun k => decide (w (6 + k) = 0)) && stored

/-- The descriptors that stand in a queue. -/
def State.queued (s : State) (queue : Nat) : Nat :=
  (s.dx.jobs.filter (fun j => decide (j.queue = queue) && !j.started && j.closing.isNone)).length

/-- JOB_ARRIVAL: the DX checks a descriptor; it enqueues the job with the next JOB_ID, or ends it at once. -/
def State.jobArrival (s : State) (d : List Word) (queue : Nat) (from_ : BitVec 32) : State :=
  let w := fun k => d.getD k 0
  let field := fun lo n => (w 4).toNat / 2 ^ lo % 2 ^ n
  let count := field 20 11
  let refuse := fun (status : Nat) => s.writeJobWord (if (w 3).toNat % 8 = 0 then w 3 else 0) from_ 0 0 status
  if 32 ≤ s.queued queue then refuse stQueueFull
  else if !s.descValid d then refuse stInvalidDesc
  else if count = 0 then refuse stZeroWork
  else if s.available < count then refuse stInvalidCount
  else
    let tier := field 16 2
    let deadline := (w 0).toNat
    let job : Job := {
      id := s.dx.nextJob, deadline, entry := w 1, arg := w 2, cw := w 3, keepkey := bitAt (w 4).toNat 40
      notify := bitAt (w 4).toNat 41, count, domain := field 18 2, tier, asid := BitVec.ofNat 16 (field 0 16), key := w 5
      queue, enq := s.ts, edl := min deadline (s.ts + s.dx.tbound.getD tier 0), slice := s.dx.maxslice, from_ }
    { s with dx := { s.dx with jobs := s.dx.jobs ++ [job], nextJob := s.dx.nextJob + 1 } }

/-- A queued job that needs more cores than are available ends INVALID_COUNT (R299). -/
def State.checkCounts (s : State) : State :=
  let n := s.available
  forEach (s.dx.jobs.filter (fun j => !j.started && j.closing.isNone && decide (n < j.count))) s
    (fun j s => s.endJob j.id stInvalidCount)

/-! ## Launch (R28, R304, R307) -/

/-- The residency key of a logical core at a start or restore of a part of a job. -/
def State.setKey (s : State) (n : Nat) (j : Job) : State :=
  if j.key = 0 ∧ j.keepkey then s else { s with dx := { s.dx with keys := s.dx.keys.set n j.key } }

/-- Forget a core's scratchpad: every byte zero, every word empty and clean. -/
def Memory.zeroSp (m : Memory) (core : Nat) : Memory :=
  let inSp := fun (key : Nat) => decide (spKey core 0 ≤ key) && decide (key < spKey core 0x80000)
  { m with
    bytes := m.bytes.filter (fun p => !inSp p.1)
    wordPoison := m.wordPoison.filter (fun x => !inSp (8 * x))
    full := m.full.filter (fun x => !inSp (8 * x)) }

/-- Copy `sp` sections, as offset and byte, into a scratchpad (R106). -/
def Memory.placeSp (m : Memory) (core : Nat) (l : List (Nat × Byte)) : Memory :=
  l.foldl (fun m p => m.setByte (spKey core (p.1 % 2 ^ 19)) p.2) m

/-- The marks of a core at a launch: its registers among them are as reset (R63, R307, notes/assumptions/121.md). -/
def CoreMarks.prepared (m : CoreMarks) : CoreMarks :=
  { m with actAlert := 0, actValid := false, suspects := [], scanTarget := 0, scanPattern := 0, scanState := 0, scanSig := 0 }

/-- PART_LAUNCH: the DX prepares a core and starts the control context of part `index` of a job (R28, R307). -/
def State.launchPart (s : State) (j : Job) (index n core : Nat) : State :=
  let s := (s.performWhere core (fun _ => true)).setKey n j
  let s := { s with memory := (s.memory.zeroSp core).placeSp core (Config.spSections j.asid j.entry) }
  let s := s.modCluster (clusterOf core) (fun c => { c with
    read := c.read.filter (fun b => decide (b ≠ j.asid))
    ranges := c.ranges.filter (fun m => decide (m.asid ≠ j.asid)) })
  let entry : AsidEntry := s.dx.asids.get {} j.asid.toNat
  let root := fun (x : Ctx) => { x with
    live := true
    pc := j.entry
    regs := startRegs [j.arg, BitVec.ofNat 64 index, BitVec.ofNat 64 j.count] 0 (stackTop 0) }
  s.modCore core (fun c => { c with
    part := { ctxs := c.nextCtxs.set 0 (root (c.nextCtxs.get {} 0)), regs := { tvec := entry.tvec0 } }
    run := some {
      job := j.id, asid := j.asid, index, count := j.count, domain := j.domain, tier := j.tier, notify := j.notify
      since := s.ts, preempting := c.saved.isSome }
    jobId := j.id
    asid := j.asid
    handlers := c.endedHandlers
    preemption := .none
    code := []
    marks := c.marks.prepared })

/-- Every core chosen for a job can be prepared. -/
def State.partsReady (s : State) (j : Job) : Bool :=
  j.parts.all (fun n => match s.physOf n with
    | some k =>
      let c := s.core k
      c.run.isNone && decide (c.preemption = .none) && !c.marks.underScan
    | none => false)

/-- The parts of a started job begin together, once the last save that it needs has completed. -/
def State.launch (s : State) (j : Job) : State :=
  if j.started && !j.launched && j.closing.isNone && s.partsReady j then
    let s := { s with dx := { s.dx with
      jobs := s.dx.jobs.map (fun (x : Job) => if x.id = j.id then { x with launched := true } else x) } }
    forEach ((upTo j.parts.length).zip j.parts) s (fun p s => match s.physOf p.2 with
      | some k => s.launchPart j p.1 p.2 k
      | none => s)
  else s

def State.launchAll (s : State) : State := forEach s.dx.jobs s (fun j s => s.launch j)

/-! ## Order (R302, R303) -/

/-- The order of dispatch, but for positions within a queue. -/
def Job.before (a b : Job) : Bool :=
  let x := [a.edl, a.tier, a.enq, a.queue]
  let y := [b.edl, b.tier, b.enq, b.queue]
  match (x.zip y).find? (fun p => decide (p.1 ≠ p.2)) with
  | some p => decide (p.1 < p.2)
  | none => false

/-- Put a job into dispatch order, behind those it does not come before. -/
def insertJob (l : List Job) (j : Job) : List Job :=
  match l with
  | [] => [j]
  | x :: r => if j.before x then j :: x :: r else x :: insertJob r j

/-- The job starts on its cores: parts that it pre-empts are told to stop, scans are told to abort (R308, R329). -/
def State.startJob (s : State) (j : Job) (cores : List Nat) : State :=
  let s := { s with dx := { s.dx with
    jobs := s.dx.jobs.map (fun (x : Job) => if x.id = j.id then { x with started := true, parts := cores } else x) } }
  forEach cores s (fun n s => match s.physOf n with
    | none => s
    | some k =>
      let c := s.core k
      if c.marks.underScan then
        s.modCluster (clusterOf k) (fun x => { x with scan := x.scan.map (fun t => (t.1, t.2.1, true)) })
      else if c.run.isSome then s.modCore k (fun c => { c with preemption := .called })
      else s)

/-- A core that a scan has failed stays out of dispatch: a job that had chosen it and is not launched waits again (R328). -/
def State.unchoose (s : State) (n : Nat) : State :=
  { s with dx := { s.dx with jobs := s.dx.jobs.map (fun (j : Job) =>
    if j.started && !j.launched && decide (n ∈ j.parts) then { j with started := false, parts := [] } else j) } }

/-- Take the eligible jobs in order; a due job that cannot start shuts the free cores to those behind it. -/
def State.dispatch (s : State) (shut : Bool) : List Job → State
  | [] => s
  | j :: rest =>
    match s.pick j shut with
    | some cores => (s.startJob j cores).dispatch shut rest
    | none => s.dispatch (shut || j.due) rest

/-- DX_DISPATCH: jobs that have ended leave; then the DX starts what it can, in order, and launches what is ready (R299,
R300, R303, R307). -/
def execDxDispatch (s : State) : Host.Outcome State Fault Refusal :=
  event (
    if !s.mod.powered || decide (s.mod.step < 7) then s
    else
      let s := s.closeJobs.checkCounts.launchAll
      let waiting := s.dx.jobs.filter (fun j => !j.started && j.closing.isNone)
      (s.dispatch false (waiting.foldl insertJob [])).launchAll)

/-- JOB_DUE: TS has reached a job's effective deadline (R302). -/
def execJobDue (job : Nat) (s : State) : Host.Outcome State Fault Refusal :=
  event { s with dx := { s.dx with jobs := s.dx.jobs.map (fun (j : Job) =>
    if j.id.toNat = job ∧ j.edl ≤ s.ts then { j with due := true } else j) } }

/-- MAXSLICE_REACHED: a part has run for MAXSLICE − 20 µs since its start or last restore (R305). MAXSLICE is that of the
part's job (R302). -/
def execMaxsliceReached (core : Nat) (s : State) : Host.Outcome State Fault Refusal :=
  event (
    match (s.core core).run, s.jobOf core with
    | some r, some j =>
      if j.slice ≤ s.ts - r.since + 20000 then s.modCore core (fun c => { c with run := some { r with sliced := true } }) else s
    | _, _ => s)

/-! ## jsub (R301, R416) -/

/-- Translate an address of a form that names storage and goes on with its physical address (R141 steps 2 to 6). -/
def State.physical (s : State) (w : Who) (need : Need) (va : Word) (k : Nat → State → Effect) : Effect :=
  let core := w.core
  let asid := s.asid core
  match s.translate (.ctx w) core asid (s.pl w) need va.toNat with
  | .fault c => .done ((s.doneWalk (.ctx w) core va.toNat).trapSync w c va)
  | .miss => .wait (fun s0 => s0.askWalk (.ctx w) core asid need (decide (s0.pl w = 0)) va.toNat)
  | .ok pa =>
    if s.locate pa = .nowhere then .done (s.trapSync w cTranslation va)
    else k pa ((s.doneWalk (.ctx w) core va.toNat).fillL1 core asid va.toNat)

/-- Put a field into a descriptor word. -/
def withField (x : Word) (lo n v : Nat) : Word :=
  BitVec.ofNat 64 (x.toNat - x.toNat / 2 ^ lo % 2 ^ n * 2 ^ lo + v % 2 ^ n * 2 ^ lo)

/-- R301: the DX performs the request, and its reply comes, within the step. -/
def execJsub (a b : Nat) (s : State) : Host.Outcome State Fault Refusal :=
  let i := Instr.jsub a b
  run i s (fun w s =>
    let core := w.core
    let va := s.g w a
    let count := s.g w b
    if 2048 ≤ count.toNat then .done (s.trapSync w cIllegalOperand count)
    else if va.toNat % 128 ≠ 0 then .done (s.trapSync w cMisaligned va)
    else s.physical w {} va (fun pa s =>
      match s.locate pa with
      | .scratch o off =>
        if o ≠ core then .done (s.trapSync w cIllegalOperand va)
        else
          s.whenOwn w (fun s =>
          let key := spKey core off
          s.checkPoison w va key 128 (fun s =>
            let d := (upTo 16).map (fun k => s.word (key + 8 * k))
            let w4 := withField (d.getD 4 0) 20 11 count.toNat
            let tier := w4.toNat / 2 ^ 16 % 4
            let w4 := match (s.core core).run with
              | some r => if s.isUser w then withField (withField w4 0 16 (s.asid core).toNat) 16 2 (max tier r.tier) else w4
              | none => w4
            let cw := d.getD 3 0
            let submit := fun (cwPa : Word) (s : State) =>
              s.release w .device (fun s =>
                .done ((s.jobArrival ((d.set 3 cwPa).set 4 w4) (48 + clusterOf core % 16) (s.core core).jobId).advance w i))
            if cw = 0 then submit 0 s
            else if cw.toNat % 8 ≠ 0 then .done (s.trapSync w cMisaligned cw)
            else s.physical w { write := true } cw (fun pa s => submit (BitVec.ofNat 64 pa) s)))
      | _ => .done (s.trapSync w cIllegalOperand va)))

end Sys2Proof.Machine
end

