-- ==== Sys2Proof/Machine/Sha.lean ====
section
/-! DEFINITION. SHA-256, which the attestation report names (R335). Its constants are computed from what FIPS 180-4 says they are: the
first 32 bits of the fractional parts of roots of primes. -/

namespace Sys2Proof.Machine.Sha

/-- The whole part of the k-th root of a number below `2 ^ (36 * k)`, bit by bit from the top. -/
def root (k x : Nat) : Nat :=
  (upTo 36).foldr (fun b r => if (r + 2 ^ b) ^ k ≤ x then r + 2 ^ b else r) 0

/-- The first 32 bits of the fractional part of a k-th root. -/
def fraction (k x : Nat) : BitVec 32 := BitVec.ofNat 32 (root k (x * 2 ^ (32 * k)))

/-- The 64 primes below 312, whose smallest factor could only be below 18. -/
def primes : List Nat := (upTo 312).filter (fun n => decide (2 ≤ n) && (upTo 18).all (fun d => decide (d < 2 ∨ n ≤ d ∨ n % d ≠ 0)))

/-- The constants of the rounds, from the cube roots. -/
def constants : List (BitVec 32) := primes.map (fraction 3)

/-- The eight words of the chain before the first block, from the square roots. -/
def seed : List (BitVec 32) := (primes.take 8).map (fraction 2)

/-- The sum of a word turned right by three amounts. -/
def turned (x : BitVec 32) (l : List Nat) : BitVec 32 := l.foldl (fun t n => t ^^^ x.rotateRight n) 0

/-- The working words after a round, given its constant and its word of the schedule. -/
def advanceRound (x : List (BitVec 32)) (k w : BitVec 32) : List (BitVec 32) :=
  let at_ := fun n => x.getD n 0
  let choice := at_ 6 ^^^ (at_ 4 &&& (at_ 5 ^^^ at_ 6))
  let most := (at_ 0 &&& (at_ 1 ||| at_ 2)) ||| (at_ 1 &&& at_ 2)
  let mixed := k + w + at_ 7 + choice + turned (at_ 4) [6, 11, 25]
  match x.dropLast with
  | a :: b :: c :: d :: r => (mixed + most + turned a [2, 13, 22]) :: a :: b :: c :: (mixed + d) :: r
  | r => r

/-- The schedule has sixteen words in view; the word behind them. -/
def scheduled (view : List (BitVec 32)) : BitVec 32 :=
  let early := view.getD 1 0
  let late := view.getD 14 0
  view.getD 9 0 + view.headD 0 + ((early >>> 3) ^^^ turned early [7, 18]) + ((late >>> 10) ^^^ turned late [17, 19])

/-- The rounds with some constants, from a view of the schedule and working words. -/
def work (constants view x : List (BitVec 32)) : List (BitVec 32) :=
  (constants.foldl (fun (p : List (BitVec 32) × List (BitVec 32)) k =>
    (p.1.tail ++ [scheduled p.1], advanceRound p.2 k (p.1.headD 0))) (view, x)).2

/-- Bytes four at a time, the first one the most significant. -/
def bigEndian : List Byte → List (BitVec 32)
  | b0 :: b1 :: b2 :: b3 :: rest => BitVec.ofNat 32 (leNat [b3, b2, b1, b0]) :: bigEndian rest
  | _ => []

/-- The chain over a number of blocks. -/
def chain : Nat → List (BitVec 32) → List (BitVec 32) → List (BitVec 32)
  | 0, _, x => x
  | n + 1, l, x => chain n (l.drop 16) (List.zipWith (· + ·) x (work constants (l.take 16) x))

/-- The message with its padding: a one bit, zeros, and its length in bits, to a whole number of blocks. -/
def padded (l : List Byte) : List Byte :=
  l ++ 0x80 :: (List.replicate ((119 - l.length % 64) % 64) 0 ++ (natLE 8 (8 * l.length % 2 ^ 64)).reverse)

/-- The SHA-256 digest of bytes, as its 32 bytes. -/
def digest (l : List Byte) : List Byte :=
  let m := padded l
  (chain (m.length / 64) (bigEndian m) seed).flatMap (fun w => (natLE 4 w.toNat).reverse)

end Sys2Proof.Machine.Sha
end

