-- ==== Sys2Proof/Machine/Port.lean ====
section
/-! DEFINITION. The messages of the control node over the Phova port (R299, R302, R304, R319, R332 to R336, R502). The
spec gives no layout of reply bodies: the words listed here are the model's. -/

namespace Sys2Proof.Machine

/-! ## Answers (R332, R333) -/

def pvOk : Nat := 0
def pvNotReady : Nat := 1
def pvQueueFull : Nat := 2
def pvBadSignature : Nat := 3
def pvBadMessage : Nat := 4

/-- The header word of a message with a body of so many words (R332). -/
def portHeader (tag words status kind : Nat) : Word :=
  BitVec.ofNat 64 (tag % 2 ^ 32 * 2 ^ 32 + (words + 1) / 2 % 2 ^ 16 * 2 ^ 16 + status % 2 ^ 8 * 2 ^ 8 + kind % 2 ^ 8)

/-- A message is answered (R332). -/
def State.answer (s : State) (tag kind status : Nat) (body : List Word := []) : State :=
  let reply : PhovaReply := {
    header := portHeader tag body.length status kind, body := body ++ List.replicate (body.length % 2) 0 }
  { s with mod := { s.mod with replies := s.mod.replies ++ [reply] } }

/-- The port is trained in step 2 of bring-up, and IDENT and STATUS answer from there (R339). -/
def State.portUp (s : State) : Bool := s.mod.powered && decide (2 ≤ s.mod.step)

/-- A message that is taken once job queues are open, and answered NOT_READY before (R333). -/
def State.whenReady (s : State) (tag kind : Nat) (k : State) : State :=
  if !s.portUp then s else if s.mod.step < 7 then s.answer tag kind pvNotReady else k

def State.fwVersion (s : State) : Nat := Config.imageVersion s.imageHeader

/-- IDENT. -/
def execIdent (tag : Nat) (s : State) : Host.Outcome State Fault Refusal :=
  event (if s.portUp then
    s.answer tag 0x01 pvOk [Config.serial, BitVec.ofNat 64 s.fwVersion, BitVec.ofNat 64 s.mod.devId, BitVec.ofNat 64 s.mod.domain]
    else s)

/-- The logical cores that are degraded. -/
def State.degradedCores (s : State) : List Nat := (upTo 1152).filter (fun n => match s.physOf n with
  | some k => s.isDegraded k
  | none => false)

/-- The temperature of a layer: the highest that a vault has measured there; 40 °C where none has measured it. -/
def State.layerPeak (s : State) (layer : Nat) : Nat :=
  match s.cores.filterMap (fun p => (p.2.vault.temps.find? (fun t => decide (t.1 = layer))).map (·.2)) with
  | [] => 40
  | t :: l => l.foldl max t

/-- The failed scratchpad banks, as physical core times 65,536 plus bank (R162). -/
def State.failedBanks (s : State) : List Nat := s.cores.flatMap (fun p => p.2.marks.spFailed.map (fun b => p.1 * 65536 + b))

/-- STATUS: the bring-up step; the failed links, as bits; the degraded cores, as bits of 18 words by logical number; the temperature of the
junction, and of layers 0 to 11; the number of failed scratchpad banks, and those that the body has room for (R162). -/
def execStatus (tag : Nat) (s : State) : Host.Outcome State Fault Refusal :=
  event (if s.portUp then
    let word := BitVec.ofNat 64
    let bits := fun (l : List Nat) => l.foldl (fun x k => x ||| 2 ^ k) 0
    let degraded := bits s.degradedCores
    s.answer tag 0x02 pvOk ([word (min 6 s.mod.step), word (bits s.mod.failedLinks)]
      ++ (upTo 18).map (fun j => word (degraded / 2 ^ (64 * j))) ++ [word s.mod.junction]
      ++ (upTo 12).map (fun l => word (s.layerPeak l))
      ++ [word s.failedBanks.length] ++ (s.failedBanks.take 478).map word)
    else s)

/-- SUBMIT (R299). -/
def execSubmit (tag queue : Nat) (desc : List (BitVec 64)) (s : State) : Host.Outcome State Fault Refusal :=
  event (s.whenReady tag 0x10 (
    if 48 ≤ queue ∨ desc.length ≠ 16 then s.answer tag 0x10 pvBadMessage
    else if 32 ≤ s.queued queue then s.answer tag 0x10 pvQueueFull
    else (s.jobArrival desc queue 0).answer tag 0x10 pvOk))

/-- CANCEL: the job ends CANCELLED; of a job that is unknown or has ended nothing changes (R300). -/
def execCancel (tag job : Nat) (s : State) : Host.Outcome State Fault Refusal :=
  event (s.whenReady tag 0x11 (
    match s.dx.jobs.find? (fun j => decide (j.id.toNat = job)) with
    | some j => (s.endJob j.id stCancelled).answer tag 0x11 pvOk
    | none => s.answer tag 0x11 pvOk))

/-- PARAM: TBOUND and MAXSLICE in nanoseconds (R302). -/
def execParam (tag : Nat) (tbound : List Nat) (maxslice : Nat) (s : State) : Host.Outcome State Fault Refusal :=
  event (s.whenReady tag 0x12 (
    if tbound.length = 4 ∧ tbound.all (fun t => decide (1000000 ≤ t) && decide (t ≤ 1000000000))
        ∧ 1000000 ≤ maxslice ∧ maxslice ≤ 100000000 then
      ({ s with dx := { s.dx with tbound, maxslice } }).answer tag 0x12 pvOk
    else s.answer tag 0x12 pvBadMessage))

/-- KEYS: residency keys are set and read (R304); the reply has room for 512 (R332). -/
def execKeys (tag : Nat) (set : List (Nat × BitVec 64)) (get : List Nat) (s : State) : Host.Outcome State Fault Refusal :=
  event (s.whenReady tag 0x13 (
    if set.any (fun p => decide (1152 ≤ p.1)) || get.any (fun n => decide (1152 ≤ n)) || decide (512 < get.length) then
      s.answer tag 0x13 pvBadMessage
    else
      let keys := set.foldl (fun m p => Store.set m p.1 p.2) s.dx.keys
      ({ s with dx := { s.dx with keys } }).answer tag 0x13 pvOk (get.map (Store.get 0 keys))))

/-- ASIDTAB (R149). -/
def execAsidtab (tag asid : Nat) (ptroot : Option Nat) (rtab rcount : Nat) (tvec0 : BitVec 64) (s : State) :
    Host.Outcome State Fault Refusal :=
  event (s.whenReady tag 0x14 (
    let root : Bool := match ptroot with
      | some r => decide (r % 4096 = 0) && decide (r < 2 ^ 47)
      | none => true
    if asid < 2 ^ 16 ∧ root ∧ rtab % 4096 = 0 ∧ rtab < 2 ^ 47 ∧ rcount ≤ 64 ∧ (tvec0 &&& 0xFE0000000000001F) = 0 then
      ({ s with dx := { s.dx with asids := s.dx.asids.set asid { ptroot, rtab, rcount, tvec0 } } }).answer tag 0x14 pvOk
    else s.answer tag 0x14 pvBadMessage))

/-- The key at which a LOAD of some bytes starts: general or Gazetteer storage of a mapped column, or far storage. -/
def State.loadKey (s : State) (pa n : Nat) : Option Nat :=
  let col := pa / 2 ^ 47 % 2 ^ 11
  let off := pa % 2 ^ 47
  if pa / 2 ^ 58 ≠ s.mod.devId ∨ n = 0 ∨ 4080 < n then none
  else if col = 0x7FF then (if off + n ≤ farSize then some (farKey off) else none)
  else match s.physOf col with
    | none => none
    | some k =>
      if off + n ≤ 0x0B000000 ∨ (0x0B800000 ≤ off ∧ off + n ≤ 0x0C000000) then some (coreKey k off) else none

/-- A LOAD's write: a poisoned unit that it covers in part reads zero in its other bytes; every unit is clean. -/
def Memory.load (m : Memory) (key : Nat) (bytes : List Byte) : Memory :=
  let units := (upTo (bytes.length / 32 + 2)).map (fun j => (key / 32 + j) * 32)
  let touched := units.filter (fun u => decide (u < key + bytes.length))
  let m := touched.foldl (fun m u => if m.marked u then m.writeBytes u (List.replicate 32 0) else m) m
  touched.foldl (fun m u => m.clear u) (m.writeBytes key bytes)

/-- The control node's bytes are written, but for the sectors that cannot be reached (R183, R502). -/
def State.loadBytes (s : State) (key : Nat) (bytes : List Byte) : State :=
  forEach (upTo (bytes.length / 32 + 2)) s (fun j s =>
    let u := (key / 32 + j) * 32
    let a := max key u
    let n := min (key + bytes.length) (u + 32) - a
    if n = 0 ∨ (isVault u ∧ !s.sectorReached (keyCore u) (keyOff u)) then s
    else { s with memory := s.memory.load a ((bytes.drop (a - key)).take n) })

/-- The loader fills an entry of the handler table at HTAB_BASE of a core (R106, R266). By which message it does so is not given: R502 refuses
the region to LOAD (notes/assumptions/122.md). -/
def State.fillHandler (s : State) (core idx : Nat) (pc : Word) : State :=
  let key := coreKey core ((s.core core).part.regs.htabBase.toNat + 16 * idx)
  if s.mod.powered && decide (idx < 64) then
    s.loadBytes key (natLE 8 (2 ^ 63 + (pc.toNat % 2 ^ 57 / 8 * 8)) ++ List.replicate 8 0)
  else s

/-- LOAD (R502). -/
def execLoad (tag : Nat) (pa : BitVec 64) (bytes : List (BitVec 8)) (s : State) : Host.Outcome State Fault Refusal :=
  event (s.whenReady tag 0x15 (
    match s.loadKey pa.toNat bytes.length with
    | none => s.answer tag 0x15 pvBadMessage
    | some key => (s.loadBytes key bytes).answer tag 0x15 pvOk))

/-! ## Attestation and debug (R319, R335) -/

/-- An attestation report (R335): the module serial, the SHA-256 digest of the image in force and a digest of the logical core map, four words each,
`DEV_ID`, the nonce in four words, and TS. -/
def State.reportOn (s : State) (nonce : Nat) : List Word :=
  let map := (upTo 1152).flatMap (fun n => natLE 2 ((s.physOf n).getD 0xFFFF))
  let image := Sha.digest s.image
  [Config.serial] ++ (upTo 4).map (fun k => BitVec.ofNat 64 (leNat ((image.drop (8 * k)).take 8))) ++ (upTo 4).map (Config.mapDigest map)
    ++ [BitVec.ofNat 64 s.mod.devId]
    ++ (upTo 4).map (fun k => BitVec.ofNat 64 (nonce / 2 ^ (64 * k))) ++ [BitVec.ofNat 64 s.ts]

/-- ATTEST (R335): the report, and the signature of 3,072 bits over its SHA-256 digest. -/
def execAttest (tag nonce : Nat) (s : State) : Host.Outcome State Fault Refusal :=
  event (s.whenReady tag 0x21 (
    let report := s.reportOn nonce
    let digest := Sha.digest (report.flatMap (fun x => natLE 8 x.toNat))
    ({ s with mod := { s.mod with nonce := some nonce } }).answer tag 0x21 pvOk (report ++ (upTo 48).map (Config.reportSigned digest))))

/-- Debug is authorised or ended; when it ends, HZD is 0 in every context (R48, R319). -/
def State.setDebug (s : State) (enable : Bool) : State :=
  let clear := fun (c : Ctx) => { c with status := { c.status with hzd := c.status.hzd && enable } }
  { s with
    mod := { s.mod with dbg := enable }
    cores := s.cores.map (fun (p : Nat × Core) => (p.1, { p.2 with
      part := { p.2.part with ctxs := p.2.part.ctxs.map (fun q => (q.1, clear q.2)) }
      handlers := p.2.handlers.map (fun q => (q.1, clear q.2)) })) }

/-- A malformed message is answered BAD_MESSAGE once the port is trained. -/
def State.badMessage (s : State) (tag kind : Nat) : State := if s.portUp then s.answer tag kind pvBadMessage else s

/-- The bytes of an RSA-3072 signature (R319, R334). -/
def rsaBytes : Nat := 384

/-- DEBUG (R319). -/
def execDebug (tag : Nat) (enable : Bool) (nonce : Nat) (signature : List (BitVec 8)) (s : State) :
    Host.Outcome State Fault Refusal :=
  event (if signature.length ≠ rsaBytes then s.badMessage tag 0x23 else s.whenReady tag 0x23 (
    match Config.imageDebugKey s.imageHeader with
    | some k =>
      if s.mod.nonce = some nonce ∧ Config.debugSigned k Config.serial nonce enable signature then
        (s.setDebug enable).answer tag 0x23 pvOk
      else s.answer tag 0x23 pvBadSignature
    | none => s.answer tag 0x23 pvBadSignature))

/-! ## Messages as words (R332, R502) -/

/-- KIND and TAG of the message that a step of the port takes. -/
def portKind : Instr → Option (Nat × Nat)
  | .ident t => some (0x01, t)
  | .status t => some (0x02, t)
  | .submit t _ _ => some (0x10, t)
  | .cancel t _ => some (0x11, t)
  | .param t _ _ => some (0x12, t)
  | .keys t _ _ => some (0x13, t)
  | .asidtab t _ _ _ _ _ => some (0x14, t)
  | .load t _ _ => some (0x15, t)
  | .fwload t _ _ => some (0x20, t)
  | .attest t _ => some (0x21, t)
  | .route t _ _ _ _ => some (0x22, t)
  | .debug t _ _ _ => some (0x23, t)
  | _ => none

/-- The body of a LOAD: its address and its bytes (R502). -/
def loadBody (body : List Word) : Option (Word × List Byte) :=
  let n := (body.getD 1 0).toNat
  let bytes := (body.drop 2).flatMap (fun x => natLE 8 x.toNat)
  if n = 0 ∨ 4080 < n ∨ bytes.length ≠ (n + 15) / 16 * 16 ∨ (bytes.drop n).any (fun b => decide (b ≠ 0)) then none
  else some (body.getD 0 0, bytes.take n)

/-- The bytes that the contents of a message need in its body, and whether its kind has one length. -/
def portNeeds : Instr → Nat × Bool
  | .submit _ _ desc => (1 + 8 * desc.length, true)
  | .cancel _ _ => (4, true)
  | .param _ tbound _ => (4 * tbound.length + 4, true)
  | .keys _ set get => (10 * set.length + 2 * get.length, false)
  | .asidtab _ _ _ _ _ _ => (23, true)
  | .fwload _ _ piece => (piece.length, false)
  | .route _ _ _ masks _ => (3 + 2 * masks.length, false)
  | .debug .. => (33 + rsaBytes, true)
  | _ => (0, false)

/-- The body of a message has a length that fits its contents: the one length of its kind, which holds them, or room for them where the
contents vary (R332; the lengths are free, notes/assumptions/123.md). -/
def lengthFits (i : Instr) (kind len : Nat) : Bool :=
  let least := ((portNeeds i).1 + 15) / 16
  if (portNeeds i).2 then decide (len = max least (Config.portUnits kind)) else decide (least ≤ len)

/-- The words of a message are taken as the step of its kind. It is malformed where word 1 of its header is not zero, its body has another
length than LEN says or than its kind has, or its kind is unknown (R332). `exec` performs a step. -/
def State.portMessage (exec : Instr → State → Host.Outcome State Fault Refusal) (l : List Word) (s : State) :
    Host.Outcome State Fault Refusal :=
  let h := (l.getD 0 0).toNat
  let tag := h / 2 ^ 32
  let kind := h % 2 ^ 8
  let len := h / 2 ^ 16 % 2 ^ 16
  let body := l.drop 2
  let bad := event (s.badMessage tag kind)
  if l.getD 1 0 ≠ 0 ∨ 256 < len ∨ body.length ≠ 2 * len then bad
  else if kind = 0x01 then (if len = 0 then execIdent tag s else bad)
  else if kind = 0x02 then (if len = 0 then execStatus tag s else bad)
  else if kind = 0x15 then
    match loadBody body with
    | some (pa, bytes) => execLoad tag pa bytes s
    | none => bad
  else if kind = 0x21 then
    if len = 2 then execAttest tag (body.foldr (fun x n => x.toNat + 2 ^ 64 * n) 0) s else bad
  else
    match Config.portBody kind tag body with
    | some i => if portKind i = some (kind, tag) ∧ lengthFits i kind len then exec i s else bad
    | none => bad

end Sys2Proof.Machine
end

