-- ==== Sys2Proof/Machine/Copies.lean ====
section
/-! DEFINITION. Copy channels: the descriptor of R276, the transfer it describes (R277), `tcopy` at issue and `cwait`
(R278, R279, R389, R464). -/

namespace Sys2Proof.Machine

/-! ## Descriptors (R276) -/

/-- A transfer as its descriptor gives it: element size, addresses, and count and strides by dimension. -/
structure Transfer where
  size : Nat
  src : Nat
  dst : Nat
  dims : List (Nat × Int × Int)
deriving DecidableEq, Repr

def descWord (m : Store Word) (k : Nat) : Word := m.get 0 k
def descDims (m : Store Word) : Nat := (descWord m 0).toNat % 16

/-- COUNT of a dimension. -/
def descCount (m : Store Word) (i : Nat) : Nat := (descWord m (4 + i / 2)).toNat / 2 ^ (32 * (i % 2)) % 2 ^ 32

def transferOf (m : Store Word) : Transfer :=
  { size := 2 ^ ((descWord m 0).toNat / 16 % 4)
    src := (descWord m 1).toNat
    dst := (descWord m 2).toNat
    dims := (upTo (descDims m)).map (fun i => (descCount m i, (descWord m (10 + 2 * i)).toInt, (descWord m (11 + 2 * i)).toInt)) }

def Transfer.elements (x : Transfer) : Nat := x.dims.foldl (fun n d => n * d.1) 1

/-- T, the bytes of a transfer. -/
def Transfer.total (x : Transfer) : Nat := x.size * x.elements

/-- Source and destination displacement of element `e` (R277). -/
def displacement : List (Nat × Int × Int) → Nat → Int × Int
  | [], _ => (0, 0)
  | (n, a, b) :: l, e =>
    let i := (e % n : Int)
    let r := displacement l (e / n)
    (i * a + r.1, i * b + r.2)

/-- The virtual addresses of element `e`, wrapped to 64 bits. -/
def Transfer.at_ (x : Transfer) (e : Nat) : Nat × Nat :=
  let d := displacement x.dims e
  (wrapTo64 (x.src + d.1), wrapTo64 (x.dst + d.2))
where wrapTo64 (a : Int) : Nat := (a % (2 : Int) ^ 64).toNat

/-- The elements of the chunk that starts at element `e` (R277): at most `n` more, contiguous in source and destination,
inside one 64-byte block of the destination. -/
def Transfer.run (x : Transfer) (e : Nat) : Nat → Nat
  | 0 => 1
  | n + 1 =>
    let k := x.run e n
    let a := x.at_ e
    let b := x.at_ (e + k)
    if k = n + 1 ∧ e + k < x.elements ∧ b.1 = a.1 + k * x.size ∧ b.2 = a.2 + k * x.size
        ∧ (b.2 + x.size - 1) / 64 = a.2 / 64 then k + 1 else k

/-- The lowest and highest byte of the source (`true`) or destination span (R309). -/
def Transfer.span (x : Transfer) (source : Bool) : Int × Int :=
  x.dims.foldl (fun r d =>
    let v := (d.1 - 1 : Int) * (if source then d.2.1 else d.2.2)
    (r.1 + min v 0, r.2 + max v 0))
    (let a : Int := if source then x.src else x.dst; (a, a + x.size - 1))

/-- A transfer whose spans do not overlap is replayed after a squash (R309). -/
def Transfer.replayable (x : Transfer) : Bool :=
  let s := x.span true
  let d := x.span false
  decide (s.2 < d.1) || decide (d.2 < s.1)

/-- What is wrong with a descriptor beyond its addresses: ILLEGAL_OPERAND at its address (R276). -/
def descBad (m : Store Word) : Bool :=
  let n := descDims m
  decide ((descWord m 0).toNat / 64 ≠ 0) || decide (2 ^ 57 ≤ (descWord m 1).toNat) || decide (2 ^ 57 ≤ (descWord m 2).toNat)
    || decide (descWord m 3 ≠ 0) || (upTo n).any (fun i => decide (descCount m i = 0))
    || decide (2 ^ 32 ≤ (transferOf m).total)

/-- The first of SRC, DST and the strides that is not a multiple of the element size (R276). -/
def descSkew (m : Store Word) : Option Word :=
  let size := (transferOf m).size
  ((descWord m 1 :: descWord m 2 :: (upTo (descDims m)).flatMap (fun i => [descWord m (10 + 2 * i), descWord m (11 + 2 * i)])).find?
    (fun w => decide (w.toNat % size ≠ 0)))

/-! ## Issue (R276, R464) -/

/-- Read descriptor words, each with the dimension in progress; a word that an earlier issue has read for an earlier
dimension is kept (R55). -/
def State.readDesc (w : Who) (va : Word) (from_ : Nat) : List (Nat × Nat) → Store Word → State →
    (Store Word → State → Effect) → Effect
  | [], m, s, k => k m s
  | (dim, j) :: rest, m, s, k =>
    if dim < from_ ∧ m.any (fun p => decide (p.1 = j)) then State.readDesc w va from_ rest m s k
    else
      let a := va + BitVec.ofNat 64 (8 * j)
      (s.ownWord w a va (fun r s => match r with
        | none => .done ((s.modHold w (fun h => { h with copyWords := m })).trapSync w cUncorrectable (tvalAt (some dim) a))
        | some x => State.readDesc w va from_ rest (m.set j x) s k)).keeping
        (s.modHold w (fun h => { h with copyWords := m, issuing := true })) w dim

/-- R276, R464: the descriptor is read and checked; the id is written at the end of issue. -/
def execTcopy (ch a d : Nat) (hc : Option Nat) (eng : Eng) (s : State) : Host.Outcome State Fault Refusal :=
  issueEngine (.tcopy ch a d hc eng) s (fun w progress s c k =>
    let va := c.op1 0
    let from_ := progress.getD 0
    let kept := if progress.isSome then (s.ctx w).hold.copyWords else []
    let bad := fun (s : State) (cause : Nat) (x : Word) => Effect.done (s.trapSync w cause x)
    if va.toNat % 8 ≠ 0 then bad s cMisaligned va
    else s.checkCredit w hc (fun credit =>
      State.readDesc w va from_ [(0, 0), (0, 1), (0, 2), (0, 3)] kept s (fun m s =>
        if descDims m = 0 ∨ 12 < descDims m then bad s cIllegalOperand va
        else
          let rest := (upTo (descDims m)).flatMap (fun i => [(i, 4 + i / 2), (i, 10 + 2 * i), (i, 11 + 2 * i)])
          State.readDesc w va from_ rest m s (fun m s =>
            if descBad m then bad s cIllegalOperand va
            else match descSkew m with
            | some x => bad s cMisaligned x
            | none =>
              let s := (s.modHold w (fun h => { h with copyWords := [], issuing := false })).setG w d (BitVec.ofNat 64 c.seq.toNat)
              k s { c with desc := (upTo 34).map (descWord m), credit }))))

/-- The transfer of a copy command. -/
def Cmd.transfer (c : Cmd) : Transfer := transferOf ((upTo 34).zip c.desc)

/-- R279: waits until `CDONE` has passed the id. -/
def execCwait (p ch a : Nat) (s : State) : Host.Outcome State Fault Refusal :=
  let i := Instr.cwait p ch a
  run i s (fun w s =>
    let id := (s.g w a).setWidth 32
    let r := (s.core w.core).part.regs
    let gap := (r.cdone.get 0 ch - id).toNat
    if 1 ≤ gap ∧ gap ≤ 0x80000000 then
      let f := r.cfail.get {} ch
      let fail := f.valid && decide ((id - f.id).toNat < 0x80000000)
      .done ((s.result w 1 (.p p (if fail then allOnes else 0))).advance w i)
    else waits)

end Sys2Proof.Machine
end

