-- ==== Sys2Proof/Machine/Matrix.lean ====
section
/-! DEFINITION. Streams, tiles and the matrix unit: the forms of class 0x200 at issue, and what each command does when it is
performed (R191 to R213, R426 to R429, R469). -/

namespace Sys2Proof.Machine

/-! ## The parts of a core that the commands act on -/

def State.part (s : State) (core : Nat) : Part := (s.core core).part
def State.setStream (s : State) (core c : Nat) (x : Stream) : State :=
  s.modPart core (fun p => { p with streams := p.streams.set c x })
def State.slot (s : State) (core n : Nat) : TileSlot := (s.part core).slots.get {} n
def State.acc (s : State) (core n : Nat) : Acc := (s.part core).accs.get {} n
def State.modAcc (s : State) (core n : Nat) (f : Acc → Acc) : State :=
  s.modPart core (fun p => { p with accs := p.accs.set n (f (p.accs.get {} n)) })

/-- The slot at an offset of a stream (R191). -/
def Stream.slotAt (x : Stream) (off : Nat) : Nat := x.base + (x.head + off) % x.nslots

/-- Element `k` of width `w` in row `r` of a slot (R198). -/
def TileSlot.elem (x : TileSlot) (w r k : Nat) : Nat := (x.rows.get 0 r).toNat / 2 ^ (w * k) % 2 ^ w

/-- The elements of width `w` in a valid row, or none in an invalid row (R202). -/
def TileSlot.extent (x : TileSlot) (w r : Nat) : Nat := if r < x.valid then x.bytes * 8 / w else 0

/-- Element (i, j) of an accumulator. -/
def Acc.elem (x : Acc) (i j : Nat) : Nat := (x.elems.get 0 (32 * i + j)).toNat

/-! ## Issue (R193, R203, R426) -/

/-- R192: performed as a joint command. -/
def execCbcfg (c base nslots : Nat) (ring : Bool) (eng : Eng) (s : State) : Host.Outcome State Fault Refusal :=
  issueEngine (.cbcfg c base nslots ring eng) s

/-- R196: performed as a joint command. -/
def execCbrel (c n : Nat) (eng : Eng) (s : State) : Host.Outcome State Fault Refusal :=
  issueEngine (.cbrel c n eng) s

/-- R204. -/
def execMdrain (t : ElemType) (acc a pitch rows cols : Nat) (eng : Eng) (s : State) : Host.Outcome State Fault Refusal :=
  issueEngine (.mdrain t acc a pitch rows cols eng) s

/-- R206. -/
def execMdrainr (i32 : Bool) (acc b accn : Nat) (eng : Eng) (s : State) : Host.Outcome State Fault Refusal :=
  issueEngine (.mdrainr i32 acc b accn eng) s

/-- R203. -/
def execMld (d a pitch : Nat) (eng : Eng) (s : State) : Host.Outcome State Fault Refusal :=
  issueEngine (.mld d a pitch eng) s

/-- R202. -/
def execMma (t : MmaType) (d ca offa cb offb : Nat) (kh : Bool) (eng : Eng) (s : State) : Host.Outcome State Fault Refusal :=
  issueEngine (.mma t d ca offa cb offb kh eng) s

/-- R205. -/
def execMrecv (acc n c : Nat) (eng : Eng) (s : State) : Host.Outcome State Fault Refusal :=
  issueEngine (.mrecv acc n c eng) s

/-- R203. -/
def execMsa (d a b c : Nat) (eng : Eng) (s : State) : Host.Outcome State Fault Refusal :=
  issueEngine (.msa d a b c eng) s

/-- R203. -/
def execMz (d : Nat) (eng : Eng) (s : State) : Host.Outcome State Fault Refusal := issueEngine (.mz d eng) s

/-- R203. -/
def execMzPb (eng : Eng) (s : State) : Host.Outcome State Fault Refusal := issueEngine (.mzPb eng) s

/-- R193: a load reserves its slot at issue, where its stream has one (`State.hasRoom`), behind a `cbcfg` of the stream that is still to be
performed. -/
def execTld (t : ElemType) (c a pitch rows cols : Nat) (eng : Eng) (s : State) : Host.Outcome State Fault Refusal :=
  issueEngine (.tld t c a pitch rows cols eng) s (fun w _ s cmd k =>
    let x := s.stream w.core c
    if s.configuring w.core c then waits
    else if !x.ring then .done (s.trapSync w cIllegalOperand (BitVec.ofNat 64 c))
    else k (s.setStream w.core c { x with resv := x.resv + 1 }) cmd)

/-- R200. -/
def execTst (c off a pitch : Nat) (eng : Eng) (s : State) : Host.Outcome State Fault Refusal :=
  issueEngine (.tst c off a pitch eng) s

/-! ## Operands at the head of a queue (R195, R201, R205) -/

/-- Whether a command may start. -/
inductive Readiness where
  | ready | waits | fault
deriving DecidableEq, Repr

def Readiness.and (a b : Readiness) : Readiness :=
  match a, b with
  | .fault, _ => .fault
  | _, .fault => .fault
  | .ready, .ready => .ready
  | _, _ => .waits

/-- A consumer's offset of a stream (R195). -/
def State.offsetReady (s : State) (core c off : Nat) : Readiness :=
  let x := s.stream core c
  if !x.ring || decide (x.nslots ≤ off) then .fault else if off < x.comm then .ready else .waits

/-- An accumulator in RECV holds back every command that names it (R205). -/
def State.accReady (s : State) (core n : Nat) : Readiness := if (s.acc core n).recv.isSome then .waits else .ready

def State.operandsReady (s : State) (core : Nat) (i : Instr) : Readiness :=
  match i with
  | .mma t d ca offa cb offb _ _ =>
    let tiles := (s.offsetReady core ca offa).and (s.offsetReady core cb offb)
    if t = .e2m1 then tiles else tiles.and (s.accReady core d)
  | .msa d _ _ _ _ | .mz d _ | .mld d _ _ _ => s.accReady core d
  | .mdrain _ acc _ _ _ _ _ | .mdrainr _ acc _ _ _ | .mrecv acc _ _ _ => s.accReady core acc
  | .tst c off _ _ _ => if (s.part core).loads.isEmpty then s.offsetReady core c off else .waits
  | _ => .ready

/-! ## Shadows of the columns (R321, R325, R326) -/

/-- The unit that computes a column: its own, or column xor 16 where it was quarantined when the command issued (R326). -/
def columnUnit (quar : List Nat) (j : Nat) : Nat := if j ∈ quar then 65 + (j ^^^ 16) else 65 + j

/-- New elements, each as index, column and bits, with upsets in them, and the units that diverged. -/
def checkColumns (quar : List Nat) : List (Nat × Nat × Nat) → List Upset → List (Nat × Nat) × List Nat × List Upset
  | [], us => ([], [], us)
  | (e, j, bits) :: l, us =>
    let u := columnUnit quar j
    let (main, us) := strike us u false bits
    let (shadow, us) := strike us u true bits
    let (vs, ds, us) := checkColumns quar l us
    ((e, main) :: vs, if Fp.f32.diverges main shadow then insertNat ds u else ds, us)

/-- Check new elements: their values, and the units that diverged, whose scores rise (R325). -/
def State.checkElems (s : State) (core : Nat) (quar : List Nat) (vals : List (Nat × Nat × Nat)) :
    List (Nat × Nat) × List Nat × State :=
  let us := (s.core core).marks.upsets
  if us.isEmpty then (vals.map (fun v => (v.1, v.2.2)), [], s)
  else
    let (vs, ds, us) := checkColumns quar vals us
    let s := s.modMarks core (fun m => { m with upsets := us })
    (vs, ds, forEach ds s (fun u s => s.addScore core u))

/-- TVAL of a matrix divergence (R323). -/
def matrixTval (seq : BitVec 32) (units : List Nat) : Word :=
  BitVec.ofNat 64 (2 * 2 ^ 58 + seq.toNat % 2 ^ 16 * 2 ^ 16 + units.length * 2 ^ 8 + (units.head?).getD 0)

/-- A command whose elements are checked: it ends, or is rolled back with its divergence reported (R210, R325). -/
def State.finishChecked (s : State) (core : Nat) (c : Cmd) (vals : List (Nat × Nat × Nat)) (size : Nat)
    (write : State → List (Nat × Nat) → State) : EngineOut :=
  match s.checkElems core c.quar vals with
  | (vs, [], s) => .ends (write s vs) csOk size
  | (_, ds, s) =>
    let s := if c.cw.isSome then s else s.matrixFault ⟨core, c.slot⟩ c.gen (matrixTval c.seq ds)
    .ends s csShadow 0

def State.writeAcc (n core : Nat) (s : State) (vs : List (Nat × Nat)) : State :=
  s.modAcc core n (fun x => { x with elems := vs.foldl (fun m v => m.set v.1 (BitVec.ofNat 32 v.2)) x.elems })

def State.writePb (core : Nat) (s : State) (vs : List (Nat × Nat)) : State :=
  s.modPart core (fun p => { p with pb := vs.foldl (fun m v => m.set v.1 (BitVec.ofNat 32 v.2)) p.pb })

/-! ## Performing -/

/-- The 1,024 places of a tile of results. -/
def places : List (Nat × Nat) := (upTo 1024).map (fun e => (e / 32, e % 32))

/-- The element types of the A and the B side (R202). -/
def mmaSides : MmaType → ElemType × ElemType
  | .f16 => (.f16, .f16)
  | .bf16 => (.bf16, .bf16)
  | .i8 => (.i8, .i8)
  | .e4m3 => (.e4m3, .e4m3)
  | .e5m2 => (.e5m2, .e5m2)
  | .e2m1 => (.e2m1, .e2m1)
  | .e4m3e5m2 => (.e4m3, .e5m2)
  | .e5m2e4m3 => (.e5m2, .e4m3)

/-- The exact products of elements `lo` to `hi − 1` of two rows (R124, R127). -/
def products (ta tb : ElemType) (a b : TileSlot) (i j lo hi : Nat) : List Val :=
  ((upTo hi).drop lo).map (fun k => (mulExact (ta.val (a.elem ta.bits i k)) (tb.val (b.elem tb.bits j k))).1)

/-- An accumulator element after an FP chunk, or none where the chunk has no terms (R124, R126, R127). -/
def mmaElem (ta tb : ElemType) (a b : TileSlot) (old i j : Nat) : Option Nat :=
  let n := min (a.extent ta.bits i) (b.extent tb.bits j)
  if n = 0 then none
  else some (roundVal .f32 .rne (sumExact .rne (Fp.f32.value old :: products ta tb a b i j 0 n)).1 false).1

/-- An element of the INT32 view after an INT8 chunk (R125). -/
def mmaInt (a b : TileSlot) (old i j : Nat) : Nat :=
  let n := min (a.extent 8 i) (b.extent 8 j)
  wrapTo 32 ((upTo n).foldl (fun x k => x + signOf 8 (a.elem 8 i k) * signOf 8 (b.elem 8 j k)) (old : Int))

/-- A partial-buffer element: block `b` of the half that KH selects (R128). -/
def mmaBlock (x y : TileSlot) (kh : Bool) (i j b : Nat) : Nat :=
  let lo := (if kh then 64 else 0) + 8 * b
  let hi := min (lo + 8) (min (x.extent 4 i) (y.extent 4 j))
  (roundVal .f32 .rne (sumExact .rne (products .e2m1 .e2m1 x y i j lo hi)).1 false).1

/-- R202, R124 to R128. -/
def State.doMma (s : State) (core : Nat) (c : Cmd) (t : MmaType) (d ca offa cb offb : Nat) (kh : Bool) : EngineOut :=
  let a := s.slot core ((s.stream core ca).slotAt offa)
  let b := s.slot core ((s.stream core cb).slotAt offb)
  let acc := s.acc core d
  match t with
  | .e2m1 =>
    let vals := (upTo 8).flatMap (fun k => places.map (fun p => (1024 * k + 32 * p.1 + p.2, p.2, mmaBlock a b kh p.1 p.2 k)))
    s.finishChecked core c vals 32768 (State.writePb core)
  | .i8 => .ends (State.writeAcc d core s (places.map (fun p => (32 * p.1 + p.2, mmaInt a b (acc.elem p.1 p.2) p.1 p.2)))) csOk 4096
  | _ =>
    let sides := mmaSides t
    let vals := places.filterMap (fun p =>
      (mmaElem sides.1 sides.2 a b (acc.elem p.1 p.2) p.1 p.2).map (fun x => (32 * p.1 + p.2, p.2, x)))
    s.finishChecked core c vals 4096 (State.writeAcc d core)

def matrixPort (s : State) (core : Nat) : Port :=
  { core, client := .queue core 1, reach := .tile, kind := Config.nat s.tick 221 % 6, queue := 1 }

/-- Words of the own scratchpad, for `msa` and `mrecv` (R429). -/
def State.ownWords (s : State) (core : Nat) (c : Cmd) (acc : List Nat) : List Nat → Reads
  | [] => .ok (acc.flatMap (natLE 8)) s
  | va :: l =>
    match s.engPa (matrixPort s core) c {} va with
    | .fault k => .fault k va [] s
    | .wait s => .wait [] s
    | .ok pa t =>
      match t.locate pa with
      | .scratch o off =>
        if o = core then
          match t.poisonAt (spKey o off) 8 with
          | (t, some _) => .poison [] va t
          | (t, none) => t.ownWords core c (acc ++ [(t.word (spKey o off)).toNat]) l
        else .fault cIllegalOperand va [] s
      | _ => .fault cIllegalOperand va [] s

/-- The 64-bit words of bytes. -/
def wordsOf (l : List Byte) : List Nat := (upTo (l.length / 8)).map (fun k => leNat ((l.drop (8 * k)).take 8))

/-- One element of `msa` (R129, R130). The scales are multiplied first, so that an infinite band meets the 0 of a zero scale
(DESIGN CHOICE, notes/assumptions/129.md). -/
def msaElem (old : Nat) (pb : Store (BitVec 32)) (sa sb : List Nat) (band : Val) (i j : Nat) : Nat :=
  let terms := (upTo 8).map (fun b =>
    let p := Fp.f32.value (pb.get 0 (1024 * b + 32 * i + j)).toNat
    let x := (mulExact p (scaleValue (scaleAt sa (8 * i + b)))).1
    let y := (mulExact x (scaleValue (scaleAt sb (8 * j + b)))).1
    (mulExact y band).1)
  (roundVal .f32 .rne (sumExact .rne (Fp.f32.value old :: terms)).1 false).1

/-- R129, R203. -/
def State.doMsa (s : State) (core : Nat) (c : Cmd) (d : Nat) : EngineOut :=
  let a := c.op1 0
  let b := c.op1 1
  let band := Fp.bf16.value ((c.op1 2).toNat % 2 ^ 16)
  if a.toNat % 8 ≠ 0 then .fault s cMisaligned a
  else if b.toNat % 8 ≠ 0 then .fault s cMisaligned b
  else
    let vas := fun (x : Word) => (upTo 37).map (fun k => (x + BitVec.ofNat 64 (8 * k)).toNat)
    match s.ownWords core c [] (vas a ++ vas b) with
    | .wait _ s => .wait s
    | .fault k va _ s => .fault s k (BitVec.ofNat 64 va)
    | .poison _ _ s => .ends s csSrc 0
    | .ok bytes s =>
      let ws := wordsOf bytes
      let acc := s.acc core d
      let pb := (s.part core).pb
      let vals := places.map (fun p =>
        (32 * p.1 + p.2, p.2, msaElem (acc.elem p.1 p.2) pb (ws.take 37) (ws.drop 37) band p.1 p.2))
      s.finishChecked core c vals 4096 (State.writeAcc d core)

/-- Row addresses `step` bytes apart (R199, R203, R204). -/
def rowVa (base : Word) (step r : Nat) : Nat := (base + BitVec.ofNat 64 (r * step)).toNat

/-- R203. -/
def State.doMld (s : State) (core : Nat) (c : Cmd) (d pitch : Nat) : EngineOut :=
  let a := c.op1 0
  let step := if pitch = 0 then 128 else 16 * pitch
  if a.toNat % 64 ≠ 0 then .fault s cMisaligned a
  else
    match s.readOn (matrixPort s core) c ((upTo 32).flatMap (fun r => spans (rowVa a step r) 128)) with
    | .wait got s => s.waitWith core 1 got
    | .fault k va got s => .fault s k (BitVec.ofNat 64 va) got.length
    | .poison got _ s => .ends s csSrc got.length
    | .ok bytes s =>
      .ends (State.writeAcc d core s ((upTo 1024).map (fun e => (e, leNat ((bytes.drop (4 * e)).take 4))))) csOk 4096

/-- One element as `mdrain` stores it (R122, R125, R204). For `f32` that is the element's bits, those of a NaN too, which is no
conversion (DESIGN CHOICE, notes/assumptions/114.md). -/
def drainElem (t : ElemType) (x : Nat) : Nat :=
  match t with
  | .f32 => x
  | .i32 => x
  | .i8 | .i4 =>
    let r := t.range
    let v := signOf 32 x
    wrapTo t.bits (if v < r.1 then r.1 else if r.2 < v then r.2 else v)
  | _ => (convertTo t .rne false (Fp.f32.value x)).1

/-- R122, R204. -/
def State.doMdrain (s : State) (core : Nat) (c : Cmd) (t : ElemType) (acc pitch rows cols : Nat) : EngineOut :=
  let a := c.op1 0
  let step := if pitch = 0 then 32 * t.bits / 8 else 16 * pitch
  let n := cols * t.bits / 8
  let x := s.acc core acc
  if a.toNat % 16 ≠ 0 then .fault s cMisaligned a
  else
    let row := fun (r : Nat) => natLE n (packNat t.bits ((upTo cols).map (fun j => drainElem t (x.elem r j))))
    match s.writeOn (matrixPort s core) c ((upTo rows).flatMap (fun r => writePieces (rowVa a step r) (row r))) with
    | .wait done s => s.waitAfter core 1 done
    | .fault k va done s => .fault s k (BitVec.ofNat 64 va) done
    | .poison done s => .ends s csDst done
    | .ok s => .ends s csOk (rows * n)

/-- Senders whose add-in a receiver refused get its notice (R207): a refused `mdrainr` (2) becomes noticed (3). -/
def State.noticeSenders (s : State) (l : List Nat) : State :=
  let mark := fun (x : Queue) => x.mapHead (fun (c : Cmd) => match c.instr with
    | .mdrainr .. => if c.done = 2 then { c with done := 3 } else c
    | _ => c)
  forEach l s (fun k s =>
    let s := s.modQueue k 1 mark
    s.modCore k (fun c => { c with saved := c.saved.map (fun (im : Image) =>
      { im with part := { im.part with queues := im.part.queues.map (fun p => if p.1 = 1 then (1, mark p.2) else p) } }) }))

/-- The receive word of an accumulator is written full (R206). -/
def State.receiveDone (s : State) (core n : Nat) (r : Receive) : State :=
  (s.modAcc core n (fun x => { x with recv := none })).storeFull (spKey core r.word)
    (BitVec.ofNat 64 (r.status + r.got % 2 ^ 16 * 2 ^ 16))

/-- R205. -/
def State.doMrecv (s : State) (core : Nat) (c : Cmd) (acc n : Nat) : EngineOut :=
  let va := c.op1 0
  if va.toNat % 8 ≠ 0 then .fault s cMisaligned va
  else
    match s.engPa (matrixPort s core) c {} va.toNat with
    | .fault k => .fault s k va
    | .wait s => .wait s
    | .ok pa t =>
      match t.locate pa with
      | .scratch o off =>
        if o ≠ core then .fault s cIllegalOperand va
        else
          let t := t.noticeSenders (t.acc core acc).refused
          if n = 0 then .ends (t.storeFull (spKey core off) 0) csOk 0
          else .ends (((t.setFull (spKey core off) false).serveWords (spKey core off)).modAcc core acc
            (fun x => { x with recv := some { left := n, word := off } })) csOk 0
      | _ => .fault s cIllegalOperand va

/-- The physical core that an `mdrainr` names, if it holds a part of the sender's job (R206, R428). -/
def State.addInTarget (s : State) (core : Nat) (x : Word) : Option Nat :=
  if 1152 ≤ x.toNat then none
  else match s.physOf x.toNat with
    | none => none
    | some k =>
      match s.sameJob core k with
      | (false, false) => none
      | _ => some k

/-- R206: the add-in leaves, and the command stays at the head of its queue until it is performed (1). -/
def State.doMdrainr (s : State) (core : Nat) (c : Cmd) : EngineOut :=
  match s.addInTarget core (c.op1 0) with
  | none => .fault s cTranslation s.openTval
  | some _ => .stays (s.modQueue core 1 (fun x => x.mapHead (fun c => { c with done := 1 })))

/-- Perform a command of the matrix queue (R201). -/
def State.doMatrix (s : State) (core : Nat) (c : Cmd) : EngineOut :=
  match c.instr with
  | .mma t d ca offa cb offb kh _ => s.doMma core c t d ca offa cb offb kh
  | .msa d _ _ _ _ => s.doMsa core c d
  | .mz d _ => .ends (s.modAcc core d (fun x => { x with elems := [] })) csOk 4096
  | .mzPb _ => .ends (s.modPart core (fun p => { p with pb := [] })) csOk 32768
  | .mld d _ pitch _ => s.doMld core c d pitch
  | .mdrain t acc _ pitch rows cols _ => s.doMdrain core c t acc pitch rows cols
  | .mdrainr .. => if c.done = 0 then s.doMdrainr core c else .wait s
  | .mrecv acc n _ _ => s.doMrecv core c acc n
  | _ => .wait s

/-- R200: the valid rows of a slot, whole rows of 64 bytes with zeros behind the valid bytes. -/
def State.doTst (s : State) (core : Nat) (c : Cmd) (st off pitch : Nat) : EngineOut :=
  let a := c.op1 0
  let x := s.slot core ((s.stream core st).slotAt off)
  let p : Port := { core, client := .queue core 0, reach := .tile, kind := Config.nat s.tick 221 % 6 }
  if a.toNat % 8 ≠ 0 then .fault s cMisaligned a
  else
    let row := fun (r : Nat) => natLE 64 ((x.rows.get 0 r).toNat % 2 ^ (8 * x.bytes))
    match s.writeOn p c ((upTo x.valid).flatMap (fun r => writePieces (rowVa a (64 * pitch) r) (row r))) with
    | .wait done s => s.waitAfter core 0 done
    | .fault k va done s => .fault s k (BitVec.ofNat 64 va) done
    | .poison done s => .ends s csDst done
    | .ok s => .ends s csOk (64 * x.valid)

/-! ## Joint commands and tile loads (R192 to R197, R199) -/

/-- R192: two ranges of slots share a slot. -/
def overlap (b n b' n' : Nat) : Bool := decide (max b b' < min (b + n) (b' + n'))

/-- Perform a joint command that stands at the head of both queues. -/
def State.doJoint (s : State) (core : Nat) (i : Instr) : EngineOut :=
  match i with
  | .cbcfg c base nslots ring _ =>
    if (s.part core).loads.any (fun x => decide (x.stream = some c)) then .wait s
    else if (s.part core).streams.any (fun p => decide (p.1 ≠ c) && p.2.ring && overlap base nslots p.2.base p.2.nslots) then
      .fault s cIllegalOperand s.openTval
    else .ends (s.setStream core c { base, nslots, ring }) csOk 0
  | .cbrel c n _ =>
    let x := s.stream core c
    if x.nslots < n then .fault s cIllegalOperand s.openTval
    else if x.comm < n then .wait s
    else if n = 0 then .ends s csOk 0
    else .ends (s.setStream core c { x with
      head := (x.head + n) % x.nslots, comm := x.comm - n, resv := x.resv - n, assigned := x.assigned - n }) csOk 0
  | _ => .wait s

/-- A tile load leaves the head of its queue and takes the next position of its stream. One load at a time holds a position it has
not committed, so that a cancelled one is the latest holder (R193, notes/assumptions/41.md). -/
def State.departLoad (s : State) (core : Nat) (c : Cmd) (k : Nat) : State :=
  let x := s.stream core k
  let s := (s.dropHead core 0).setStream core k { x with assigned := x.assigned + 1 }
  s.modPart core (fun p => { p with loads := p.loads ++ [{ c with pos := some ((x.head + x.assigned) % x.nslots) }] })

/-- The bytes of a row that a load reads (R199). -/
def rowBytes (t : ElemType) (cols : Nat) : Nat := cols * t.bits / 8

/-- Bytes of a load reach the rows of its slot; the others stay as they were (R199). -/
def TileSlot.deliver (x : TileSlot) (rows n : Nat) (bytes : List Byte) : TileSlot :=
  { x with rows := (upTo rows).foldl (fun (m : Store (BitVec 512)) r =>
      let new := (bytes.drop (r * n)).take n
      m.set r (BitVec.ofNat 512 ((x.rows.get 0 r).toNat / 2 ^ (8 * new.length) * 2 ^ (8 * new.length) + leNat new))) x.rows }

/-- The slot of a load whose bytes are all there (R199). -/
def TileSlot.fill (x : TileSlot) (rows n : Nat) (bytes : List Byte) : TileSlot :=
  { x.deliver rows n bytes with valid := rows, bytes := n }

/-- The load on its way is out of the tile-load unit. -/
def State.dropLoad (s : State) (core : Nat) : State := s.modPart core (fun p => { p with loads := p.loads.tail })

/-- The spans of a load in the order of its rows. -/
def Cmd.loadSpans (c : Cmd) : List (Nat × Nat) :=
  match c.instr with
  | .tld t _ _ pitch rows cols _ => (upTo rows).flatMap (fun r => spans (rowVa (c.op1 0) (64 * pitch) r) (rowBytes t cols))
  | _ => []

def loadPort (core : Nat) : Port := { core, client := .queue core 0, reach := .tile, kind := 0, susp := 1, queue := 0 }

/-- What a load has delivered stands in its slot, and it goes on behind it (R174, R178). -/
def State.loadReached (s : State) (core slot rows n : Nat) (got : List Byte) : State :=
  s.modPart core (fun p => { p with
    slots := p.slots.set slot ((p.slots.get {} slot).deliver rows n got)
    loads := modAt (fun (c : Cmd) => { c with buf := got }) p.loads 0 })

/-- The slot of a load. -/
def State.loadSlot (s : State) (core k : Nat) (c : Cmd) : Nat := (s.stream core k).base + c.pos.getD 0

/-- A load commits its slot (R194, R199), or faults, or ends squashed (R178, R193). What has been delivered stays in the slot
while it waits for its bank or is suspended (R174, R178, R213). -/
def State.commitLoad (s : State) (core : Nat) (c : Cmd) : State :=
  match c.instr with
  | .tld t k _ _ rows cols _ =>
    let n := rowBytes t cols
    let slot := s.loadSlot core k c
    let commit := fun (s : State) (y : TileSlot) (status offset : Nat) =>
      let s := s.modPart core (fun p => { p with slots := p.slots.set slot y })
      let s := (s.setStream core k { s.stream core k with comm := (s.stream core k).comm + 1 }).dropLoad core
      s.complete core c.cw c.seq status offset
    if c.squashed then (((s.dropLoad core).leaveQueue core 0).cancelLoad core k true).complete core c.cw c.seq csSquashed c.buf.length
    else if (c.op1 0).toNat % 64 ≠ 0 then (s.dropLoad core).faultCommand core 0 c cMisaligned (c.op1 0) 0
    else
      match s.readOn (loadPort core) c c.loadSpans with
      | .wait got s => s.loadReached core slot rows n got
      | .fault k va got s => ((s.loadReached core slot rows n got).dropLoad core).faultCommand core 0 c k (BitVec.ofNat 64 va) got.length
      | .poison got _ s => commit s { (s.slot core slot).deliver rows n got with valid := 0 } csSrc got.length
      | .ok bytes s => commit s ((s.slot core slot).fill rows n bytes) csOk (rows * n)
  | _ => s

/-! ## Activations ahead (R172) -/

/-- The own vault offset at which an access of a queue's command lies, where its translation is known. -/
def State.ownPlace (s : State) (core q : Nat) (c : Cmd) (va : Nat) : Option Nat :=
  match s.resolve (.queue core q) core (s.asid core) c.pl {} va with
  | .ok pa =>
    match s.locate pa with
    | .vault o off => if o = core then some off else none
    | _ => none
  | _ => none

def State.loadPlace (s : State) (core : Nat) (c : Cmd) (va : Nat) : Option Nat := s.ownPlace core 0 c va

/-- The loads that the unit works on: the one on its way and up to three queued behind it (R172). -/
def State.loadsAhead (s : State) (core : Nat) : List Cmd :=
  (s.part core).loads ++ (((s.queue core 0).entries.map (fun e => match e with
    | .cmd c => if c.stream.isSome && c.ready then some c else none
    | .barrier _ _ => none)).takeWhile (·.isSome)).filterMap id |>.take 4

/-- The vault offsets at which a load goes on at banks that it has not come to before, those it is still to be read at: one for each
bank, or none where a translation is not known (R172). -/
def State.loadBanks (s : State) (core : Nat) (c : Cmd) : List (Option Nat) :=
  (dropSpans (·.2) c.buf.length c.loadSpans).foldl (fun l x =>
    match s.loadPlace core c x.1 with
    | some off => if l.any (fun o => o.any (fun o => decide (bankOf o = bankOf off))) then l else l ++ [some off]
    | none => l ++ [none]) []

/-- The unit works on the requests of a load ahead of its transfer, at the banks that the loads before it do not come to: where the
load's turn comes its row is opened and it keeps its place for its transfer, and where it must wait it does, which is counted while that suspends nothing (R168, R172). Which
it works on is free (DESIGN CHOICE, notes/assumptions/41.md). -/
def State.openAhead (s : State) (core : Nat) : State :=
  let p := loadPort core
  let banks := (s.loadsAhead core).map (fun c => (c, s.loadBanks core c))
  forEach (upTo banks.length) s (fun j s =>
    match banks[j]? with
    | none => s
    | some (c, l) =>
      let before := (banks.take j).flatMap (·.2)
      forEach (upTo l.length) s (fun i s =>
        match (l[i]?).join with
        | none => s
        | some off =>
          let apart := (before ++ l.take i).all (fun o => o.any (fun o => decide (bankOf o ≠ bankOf off)))
          if j + i = 0 ∨ !apart ∨ !Config.bit s.tick (2 ^ 22 + 64 * j + i) then s
          else match s.atPlace (p.at_ c) core off with
          | some t => (t.stayAt (p.at_ c) core off (s.turnAt core (bankOf off) (p.at_ c)) 1 (s.engSource p c core).charged p.susp c.num).touchRow
              core off (s.engSource p c core)
          | none =>
            if (s.freshWorks core off (p.at_ c)).any (fun x => (s.core core).part.regs.vevMask.getLsbD x.2) then s
            else s.engStall p c core off))

end Sys2Proof.Machine
end

