-- ==== Sys2Proof/Machine/Groups.lean ====
section
/-! DEFINITION. Groups: the records of the group units, what each request does there, and the `grp.*` forms (R244 to R260,
R403 to R406). -/

namespace Sys2Proof.Machine

/-! ## Records (R244 to R246) -/

/-- A name that a group may have (R244). -/
def nameOk (x : Word) : Bool := decide (x.toNat < 2 ^ 48) && decide (x ≠ 0)
/-- The home unit of a name (R244). -/
def homeOf (x : Word) : Nat := x.toNat * 0x9E3779B1 % 48

def ridOf (h : Word) : Nat := h.toNat % 2 ^ 14
def epochOf (h : Word) : BitVec 32 := (h >>> 32).setWidth 32
def handleOf (rid : Nat) (epoch : BitVec 32) : Word := BitVec.ofNat 64 (epoch.toNat * 2 ^ 32 + rid)

def State.group (s : State) (rid : Nat) : Group := (s.unit (rid / 256)).groups.get {} (rid % 256)
def State.setGroup (s : State) (rid : Nat) (x : Group) : State :=
  s.modUnit (rid / 256) (fun u => { u with groups := u.groups.set (rid % 256) x })

/-- The record of a handle, if its epoch and address space match (R246). -/
def State.recordOf (s : State) (asid : BitVec 16) (h : Word) : Option Group :=
  let x := s.group (ridOf h)
  if x.live && decide (x.epoch = epochOf h) && decide (x.asid = asid) then some x else none

/-- The record id of a name of an address space (R244). -/
def State.findName (s : State) (asid : BitVec 16) (name : Word) : Option Nat :=
  let u := homeOf name
  ((s.unit u).groups.find? (fun p => p.2.live && decide (p.2.asid = asid) && decide (p.2.name = name.toNat))).map
    (fun p => u * 256 + p.1)

/-! ## Contributions (R255) -/

/-- The first contribution of a phase, and each later one. -/
def contribute (k : Contribution) (first : Bool) (acc x : Word) : Word :=
  let lo := x.toNat % 2 ^ 32
  let old := acc.toNat % 2 ^ 32
  let vote : Word := if x ≠ 0 then 1 else 0
  match k with
  | .none => acc
  | .vote .any => if first then vote else acc ||| vote
  | .vote .all => if first then vote else acc &&& vote
  | .vote .cnt => if first then vote else acc + vote
  | .red .add .i32 => let y := BitVec.ofInt 64 (signOf 32 lo); if first then y else acc + y
  | .red .add .u32 => let y := BitVec.ofNat 64 lo; if first then y else acc + y
  | .red .add .f32 => BitVec.ofNat 64 (if first then lo else (fpAdd .f32 .rne old lo).1)
  | .red .min .i32 => BitVec.ofNat 64 (if first then lo else if signOf 32 lo < signOf 32 old then lo else old)
  | .red .max .i32 => BitVec.ofNat 64 (if first then lo else if signOf 32 old < signOf 32 lo then lo else old)
  | .red .min .u32 => BitVec.ofNat 64 (if first then lo else if lo < old then lo else old)
  | .red .max .u32 => BitVec.ofNat 64 (if first then lo else if old < lo then lo else old)
  | .red .min .f32 => BitVec.ofNat 64 (if first then lo else (fpSelect .f32 false old lo).1)
  | .red .max .f32 => BitVec.ofNat 64 (if first then lo else (fpSelect .f32 true old lo).1)

/-- RES at completion (R255). -/
def phaseResult (k : Contribution) (acc : Word) : Word :=
  let lo := acc.toNat % 2 ^ 32
  match k with
  | .none => 0
  | .red .min .i32 | .red .max .i32 => BitVec.ofInt 64 (signOf 32 lo)
  | .red .min .f32 | .red .max .f32 => if (Fp.f32.value lo).isNan then BitVec.ofNat 64 Fp.f32.nanCode else acc
  | _ => acc

/-- An arrival with its contribution, or none where its KIND is not the phase's (R253, R255). -/
def Group.arrive (x : Group) (k : Contribution) (v : Word) : Option Group :=
  match k with
  | .none => some { x with a := x.a + 1 }
  | _ =>
    if x.kind = .none then some { x with a := x.a + 1, kind := k, acc := contribute k true 0 v, nc := 1 }
    else if x.kind = k then some { x with a := x.a + 1, acc := contribute k false x.acc v, nc := x.nc + 1 }
    else none

/-! ## Completion (R251, R252) -/

/-- A record is freed: its epoch rises and its regions are dropped (R251, R288). -/
def Group.freed (x : Group) : Group := { epoch := x.epoch + 1 }

def Group.freeIfEmpty (x : Group) : Group := if x.live && decide (x.m = 0) && decide (x.joinq = 0) then x.freed else x

/-- A phase completes if every member has arrived and every expected byte is credited (R252). -/
def Group.complete (x : Group) : Group :=
  if x.live && x.isOpen && decide (x.a = x.m0) && decide (x.exp ≤ x.got) then
    let m := x.m + x.joinq - x.leaveq
    { x with
      res := phaseResult x.kind x.acc
      lstatus := if x.depnow then 8 else 0
      got := x.got - x.exp, exp := 0, a := 0, kind := .none, acc := 0, nc := 0, depnow := false
      m, joinq := 0, leaveq := 0, m0 := m
      phase := x.phase + 1, wdogRun := 0, fired := false }
  else x

/-- Change the handle register of a membership of a context of a job's part, in its core or in its saved image (R78). -/
def State.modHandle (s : State) (w : Who) (job : BitVec 32) (n no : Nat) (value : Word) (f : Handle → Handle) : State :=
  let change := fun (c : Ctx) =>
    let x := c.regs.h.get {} n
    if x.value = value ∧ x.no = no ∧ x.kind ≠ .none then { c with regs := { c.regs with h := c.regs.h.set n (f x) } } else c
  match (s.core w.core).saved with
  | some im =>
    if im.run.job = job then
      s.modCore w.core (fun c => { c with saved := some { im with
        part := { im.part with ctxs := im.part.ctxs.map (fun p => if p.1 = w.slot then (p.1, change p.2) else p) } } })
    else s.modCtx w change
  | none => s.modCtx w change

/-- A membership has arrived in a phase (R253). -/
def Handle.arrivedIn (phase : BitVec 32) (h : Handle) : Handle := { h with arrived := true, ap := phase }

/-- Perform one arrival that a record in GATHER held; a context that waits for it completes, or traps on its KIND (R253). Where it must wait
as a release, for a write to a region bound meanwhile, a deferred one stays at the unit, and the context sends its own again (R284, R288). -/
def State.performHeld (s : State) (rid : Nat) (e : GatherHeld) : State :=
  let x := s.group rid
  let value := handleOf rid x.epoch
  if s.owesWrites e.who x.regions e.covers then
    if e.deferred then s.askUnit (rid / 256) (.arrive e.who e.job e.h value e.no e.covers)
    else s.modHold e.who (fun h => { h with waiting := h.hand, hand := none })
  else match x.arrive e.kind e.value with
  | some y =>
    let s := (s.setGroup rid y).modHandle e.who e.job e.h e.no value (Handle.arrivedIn x.phase)
    if e.deferred then s
    else match (s.ctx e.who).hold.hand with
      | some i => s.finish e.who i
      | none => s
  | none => (s.modHold e.who (fun h => { h with hand := none })).trapSync e.who cIllegalOperand value

/-- What follows every update of a record (R251, R252). -/
def State.evaluate (s : State) (rid : Nat) : State :=
  let x := s.group rid
  let s := if x.live && !x.isOpen && decide (x.quorum ≤ x.m) then
      forEach x.heldArrivals (s.setGroup rid { x with isOpen := true, m0 := x.m, heldArrivals := [] })
        (fun e s => s.performHeld rid e)
    else s
  s.setGroup rid (s.group rid).complete.freeIfEmpty

/-- Change a record, then evaluate it. -/
def State.update (s : State) (rid : Nat) (x : Group) : State := (s.setGroup rid x).evaluate rid

/-! ## Requests that no context waits on (R253, R254, R258, R259) -/

def creditLimit : Nat := 2 ^ 48 - 1

/-- A request is the deferred arrival of a membership. -/
def GroupRequest.arrives (w : Who) (n no : Nat) (h : Word) : GroupRequest → Bool
  | .arrive w' _ n' h' no' _ => decide (w' = w) && decide (n' = n) && decide (h' = h) && decide (no' = no)
  | _ => false

/-- Perform one request at a group unit. -/
def State.performGroup (s : State) (r : GroupRequest) : State :=
  let at_ := fun (h : Word) (k : Group → State) =>
    let x := s.group (ridOf h)
    if x.live && decide (x.epoch = epochOf h) then k x else s
  match r with
  | .credit h n => at_ h (fun x => s.update (ridOf h) { x with got := min creditLimit (x.got + n) })
  | .arrive w job n h no covers => at_ h (fun x =>
      if !x.isOpen then
        s.setGroup (ridOf h) { x with heldArrivals := x.heldArrivals ++ [⟨w, job, n, true, .none, 0, no, covers⟩] }
      else (s.modHandle w job n no h (Handle.arrivedIn x.phase)).update (ridOf h) { x with a := x.a + 1 })
  | .depart h joining arrived paused w n no => at_ h (fun x =>
      let x := { x with paused := if paused then x.paused - 1 else x.paused }
      -- a join takes effect at the first boundary behind it (R249, R252)
      if joining = some x.phase then s.update (ridOf h) { x with joinq := x.joinq - 1 }
      else
        let early := x.isOpen && !arrived
        let s := s.modUnit (ridOf h / 256) (fun u => { u with queue := u.queue.filter (fun q => !q.arrives w n no h) })
        s.update (ridOf h) { x with
          m := x.m - 1, departed := true
          m0 := if early then x.m0 - 1 else x.m0
          depnow := x.depnow || early
          heldArrivals := x.heldArrivals.filter (fun e => !(decide (e.who = w) && decide (e.h = n) && decide (e.no = no))) })
  | .pause _ h enter => at_ h (fun x => s.setGroup (ridOf h) { x with paused := if enter then x.paused + 1 else x.paused - 1 })

/-- The core a request comes from, where its order matters. -/
def GroupRequest.origin : GroupRequest → Option Nat
  | .credit _ _ => none
  | .arrive w _ _ _ _ _ => some w.core
  | .depart _ _ _ _ w _ _ => some w.core
  | .pause w _ _ => some w.core

/-- A deferred arrival that must still wait as a release, whatever is performed before it meanwhile (R254, R284). -/
def State.isOwing (s : State) : GroupRequest → Bool
  | .arrive w _ _ h _ covers =>
    let x := s.group (ridOf h)
    x.live && decide (x.epoch = epochOf h) && s.owesWrites w x.regions covers
  | _ => false

/-- Requests that reach their unit now, in order: those of one core, and of every other core as many as have come so far, in
the order in which it sent them; not those that are `owing`. `late` are the cores whose later requests come behind one that has not. -/
def arrivingNow (tick core : Nat) (owing : GroupRequest → Bool) : Nat → List Nat → List GroupRequest → List (GroupRequest × Bool)
  | _, _, [] => []
  | k, late, r :: l =>
    let comes := match r.origin with
      | none => Config.bit tick (300 + k)
      | some o => decide (o = core) || (!decide (o ∈ late) && Config.bit tick (300 + k))
    (r, comes && !owing r) :: arrivingNow tick core owing (k + 1) (if comes then late else r.origin.toList ++ late) l

/-- The requests that reach a unit before one of a core's contexts: the core's own earlier ones, and any of the others. -/
def State.unitFirst (s : State) (core u : Nat) : State :=
  let l := (s.unit u).queue
  if l.isEmpty then s
  else
    let now := arrivingNow s.tick core s.isOwing 0 [] l
    let s := s.modUnit u (fun x => { x with queue := (now.filter (fun p => !p.2)).map (·.1) })
    forEach (now.filter (·.2)) s (fun p s => s.performGroup p.1)

/-- Perform the n-th request on its way to a unit, if it is of the wanted kind and none of the same core is ahead of it. -/
def State.performQueued (s : State) (u n : Nat) (want : GroupRequest → Bool) : State :=
  let l := (s.unit u).queue
  match l[n]? with
  | none => s
  | some r =>
    let ahead := (l.take n).any (fun q => decide (q.origin = r.origin) && r.origin.isSome && !s.isOwing q)
    if !want r || ahead || s.isOwing r then s
    else (s.modUnit u (fun x => { x with queue := dropAt x.queue n })).performGroup r

/-! ## The forms (R247 to R257) -/

/-- The handle checks of R246, at issue and at the unit. -/
def State.checkHandle (s : State) (w : Who) (n : Nat) (k : Handle → Nat → Group → State → Effect) : Effect :=
  let h := s.h w n
  if h.value = 0 ∨ h.kind ≠ .member then .done (s.trapSync w cIllegalOperand h.value)
  else
    let s := s.unitFirst w.core (unitOfHandle h.value)
    match s.recordOf (s.asid w.core) h.value with
    | some x => k (s.h w n) (ridOf h.value) x s
    | none => .done (s.trapSync w cIllegalOperand h.value)

/-- An arrival, with or without a contribution: a release; held by a record in GATHER, where the context waits (R253,
R284). -/
def State.arrival (s : State) (w : Who) (i : Instr) (n : Nat) (kind : Contribution) (v : Word) : Effect :=
  s.checkHandle w n (fun h rid x s =>
    if h.arrived then .done (s.trapSync w cIllegalOperand h.value)
    else
      s.releaseObject w x.regions (fun s =>
        if !x.isOpen then
          .done ((s.setGroup rid { x with heldArrivals := x.heldArrivals ++ [⟨w, (s.core w.core).jobId, n, false, kind, v, h.no, s.coversNow w⟩] }).inHand w i)
        else
          match x.arrive kind v with
          | none => .done (s.trapSync w cIllegalOperand h.value)
          | some y => .done (((s.setH w n (h.arrivedIn x.phase)).update rid y).advance w i)))

/-- R253. -/
def execGrpArr (h : Nat) (s : State) : Host.Outcome State Fault Refusal :=
  run (.grpArr h) s (fun w s => s.arrival w (.grpArr h) h .none 0)

/-- The transfers that a context has issued and that are not complete, those of earlier tasks among them (R254, R406). -/
def State.copiesOf (s : State) (w : Who) : List (Nat × BitVec 32) :=
  (upTo 4).flatMap (fun ch => ((s.queue w.core (4 + ch)).cmds.filter (fun c => decide (c.slot = w.slot))).map (fun c => (ch, c.seq)))

/-- R254: MS.ARRIVED is set, and the core holds the arrival until the context's copies have completed. -/
def execGrpArrd (h : Nat) (s : State) : Host.Outcome State Fault Refusal :=
  let i := Instr.grpArrd h
  run i s (fun w s =>
    let x := s.h w h
    if x.value = 0 ∨ x.kind ≠ .member ∨ x.arrived then .done (s.trapSync w cIllegalOperand x.value)
    else
      let waits := s.copiesOf w
      .done (((s.setH w h { x with arrived := true }).modCtx w (fun c =>
        { c with held := c.held ++ [{ h, handle := x.value, waits, no := x.no, covers := s.coversNow w }] })).advance w i))

/-- R253. An overflow at the unit reports `g[gb]` (DEDUCED, notes/assumptions/135.md). -/
def execGrpExp (h b : Nat) (s : State) : Host.Outcome State Fault Refusal :=
  let i := Instr.grpExp h b
  run i s (fun w s =>
    let v := s.g w b
    if (s.h w h).value ≠ 0 ∧ (s.h w h).kind = .member ∧ 2 ^ 48 ≤ v.toNat then .done (s.trapSync w cIllegalOperand v)
    else s.checkHandle w h (fun _ rid x s =>
      if creditLimit < x.exp + v.toNat then .done (s.trapSync w cIllegalOperand v)
      else .done ((s.update rid { x with exp := x.exp + v.toNat }).advance w i)))

/-- The outcome of `grp.new` or `grp.join` in `pd`; a failure leaves `hd` zero (R248). -/
def State.groupFails (s : State) (w : Who) (i : Instr) (d p reason : Nat) : Effect :=
  .done (((s.setH w d {}).result w 1 (.p p (BitVec.ofNat 64 (1 + 2 ^ reason)))).advance w i)

/-- R249, R260: a first join is sent once; the form then waits for OPEN or for the boundary. A bad name is reported before an
`hd` that is MEMBER (DESIGN CHOICE, notes/assumptions/133.md), and an `hd` JOINING another record is overwritten (DESIGN CHOICE,
notes/assumptions/134.md). -/
def execGrpJoin (d p a : Nat) (s : State) : Host.Outcome State Fault Refusal :=
  let i := Instr.grpJoin d p a
  run i s (fun w s =>
    let h := s.h w d
    let name := s.g w a
    let asid := s.asid w.core
    if !nameOk name then .done (s.trapSync w cIllegalOperand name)
    else if h.kind = .member then .done (s.trapSync w cIllegalOperand h.value)
    else
      let u := homeOf name
      let s1 := s.unitFirst w.core u
      match s1.findName asid name with
      | none => s1.groupFails w i d p 2
      | some rid =>
        let x := s1.group rid
        let value := handleOf rid x.epoch
        if h.kind ≠ .none ∧ h.value = value then
          let through := if h.kind = .gathered then x.isOpen else decide (x.phase ≠ h.ap)
          if through then
            .done (((s1.setH w d { value, kind := .member, no := h.no }).result w 1 (.p p 0)).advance w i)
          else .wait (fun s0 => s0.unitFirst w.core u)
        else if 16383 < x.m + x.joinq + 1 then s1.groupFails w i d p 3
        else
          let paused := if (s.ctx w).status.intrap then x.paused + 1 else x.paused
          if x.isOpen then
            .wait (fun s0 => ((s0.unitFirst w.core u).setGroup rid { x with joinq := x.joinq + 1, paused }).setH w d
              { value, kind := .joining, ap := x.phase, no := s.tick })
          else
            .wait (fun s0 => (((s0.unitFirst w.core u).setH w d { value, kind := .gathered, no := s.tick })).update rid
              { x with m := x.m + 1, paused }))

/-- R250. -/
def execGrpLeave (h : Nat) (s : State) : Host.Outcome State Fault Refusal :=
  let i := Instr.grpLeave h
  run i s (fun w s => s.checkHandle w h (fun hd rid x s =>
    let x := { x with paused := if (s.ctx w).status.intrap then x.paused - 1 else x.paused }
    let y := if !x.isOpen then { x with m := x.m - 1 }
      else if hd.arrived then { x with leaveq := x.leaveq + 1 }
      else { x with a := x.a + 1, leaveq := x.leaveq + 1 }
    .done (((s.setH w h {}).update rid y).advance w i)))

/-- R248: a record of the home unit is taken; which free one is not architected. A live name is reported before the want of a
record, a bad name before an `hd` that is MEMBER (DESIGN CHOICE, notes/assumptions/133.md); an `hd` that is JOINING is
overwritten (DESIGN CHOICE, notes/assumptions/134.md); RES, LSTATUS and WDOG_T begin at 0 (DESIGN CHOICE,
notes/assumptions/136.md); an EPOCH that has wrapped to 0 is taken as 1 (DESIGN CHOICE, notes/assumptions/149.md). -/
def execGrpNew (d p a quorum : Nat) (s : State) : Host.Outcome State Fault Refusal :=
  let i := Instr.grpNew d p a quorum
  run i s (fun w s =>
    let h := s.h w d
    let name := s.g w a
    let asid := s.asid w.core
    if !nameOk name then .done (s.trapSync w cIllegalOperand name)
    else if h.kind = .member then .done (s.trapSync w cIllegalOperand h.value)
    else
      let u := homeOf name
      let s := s.unitFirst w.core u
      if (s.findName asid name).isSome then s.groupFails w i d p 2
      else
        let free := (upTo 256).filter (fun k => !(s.group (u * 256 + k)).live)
        match free[Config.nat s.tick 240 % free.length]? with
        | none => s.groupFails w i d p 1
        | some k =>
          let rid := u * 256 + k
          let old := (s.group rid).epoch
          let epoch := if old = 0 then 1 else old
          let opens := decide (quorum ≤ 1)
          let x : Group := {
            live := true, name := name.toNat, asid, epoch, isOpen := opens, quorum, m := 1
            m0 := if opens then 1 else 0
            paused := if (s.ctx w).status.intrap then 1 else 0 }
          .done ((((s.setGroup rid x).setH w d { value := handleOf rid epoch, kind := .member, no := s.tick }).result w 1 (.p p 0)).advance w i))

/-- R253, R255. -/
def execGrpRed (op : RedOp) (t : RedType) (h b : Nat) (s : State) : Host.Outcome State Fault Refusal :=
  let i := Instr.grpRed op t h b
  run i s (fun w s => s.arrival w i h (.red op t) (s.g w b))

/-- R256. -/
def execGrpRes (d h : Nat) (s : State) : Host.Outcome State Fault Refusal :=
  let i := Instr.grpRes d h
  run i s (fun w s => s.checkHandle w h (fun _ _ x s => .done ((s.setG w d x.res).advance w i)))

/-- The word of `grp.stat` (R256). -/
def statWord (x : Group) (arrived : Bool) : Word :=
  let bit := fun (b : Bool) (k : Nat) => if b then 2 ^ k else 0
  BitVec.ofNat 64 (bit x.departed 63 + bit (!x.isOpen) 62 + bit x.fired 61 + bit arrived 60 + x.a % 2 ^ 14 * 2 ^ 46
    + x.m % 2 ^ 14 * 2 ^ 32 + x.lstatus.toNat * 2 ^ 16 + x.phase.toNat % 2 ^ 16)

/-- R256. -/
def execGrpStat (d h : Nat) (s : State) : Host.Outcome State Fault Refusal :=
  let i := Instr.grpStat d h
  run i s (fun w s => s.checkHandle w h (fun hd _ x s => .done ((s.setG w d (statWord x hd.arrived)).advance w i)))

/-- R253, R255. -/
def execGrpVote (op : VoteOp) (h b : Nat) (s : State) : Host.Outcome State Fault Refusal :=
  let i := Instr.grpVote op h b
  run i s (fun w s => s.arrival w i h (.vote op) (s.g w b))

/-- A deferred arrival of a membership that no unit has performed yet (R254, R406). -/
def State.arrivalHeld (s : State) (w : Who) (n : Nat) (hd : Handle) : Bool :=
  (s.ctx w).held.any (fun e => decide (e.h = n) && decide (e.no = hd.no))
    || (s.unit (unitOfHandle hd.value)).queue.any (·.arrives w n hd.no hd.value)
    || (s.group (ridOf hd.value)).heldArrivals.any (fun e =>
      e.deferred && decide (e.who = w) && decide (e.h = n) && decide (e.no = hd.no))

/-- R257, R259: an acquire when the phase is over; GROUP_WATCHDOG when its watchdog has fired. -/
def execGrpWait (h : Nat) (s : State) : Host.Outcome State Fault Refusal :=
  let i := Instr.grpWait h
  run i s (fun w s => s.checkHandle w h (fun hd rid x s =>
    if !hd.arrived then .done (s.trapSync w cIllegalOperand hd.value)
    else if !s.arrivalHeld w h hd ∧ x.phase ≠ hd.ap then
      .done (((s.setH w h { hd with arrived := false }).emptyLatch w.core).advance w i)
    else if x.fired then
      .done (s.trapSync w cGroupWatchdog (BitVec.ofNat 64 (rid * 2 ^ 32 + x.phase.toNat)))
    else .wait (fun s0 => s0.unitFirst w.core (unitOfHandle hd.value))))

/-- R259. -/
def execGrpWdog (h b : Nat) (s : State) : Host.Outcome State Fault Refusal :=
  let i := Instr.grpWdog h b
  run i s (fun w s =>
    let v := s.g w b
    if (s.h w h).value ≠ 0 ∧ (s.h w h).kind = .member ∧ 2 ^ 32 ≤ v.toNat then .done (s.trapSync w cIllegalOperand v)
    else s.checkHandle w h (fun _ rid x s =>
      .done ((s.setGroup rid { x with wdogT := v.toNat, wdogRun := 0 }).advance w i)))

end Sys2Proof.Machine
end

