-- ==== Sys2Proof/Machine/Ordering.lean ====
section
/-! DEFINITION. Fences, drains, barriers and bindings (R216, R288 to R296). -/

namespace Sys2Proof.Machine

/-- R289: the release part, then the acquire part. -/
def execFence (kind : FenceKind) (scope : Scope) (s : State) : Host.Outcome State Fault Refusal :=
  run (.fence kind scope) s (fun w s =>
    let fin := fun (s : State) => Effect.done (s.advance w (.fence kind scope))
    match kind with
    | .acq => fin (s.emptyLatch w.core)
    | .rel => s.release w scope fin
    | .full => s.release w scope (fun s => fin (s.emptyLatch w.core)))

/-! ## Drains (R295) -/

/-- The paths of a storage location, seen from a core. -/
def pathsOf (own : Nat) (l : Loc) : List DrainPath :=
  match l with
  | .scratch k _ => if k = own then [.sp] else [.sp, .remote]
  | .vault k o => [.vault] ++ (if k = own then [] else [.remote]) ++ (if isGaz o then [.table] else [])
  | .far _ => [.far, .remote]
  | .other key =>
    let off := keyOff key
    if 0x7FF = key / 2 ^ 47 % 2 ^ 11 then [.far, .remote]
    else if 0x10000000 ≤ off then [.sp, .remote]
    else [.vault, .remote] ++ (if isGaz off then [.table] else [])
  | .nowhere => []

/-- The bit that stands for a path. -/
def pathBit : DrainPath → Nat
  | .vault => 0
  | .sp => 1
  | .remote => 2
  | .far => 3
  | .table => 4

/-- A copy notes the paths of a chunk. -/
def Cmd.notePaths (c : Cmd) (l : List DrainPath) : Cmd :=
  { c with copy := { c.copy with paths := l.foldl (fun m p => m ||| 2 ^ pathBit p) c.copy.paths } }

/-- Whether a command may still write storage of a path, or has. -/
def State.mayWrite (s : State) (core q : Nat) (p : DrainPath) (c : Cmd) : Bool :=
  let aims := fun (_ : Unit) =>
    match s.translate (.queue core q) core (s.asid core) c.pl { write := true } (c.op1 0).toNat with
    | .ok pa => decide (p ∈ pathsOf core (s.locate pa))
    | _ => true
  match c.instr with
  | .tcopy .. => decide (c.done < c.transfer.total) || c.copy.paths.testBit (pathBit p)
  | .tst .. | .mdrain .. => (decide (p = .vault) || decide (p = .sp)) && aims ()
  | .apSt .. | .apSweep .. => decide (p = .vault)
  | _ => false

/-- The queues whose commands write memory. -/
def writingQueues : List Nat := [0, 1, 2, 4, 5, 6, 7]

/-- R295: the commands issued before the drain that may write its path, and that are not complete. -/
def State.undrained (s : State) (core : Nat) (p : DrainPath) (l : List (Nat × BitVec 32)) : Bool :=
  l.any (fun x => (s.queue core x.1).cmds.any (fun c => decide (c.seq = x.2) && s.mayWrite core x.1 p c))

/-- R295, R216. -/
def execDrain (path : DrainPath) (s : State) : Host.Outcome State Fault Refusal :=
  run (.drain path) s (fun w s =>
    let snap := (s.ctx w).hold.drain.getD
      (writingQueues.flatMap (fun q => (s.queue w.core q).cmds.map (fun c => (q, c.seq))))
    let stores := fun (r : Req) => decide (path = .table) && isVault r.key && decide (keyCore r.key = w.core) && isGaz (keyOff r.key)
    let t := s.flush w stores
    if s.undrained w.core path snap || !t.flushed w stores then
      .wait (fun s0 => (s0.flush w stores).modHold w (fun h => { h with drain := some snap }))
    else
      let t := t.modHold w (fun h => { h with drain := none })
      .done ((if path = .table then t.emptyLatch w.core else t).advance w (.drain path)))

/-- R294, R435: a barrier enters each named queue, once all of them have a place for it, which it waits for without an interlock. -/
def execQfence (mask : Nat) (s : State) : Host.Outcome State Fault Refusal :=
  run (.qfence mask) s (fun w s =>
    let id := (s.core w.core).part.barriers
    let named := (upTo 9).filter (fun q => mask.testBit q)
    if !s.hasRoom w (.qfence mask) then .full
    else
      let s := s.modPart w.core (fun p => { p with barriers := id + 1 })
      let s := forEach named s (fun q s =>
        s.modQueue w.core q (fun x => { x with entries := x.entries ++ [.barrier id mask] }))
      .done (s.advance w (.qfence mask)))

/-! ## Bindings (R288) -/

/-- The region of a `bind` in 64-byte granules, or ILLEGAL_OPERAND (R371). -/
def State.regionOf (s : State) (w : Who) (b c : Nat) (k : Nat → Nat → Effect) : Effect :=
  let x := (s.g w b).toNat
  let n := (s.g w c).toNat
  if n = 0 ∨ 2 ^ 48 < n ∨ 2 ^ 57 < x + n then .done (s.trapSync w cIllegalOperand (s.g w c))
  else k (x / 64 * 64) ((x + n + 63) / 64 * 64)

/-- R288, R370. -/
def execBind (h b c : Nat) (s : State) : Host.Outcome State Fault Refusal :=
  run (.bind h b c) s (fun w s =>
    s.regionOf w b c (fun base lim =>
      s.checkHandle w h (fun _ rid x s =>
        let fin := fun (s : State) => Effect.done (s.advance w (.bind h b c))
        if 4 ≤ x.regions.length then .done (s.trapSync w cIllegalOperand (s.g w b))
        else if (base, lim) ∈ x.regions then fin s
        else fin (s.setGroup rid { x with regions := x.regions ++ [(base, lim)] }))))

/-- R288, R370. -/
def execBindFe (a b c : Nat) (s : State) : Host.Outcome State Fault Refusal :=
  run (.bindFe a b c) s (fun w s =>
    s.regionOf w b c (fun base lim =>
      s.feWord w {} (s.g w a) (fun key s =>
        let u := clusterOf (keyCore key)
        let e := (s.asid w.core, key, base, lim)
        let fin := fun (s : State) => Effect.done (s.advance w (.bindFe a b c))
        let l := (s.unit u).words
        if 64 ≤ l.length then .done (s.trapSync w cIllegalOperand (s.g w b))
        else if e ∈ l then fin s
        else fin (s.modUnit u (fun x => { x with words := x.words ++ [e] })))))

/-- R288, R473. -/
def execUnbind (a : Nat) (s : State) : Host.Outcome State Fault Refusal :=
  run (.unbind a) s (fun w s =>
    let x := (s.g w a).toNat
    if 2 ^ 57 ≤ x then .done (s.trapSync w cIllegalOperand (s.g w a))
    else
      let base := x / 64 * 64
      let asid := s.asid w.core
      let units := s.units.map (fun (p : Nat × GroupUnit) => (p.1, { p.2 with
        words := p.2.words.filter (fun e => !(decide (e.1 = asid) && decide (e.2.2.1 = base)))
        groups := p.2.groups.map (fun (g : Nat × Group) =>
          (g.1, if g.2.asid = asid then { g.2 with regions := g.2.regions.filter (fun r => decide (r.1 ≠ base)) } else g.2)) }))
      .done ({ s with units := units }.advance w (.unbind a)))

end Sys2Proof.Machine
end

