-- ==== Sys2Proof/Machine/CopySteps.lean ====
section
/-! DEFINITION. The steps of the copy channels (R277, R278, R291, R309). -/

namespace Sys2Proof.Machine

def State.legsOf (s : State) (core ch : Nat) : List Leg := (s.core core).part.legs.get [] ch
def State.setLegs (s : State) (core ch : Nat) (l : List Leg) : State :=
  s.modPart core (fun p => { p with legs := p.legs.set ch l })

def State.modCopy (s : State) (core ch : Nat) (f : Cmd → Cmd) : State := s.modHead core (chQueue ch) f

/-- Read one chunk and send its write, or fail the transfer at it (R277, R278, R59). -/
def State.copyChunk (s : State) (core ch : Nat) (c : Cmd) : State :=
  let x := c.transfer
  let e := c.done / x.size
  let n := x.run e (64 / x.size - 1) * x.size
  let a := x.at_ e
  let p : Port := { core, client := .queue core (chQueue ch), reach := .copy, kind := 2, queue := chQueue ch }
  let translation := fun (s : State) (cause va : Nat) => s.failCopy core ch csTranslation c.done cause (BitVec.ofNat 64 va)
  let cut := match s.engPa p c {} a.1 with
    | .ok pa _ => decide (pa / 2 ^ 58 ≠ s.mod.devId) && decide (pa / 2 ^ 58 < s.mod.domain) && (s.linkTo (pa / 2 ^ 58) (laneOf pa)).isNone
    | _ => false
  if cut then s.failCopy core ch csLinkFail c.done 0 0
  else match s.readOn p c (spans a.1 n) with
  | .wait got s => s.modCopy core ch (fun c => { c with buf := got })
  | .fault k va _ s => translation s k va
  | .poison _ _ s => s.failCopy core ch csSrc c.done 0 0
  | .ok bytes s =>
    match s.engPa p c { write := true } a.2 with
    | .wait s => s.modCopy core ch (fun c => { c with buf := bytes })
    | .fault k => translation s k a.2
    | .ok pa s =>
      let l := s.locate pa
      let shadow := match l with
        | .scratch _ off => inShadow off n
        | .other _ => decide (0x10000000 ≤ pa % 2 ^ 47) && inShadow (pa % 2 ^ 47 - 0x10000000) n
        | _ => false
      match refuse .copy core false l with
      | some k => translation s k a.2
      | none =>
        if shadow then translation s cTranslation a.2
        else
          let dev := pa / 2 ^ 58
          let link := if dev = s.mod.devId then none else s.linkTo dev (laneOf pa)
          if dev ≠ s.mod.devId ∧ link.isNone then s.failCopy core ch csLinkFail c.done 0 0
          else
            let leg : Leg := { key := l.key, bytes, offset := c.done, va := BitVec.ofNat 64 a.2, link }
            let s := s.setLegs core ch (s.legsOf core ch ++ [leg])
            s.modCopy core ch (fun c => ({ c with done := c.done + n, buf := [] }).notePaths (pathsOf core l))

/-- COPY_CHUNK: at most 16 chunks are on their way, and none lies more than 1,024 B behind the end of one that may still fail
(R277, R278). -/
def execCopyChunk (core ch : Nat) (s : State) : Host.Outcome State Fault Refusal :=
  event (
    match (s.queue core (chQueue ch)).head with
    | none => s
    | some c =>
      let legs := s.legsOf core ch
      let far := legs.any (fun l => decide (l.offset + l.bytes.length + 1024 < c.done + 64))
      if decide (4 ≤ ch) || !s.copyOn core ch c || !c.ready || c.failed.isSome || c.squashed || decide (c.transfer.total ≤ c.done)
          || decide (16 ≤ legs.length) || far then s
      else (s.modCopy core ch (fun c => { c with running := true })).copyChunk core ch { c with running := true })

/-- The chunk write that is performed next: any that no earlier one of its destination and lane is ahead of (R291). -/
def nextLeg (tick : Nat) (l : List Leg) : Option Leg :=
  (l[Config.nat tick 260 % l.length]?).bind (fun x =>
    l.find? (fun y => decide (y.key / 2 ^ 47 = x.key / 2 ^ 47) && decide (laneOf y.key = laneOf x.key)))

/-- COPY_WRITE_PERFORMED: a chunk write takes effect, or is spilled, and its bytes are credited (R275, R277, R278). One that the
agent refuses goes on its list, where MESSAGE_ARRIVAL takes it up again behind its notice (R271). -/
def execCopyWritePerformed (core ch : Nat) (s : State) : Host.Outcome State Fault Refusal :=
  event (
    match (s.queue core (chQueue ch)).head, nextLeg s.tick (s.legsOf core ch) with
    | some c, some l =>
      let k := keyCore l.key
      let m : Msg := { src := ⟨core, c.slot⟩, gen := c.gen, job := (s.core core).jobId, dst := k, lane := laneOf l.key, va := l.va
                       body := .leg ch c.seq l }
      if decide (4 ≤ ch) || !s.copyOn core ch c || l.listed then s
      else if !isHere l.key then
        if Config.bit s.tick 261 then s.legLost core ch c.seq l csDst else s.legTook core ch c.seq l
      else
        let refuse := fun (s : State) (r : Resource) => ((s.setLegs core ch ((s.legsOf core ch).map (fun x =>
            if x.offset = l.offset then { x with listed := true } else x))).post { m with refused := some r, since := s.tick }).noteRefusal k
        if s.atBankOf m then
          match s.acceptHere m with
          | .ok t => t
          | .busy mark => mark s
          | .refused r => refuse s r
        else if s.behindRefused m then refuse s .lane
        else if s.listsFull k then s
        else
          let s := s.redeliverAll k
          match s.accept m with
          | .ok t => if (s.needs m).any (s.waitsFor m) then refuse s .spill else t.takeLane m t.fabric.length
          | .busy mark => mark s
          | .refused r => refuse s r
    | _, _ => s)

/-- `CDONE` passes a transfer, and `CFAIL` records one that failed (R67, R278). -/
def PartRegs.passed (r : PartRegs) (ch : Nat) (seq : BitVec 32) (failed : Bool) : PartRegs :=
  let f := r.cfail.get {} ch
  { r with
    cdone := r.cdone.set ch (seq + 1)
    cfail := if failed then r.cfail.set ch { fcount := min 255 (f.fcount + 1), valid := true, id := if f.valid then f.id else seq }
      else r.cfail }

/-- A transfer ends with a status and OFFSET; a replay credits its bytes now, but for those of chunks that failed (R253, R278,
R309). -/
def State.endTransfer (s : State) (core ch : Nat) (c : Cmd) (status offset : Nat) : State :=
  let s := s.modRegs core (fun r => r.passed ch c.seq (decide (status ≠ csOk)))
  let s := match c.credit with
    | some h => if c.copy.replay ∧ c.copy.credited + c.copy.lost < c.done then
        s.askUnit (unitOfHandle h) (.credit h (c.done - c.copy.credited - c.copy.lost)) else s
    | none => s
  if status = csTranslation then (s.dropHead core (chQueue ch)).faultCommand core (chQueue ch) c c.copy.cause c.copy.tval offset
  else s.endCommand core (chQueue ch) c status offset

/-- TRANSFER_COMPLETE: every write that the transfer sent has been performed. -/
def execTransferComplete (core ch : Nat) (s : State) : Host.Outcome State Fault Refusal :=
  event (
    match (s.queue core (chQueue ch)).head with
    | none => s
    | some c =>
      if decide (4 ≤ ch) || !s.copyOn core ch c || !c.ready || c.squashed || !(s.legsOf core ch).isEmpty then s
      else match c.failed with
      | some (status, offset) => s.endTransfer core ch c status offset
      | none => if c.transfer.total ≤ c.done then s.endTransfer core ch c csOk c.done else s)

/-! ## Links (R291, R336) -/

/-- The chunk writes of a part that travel on a link are lost, and their transfers end LINK_FAIL (R278, R336). -/
def Part.loseLegs (p : Part) (link : Nat) : Part :=
  let lost := fun (l : Leg) => decide (l.link = some link)
  { p with
    queues := p.queues.map (fun (q : Nat × Queue) =>
      match (p.legs.get [] (q.1 - 4)).find? lost with
      | some l => if 4 ≤ q.1 ∧ q.1 < 8 then
          (q.1, q.2.mapHead (fun c => { c with
            failed := some (match c.failed with
              | some (st, o) => if o ≤ l.offset then (st, o) else (csLinkFail, l.offset)
              | none => (csLinkFail, l.offset))
            copy := { c.copy with
              lost := ((p.legs.get [] (q.1 - 4)).filter lost).foldl (fun n (l : Leg) => n + l.bytes.length) c.copy.lost } }))
        else q
      | none => q)
    legs := p.legs.map (fun (x : Nat × List Leg) => (x.1, x.2.filter (fun l => !lost l))) }

/-- LINK_FAILURE: the link leaves every mask; messages and chunk writes in flight on it fail (R336). -/
def execLinkFailure (link : Nat) (s : State) : Host.Outcome State Fault Refusal :=
  event (
    if !s.agentOn || decide (16 ≤ link) || decide (link ∈ s.mod.failedLinks) then s
    else
      let lost := fun (m : Msg) => decide (m.link = some link) && decide (0x1000 ≤ m.dst)
      let dead := s.fabric.filter lost
      let off := ~~~(1#16 <<< link)
      let s := { s with
        fabric := s.fabric.filter (fun m => !lost m)
        cores := s.cores.map (fun (x : Nat × Core) => (x.1, { x.2 with part := x.2.part.loseLegs link }))
        mod := { s.mod with
          failedLinks := insertNat s.mod.failedLinks link
          masks := s.mod.masks.map (fun p => (p.1, p.2 &&& off)) } }
      forEach dead s (fun m s => s.failMsg m csLinkFail cEngineFault (m.va &&& 0x7FFFFFFFFFFFFFFF)))

end Sys2Proof.Machine
end

