-- ==== Sys2Proof/Machine/Plane.lean ====
section
/-! DEFINITION. The associative plane: the `ap.*` forms of class 0x280 at issue, and what each command does when it is
performed (R224 to R243, R342, R352 to R364). -/

namespace Sys2Proof.Machine

/-! ## The plane -/

def State.plane (s : State) (core : Nat) : Plane := (s.part core).plane
def State.setPlane (s : State) (core : Nat) (x : Plane) : State := s.modPart core (fun p => { p with plane := x })

def Plane.col (x : Plane) (b : Nat) : PlaneColumn := x.cols.get 0 b
def Plane.tag (x : Plane) (n : Nat) : PlaneColumn := x.tags.get 0 n
def Plane.setCol (x : Plane) (b : Nat) (c : PlaneColumn) : Plane := { x with cols := x.cols.set b c }
def Plane.setTag (x : Plane) (n : Nat) (c : PlaneColumn) : Plane := { x with tags := x.tags.set n c }

/-- The column with one row set. -/
def rowBit (r : Nat) : PlaneColumn := BitVec.ofNat 4096 (2 ^ r)
/-- The 64 rows of a window (R225). -/
def windowMask (win : Nat) : PlaneColumn := BitVec.ofNat 4096 ((2 ^ 64 - 1) * 2 ^ (64 * win))
/-- Every row, or none. -/
def everyRow (b : Bool) : PlaneColumn := if b then BitVec.allOnes 4096 else 0
/-- Set or clear the rows of `w` in a column. -/
def putRows (c w : PlaneColumn) (b : Bool) : PlaneColumn := if b then c ||| w else c &&& ~~~w

/-- A field of a row, lowest bit first (R224). -/
def Plane.field (x : Plane) (r off : Nat) : Nat → Nat
  | 0 => 0
  | n + 1 => (if (x.col off).getLsbD r then 1 else 0) + 2 * x.field r (off + 1) n

/-- Write the 256 data bits of a row. -/
def Plane.setRow (x : Plane) (r bits : Nat) : Plane :=
  (upTo 256).foldl (fun x b => x.setCol b (putRows (x.col b) (rowBit r) (bits.testBit b))) x

/-- The lowest row of a column, if any (R231). -/
def firstRow (c : PlaneColumn) : Option Nat := (upTo 4096).find? (fun r => c.getLsbD r)

/-- The number of rows of a column among the lowest `n`. -/
def countRows (c : PlaneColumn) : Nat → Nat
  | 0 => 0
  | n + 1 => (if c.getLsbD n then 1 else 0) + countRows c n

/-! ## Issue (R225, R226) -/

/-- R229. -/
def execApClr (off w : Nat) (eng : Eng) (s : State) : Host.Outcome State Fault Refusal := issueEngine (.apClr off w eng) s
/-- R228. -/
def execApCmp (comb : CmpComb) (d a b : Nat) (eng : Eng) (s : State) : Host.Outcome State Fault Refusal :=
  issueEngine (.apCmp comb d a b eng) s
/-- R231. -/
def execApCnt (d a : Nat) (eng : Eng) (s : State) : Host.Outcome State Fault Refusal := issueEngine (.apCnt d a eng) s
/-- R231. -/
def execApFirst (d a : Nat) (eng : Eng) (s : State) : Host.Outcome State Fault Refusal := issueEngine (.apFirst d a eng) s
/-- R232. -/
def execApLd (a win : Nat) (eng : Eng) (s : State) : Host.Outcome State Fault Refusal := issueEngine (.apLd a win eng) s
/-- R238. -/
def execApMax (d off w a : Nat) (eng : Eng) (s : State) : Host.Outcome State Fault Refusal :=
  issueEngine (.apMax d off w a eng) s
/-- R237. -/
def execApMcode (n a : Nat) (eng : Eng) (s : State) : Host.Outcome State Fault Refusal := issueEngine (.apMcode n a eng) s

/-- An operand above its limit is refused at issue (R226); TVAL holds its value (DESIGN CHOICE, notes/assumptions/152.md). -/
def limitAtIssue (limit : Nat) (k : Nat) (w : Who) (_ : Option Nat) (s : State) (c : Cmd) (go : State → Cmd → Effect) : Effect :=
  if limit < (c.op1 k).toNat then .done (s.trapSync w cIllegalOperand (c.op1 k)) else go s c

/-- R226, R231. -/
def execApRd (d a : Nat) (eng : Eng) (s : State) : Host.Outcome State Fault Refusal :=
  issueEngine (.apRd d a eng) s (limitAtIssue 4095 0)
/-- R233. -/
def execApSeq (n doff w soff k ct a : Nat) (eng : Eng) (s : State) : Host.Outcome State Fault Refusal :=
  issueEngine (.apSeq n doff w soff k ct a eng) s
/-- R232. -/
def execApSt (a win : Nat) (eng : Eng) (s : State) : Host.Outcome State Fault Refusal := issueEngine (.apSt a win eng) s
/-- R226, R239. -/
def execApSweep (n a b doff w soff k ct c win : Nat) (eng : Eng) (s : State) : Host.Outcome State Fault Refusal :=
  issueEngine (.apSweep n a b doff w soff k ct c win eng) s (limitAtIssue 65535 1)
/-- R230. -/
def execApTg (op : TagOp) (d a b : Nat) (eng : Eng) (s : State) : Host.Outcome State Fault Refusal :=
  issueEngine (.apTg op d a b eng) s
/-- R229. -/
def execApWr (a b c : Nat) (eng : Eng) (s : State) : Host.Outcome State Fault Refusal := issueEngine (.apWr a b c eng) s
/-- R226, R231. -/
def execApWrr (a b : Nat) (eng : Eng) (s : State) : Host.Outcome State Fault Refusal :=
  issueEngine (.apWrr a b eng) s (limitAtIssue 4095 0)

/-! ## The single commands (R228 to R231) -/

/-- R228: the rows whose masked bits equal the key's. -/
def Plane.matches (x : Plane) (key mask : VWord) : PlaneColumn :=
  (upTo 256).foldl (fun m b =>
    if mask.getLsbD b then (if key.getLsbD b then m &&& x.col b else m &&& ~~~x.col b) else m) (everyRow true)

def Plane.cmp (x : Plane) (comb : CmpComb) (d : Nat) (key mask : VWord) : Plane :=
  let m := x.matches key mask
  let t := x.tag d
  x.setTag d (match comb with
    | .set => m
    | .and => t &&& m
    | .or => t ||| m
    | .andn => t &&& ~~~m)

/-- R229. -/
def Plane.wr (x : Plane) (data mask : VWord) (c : Nat) : Plane :=
  let w := x.tag c
  (upTo 256).foldl (fun x b => if mask.getLsbD b then x.setCol b (putRows (x.col b) w (data.getLsbD b)) else x) x

/-- R229. -/
def Plane.clr (x : Plane) (off w : Nat) : Plane := (upTo w).foldl (fun x b => x.setCol (off + b) 0) x

/-- R230. -/
def Plane.tg (x : Plane) (op : TagOp) (d a b : Nat) : Plane :=
  let p := x.tag a
  let q := x.tag b
  x.setTag d (match op with
    | .and => p &&& q
    | .or => p ||| q
    | .xor => p ^^^ q
    | .andn => p &&& ~~~q
    | .not => ~~~p
    | .copy => p
    | .set => everyRow true
    | .clr => 0)

/-- R231: a row with its tags above it. -/
def Plane.readRow (x : Plane) (r : Nat) : VWord :=
  let tags := (upTo 8).foldl (fun n t => if (x.tag t).getLsbD r then n + 2 ^ t else n) 0
  BitVec.ofNat 2048 (x.field r 0 256 + tags * 2 ^ 256)

/-! ## Sequences (R233 to R236) -/

/-- One step: the compares of d, s, c and t with their values, and the write (R234). -/
structure PlaneStep where
  d : Option Bool := none
  s : Option Bool := none
  c : Option Bool := none
  t : Option Bool := none
  cond : Bool := false
  writeD : Option Bool := none
  invertD : Bool := false
  writeC : Option Bool := none

/-- A sequence: SRC, DIR and its steps (R234). -/
structure PlaneSeq where
  src : Bool
  dir : Bool
  steps : List PlaneStep

/-- A step word (R234). -/
def PlaneStep.ofWord (w : Word) : PlaneStep :=
  let cmp := fun (m v : Nat) => if w.getLsbD m then some (w.getLsbD v) else none
  { d := cmp 0 1, s := cmp 2 3, c := cmp 4 5, t := cmp 6 7, cond := w.getLsbD 13
    writeD := if w.getLsbD 8 && !w.getLsbD 10 then some (w.getLsbD 9) else none
    invertD := w.getLsbD 8 && w.getLsbD 10
    writeC := if w.getLsbD 11 then some (w.getLsbD 12) else none }

def PlaneSeq.ofWords : List Word → PlaneSeq
  | [] => { src := false, dir := false, steps := [] }
  | h :: l => { src := h.getLsbD 9, dir := h.getLsbD 8, steps := l.map PlaneStep.ofWord }

/-- The ADD steps (R235). -/
def addSteps : List PlaneStep :=
  [{ d := some false, s := some false, c := some true, writeD := some true, writeC := some false },
   { d := some true, s := some false, c := some true, writeD := some false },
   { d := some true, s := some true, c := some false, writeD := some false, writeC := some true },
   { d := some false, s := some true, c := some false, writeD := some true }]

/-- R235: the built-in sequences but MULC. -/
def builtinSeq : Nat → PlaneSeq
  | 0 => { src := false, dir := false, steps := addSteps }
  | 1 => { src := false, dir := false, steps :=
      [{ d := some true, s := some false, c := some true, writeD := some false, writeC := some false },
       { d := some false, s := some false, c := some true, writeD := some true },
       { d := some false, s := some true, c := some false, writeD := some true, writeC := some true },
       { d := some true, s := some true, c := some false, writeD := some false }] }
  | 2 => { src := true, dir := false, steps := addSteps }
  | 4 => { src := false, dir := false, steps :=
      [{ d := some true, s := some false, writeC := some true }, { d := some false, s := some true, writeC := some false }] }
  | 5 => { src := false, dir := false, steps :=
      [{ d := some true, s := some false, writeC := some false }, { d := some false, s := some true, writeC := some false }] }
  | 6 => { src := false, dir := true, steps := [{ c := some true, d := some true, cond := true, writeC := some false }] }
  | _ => { src := false, dir := false, steps :=
      [{ t := some true, c := some true, invertD := true },
       { t := some true, c := some false, d := some true, writeC := some true }] }

/-- What a sequence works on: its number, D and S fields, constant, carry tag and selected rows. -/
structure SeqArgs where
  n : Nat
  doff : Nat
  w : Nat
  soff : Nat
  k : Nat
  ct : Nat
  sel : PlaneColumn

/-- The rows where a compare holds. -/
def comparing (x : PlaneColumn) : Option Bool → PlaneColumn
  | none => everyRow true
  | some true => x
  | some false => ~~~x

/-- One step at bit `i` with the s column given (R233); `writes` is false in a suppressed addition of MULC (R236). -/
def Plane.step (x : Plane) (a : SeqArgs) (p : PlaneStep) (i : Nat) (sCol : PlaneColumn) (writes : Bool) : Plane :=
  let d := x.col (a.doff + i)
  let c := x.tag a.ct
  let t := x.col (a.doff + a.w - 1)
  let hit := a.sel &&& comparing d p.d &&& comparing sCol p.s &&& comparing c p.c &&& comparing t p.t
  let w := if p.cond then (if hit = 0 then 0 else a.sel &&& ~~~hit) else hit
  if !writes then x
  else
    let x := match p.writeD with
      | some v => x.setCol (a.doff + i) (putRows d w v)
      | none => if p.invertD then x.setCol (a.doff + i) (d ^^^ w) else x
    match p.writeC with
    | some v => x.setTag a.ct (putRows c w v)
    | none => x

/-- Whether a number is MULC, the built-in sequence of R236. -/
def isMulc (n : Nat) : Bool := decide (n = 3)

/-- The sequence of a number, unless it is a user number that is not loaded. -/
def Plane.seqOf (x : Plane) (n : Nat) : Option PlaneSeq :=
  if n < 8 then some (builtinSeq n)
  else match x.seqs.get [] n with
    | [] => none
    | l => some (PlaneSeq.ofWords l)

/-- The steps of a sequence in order, each as BIT and ENTRY of APMPC (R73, R233, R342). -/
def Plane.course (x : Plane) (a : SeqArgs) : List (Nat × Nat) :=
  if isMulc a.n then
    (upTo (min 12 a.w)).flatMap (fun j =>
      (j, 5 * j) :: ((upTo a.w).drop j).flatMap (fun i => (upTo 4).map (fun t => (i, 5 * j + 1 + t))))
  else
    match x.seqOf a.n with
    | none => []
    | some q =>
      let bits := if q.dir then (upTo a.w).reverse else upTo a.w
      bits.flatMap (fun i => (upTo q.steps.length).map (fun e => (i, e)))

/-- Perform the step at a position of the course. -/
def Plane.stepAt (x : Plane) (a : SeqArgs) (pos : Nat × Nat) : Plane :=
  let (i, e) := pos
  if isMulc a.n then
    let j := e / 5
    if e % 5 = 0 then x.step a { writeC := some false } i 0 true
    else x.step a (addSteps.getD (e % 5 - 1) {}) i (x.col (a.soff + i - j)) (a.k.testBit j)
  else
    match x.seqOf a.n with
    | none => x
    | some q =>
      let sCol := if q.src then everyRow (decide (i < 12) && a.k.testBit i) else x.col (a.soff + i)
      x.step a (q.steps.getD e {}) i sCol true

/-- APMPC of a position, in the compare of its step or in its write (R73). -/
def apmpcOf (n : Nat) (pos : Nat × Nat) (phase : Nat := 0) : Word :=
  BitVec.ofNat 64 (2 ^ 31 + phase * 2 ^ 20 + pos.1 * 2 ^ 12 + pos.2 * 2 ^ 4 + n)

/-- APSWEEP of a running sweep (R73). -/
def apsweepOf (stage remain next : Nat) : Word :=
  BitVec.ofNat 64 (2 ^ 63 + stage * 2 ^ 61 + remain * 2 ^ 32 + next / 2048 * 2048)

def sweepStage (x : Word) : Nat := (x >>> 61 &&& 3).toNat
def sweepRemain (x : Word) : Nat := (x >>> 32 &&& 0xFFFF).toNat
def sweepNext (x : Word) : Nat := (x &&& 0xFFFFFFF).toNat

/-- PHASE of the step that APMPC holds. -/
def Plane.phase (x : Plane) : Nat := if x.apmpc.getLsbD 20 then 1 else 0

/-- The course from the position that APMPC holds, or none where the command could not have left it (R243). -/
def Plane.rest (x : Plane) (a : SeqArgs) : Option (List (Nat × Nat)) :=
  match (x.course a).dropWhile (fun p => decide (apmpcOf a.n p x.phase ≠ x.apmpc)) with
  | [] => none
  | l => some l

/-- Run some halves of steps, a compare or a write each; a compare changes nothing but PHASE, and the write of a step follows
what its compare found (R233). APMPC names the next one, or is clear at the end. (DEDUCED, notes/assumptions/138.md) -/
def Plane.runHalves (x : Plane) (a : SeqArgs) (l : List (Nat × Nat)) (halves : Nat) : Plane :=
  let n := halves + x.phase
  let y := (l.take (n / 2)).foldl (fun x p => x.stepAt a p) x
  match l.drop (n / 2) with
  | [] => { y with apmpc := 0 }
  | p :: _ => { y with apmpc := apmpcOf a.n p (n % 2) }

/-- Run a course to its end. -/
def Plane.runAll (x : Plane) (a : SeqArgs) (l : List (Nat × Nat)) : Plane :=
  { l.foldl (fun x p => x.stepAt a p) x with apmpc := 0 }

/-- What the sequence of a command works on; a sweep's rows are those of its window (R239). `ap.max` is MAXSEARCH over
every row (R238). -/
def Plane.argsOf (x : Plane) (i : Instr) : Option SeqArgs :=
  match i with
  | .apSeq n doff w soff k ct a _ => some { n, doff, w, soff, k, ct, sel := x.tag a }
  | .apSweep n _ _ doff w soff k ct c win _ => some { n, doff, w, soff, k, ct, sel := x.tag c &&& windowMask win }
  | .apMax _ off w a _ => some { n := 6, doff := off, w, soff := 0, k := 0, ct := a, sel := everyRow true }
  | _ => none

/-! ## Rows and the vault (R232) -/

def planePort (core susp : Nat) : Port := { core, client := .queue core 2, reach := .plane, kind := 4, susp, queue := 2 }

/-- Load one DRAM row into a window: poisoned sectors become zero rows with their marks set; the first one is told. -/
def State.loadRows (s : State) (core key win : Nat) : State × Option Nat :=
  let (s, lost) := s.takeBeat key 2048
  (upTo 64).foldl (fun (r : State × Option Nat) i =>
    let (s, first) := r
    let row := 64 * win + i
    if s.poisoned (key + 32 * i) ∨ (key + 32 * i) / 32 ∈ lost then
      let x := (s.plane core).setRow row 0
      (s.setPlane core { x with poison := x.poison ||| rowBit row }, some (first.getD (32 * i)))
    else
      let x := (s.plane core).setRow row (leNat (s.fetchBytes (key + 32 * i) 32))
      (s.setPlane core { x with poison := x.poison &&& ~~~rowBit row }, first)) (s, none)

/-- Store a window as one DRAM row: marked rows as poisoned sectors, and those of a beat that failed twice (R182). A sector that
cannot be reached is told (R183). -/
def State.storeRows (s : State) (core key win : Nat) : State × Option Nat :=
  let (s, lost) := s.takeBeat key 2048
  let x := s.plane core
  (upTo 64).foldl (fun (r : State × Option Nat) i =>
    let row := 64 * win + i
    if x.poison.getLsbD row ∧ r.1.sectorReached (keyCore key) (keyOff key + 32 * i) then (r.1.storePoison (key + 32 * i), r.2)
    else match r.1.store (key + 32 * i) (natLE 32 (x.field row 0 256)) with
      | some t => (t.spoil (key + 32 * i) 32 lost, r.2)
      | none => (r.1, some (r.2.getD (32 * i)))) (s, none)

/-- `ap.ld` and `ap.st` (R232, R358). -/
def State.doRows (s : State) (core : Nat) (c : Cmd) (win : Nat) (isStore : Bool) : EngineOut :=
  let a := c.op1 0
  if a.toNat % 2048 ≠ 0 then .fault s cMisaligned a
  else
    match s.engineAt (planePort core 0) c { write := isStore } a.toNat 2048 with
    | .fault k => .fault s k a
    | .wait s => .wait s
    | .ok key s =>
      if isStore then
        match s.storeRows core key win with
        | (s, none) => .ends s csOk 2048
        | (s, some off) => .ends s csDst off
      else
        match s.loadRows core key win with
        | (s, none) => .ends s csOk 2048
        | (s, some off) => .ends s csSrc off

/-! ## `ap.mcode` (R237) -/

/-- A header and step words that the command accepts. -/
def headerOk (h : Word) : Bool := decide (h.toNat / 2 ^ 10 = 0) && decide (h.toNat % 2 ^ 8 ≠ 0)
def stepOk (w : Word) : Bool := decide (w.toNat / 2 ^ 14 = 0) && !(!w.getLsbD 8 && w.getLsbD 10)

/-- A word of code as it was when the command looked at it before, or as it is now, unpredictably (R360). -/
def State.codeWord (s : State) (c : Cmd) (key : Nat) : Word :=
  match c.vals.find? (fun p => decide (p.1 = key)) with
  | some p => if Config.bit s.tick (2 ^ 62 + key) then BitVec.ofNat 64 p.2 else s.word key
  | none => s.word key

/-- What an `ap.mcode` that runs has seen of the words it may read (R360). -/
def State.codeSeen (s : State) (core : Nat) (c : Cmd) : Store Nat :=
  (upTo 256).foldl (fun m k =>
    match s.translate (.queue core 2) core (s.asid core) c.pl {} (c.op1 0 + BitVec.ofNat 64 (8 * k)).toNat with
    | .ok pa =>
      match s.locate pa with
      | .scratch o off => if o = core ∧ off % 8 = 0 then m.set (spKey o off) (s.codeWord c (spKey o off)).toNat else m
      | _ => m
    | _ => m) []

/-- Read words of the own scratchpad; other storage is NONLOCAL. -/
def State.codeWords (s : State) (core : Nat) (c : Cmd) (acc : List Word) : List Word → Reads
  | [] => .ok (acc.flatMap (fun x => natLE 8 x.toNat)) s
  | va :: l =>
    match s.engPa (planePort core 0) c {} va.toNat with
    | .fault k => .fault k va.toNat [] s
    | .wait s => .wait [] s
    | .ok pa t =>
      match t.locate pa with
      | .scratch o off =>
        if o = core then
          match t.poisonAt (spKey o off) 8 with
          | (t, some _) => .poison [] va.toNat t
          | (t, none) => t.codeWords core c (acc ++ [t.codeWord c (spKey o off)]) l
        else .fault cNonlocal va.toNat [] s
      | .nowhere => .fault cTranslation va.toNat [] s
      | _ => .fault cNonlocal va.toNat [] s

def State.setSeq (s : State) (core n : Nat) (l : List Word) : State :=
  s.modPart core (fun p => { p with plane := { p.plane with seqs := if l.isEmpty then p.plane.seqs.erase n else p.plane.seqs.set n l } })

/-- R237. A poisoned word ends the command with OFFSET 0 and leaves the number as it was (DESIGN CHOICE,
notes/assumptions/116.md). -/
def State.doMcode (s : State) (core : Nat) (c : Cmd) (n : Nat) : EngineOut :=
  let a := c.op1 0
  -- a faulting command leaves its sequence unloaded
  let fault := fun (s : State) (k : Nat) (va : Word) => EngineOut.fault (s.setSeq core n []) k va
  if a.toNat % 8 ≠ 0 then fault s cMisaligned a
  else
    match s.codeWords core c [] [a] with
    | .wait _ s => .wait s
    | .fault k va _ s => fault s k (BitVec.ofNat 64 va)
    | .poison _ _ s => .ends s csSrc 0
    | .ok hb s =>
      let h := BitVec.ofNat 64 (leNat hb)
      if !headerOk h then fault s cIllegalOperand s.openTval
      else
        match s.codeWords core c [] ((upTo (h.toNat % 256)).map (fun k => a + BitVec.ofNat 64 (8 * (k + 1)))) with
        | .wait _ s => .wait s
        | .fault k va _ s => fault s k (BitVec.ofNat 64 va)
        | .poison _ _ s => .ends s csSrc 0
        | .ok bytes s =>
          let ws := (wordsOf bytes).map (BitVec.ofNat 64)
          if ws.all stepOk then .ends (s.setSeq core n (h :: ws)) csOk 0 else fault s cIllegalOperand s.openTval

/-! ## Running a sequence (R233, R238, R242, R243) -/

/-- The sequence a command names is not loaded (R237). -/
def Plane.unloaded (x : Plane) (i : Instr) : Bool :=
  match i with
  | .apSeq n .. | .apSweep n .. => (x.seqOf n).isNone
  | _ => false

/-- The first tagged row that is poisoned (R238). -/
def Plane.poisonedTag (x : Plane) (a : Nat) : Option Nat := firstRow (x.tag a &&& x.poison)

/-- `ap.seq` and `ap.max` start: APMPC names their first step. -/
def State.startSeq (s : State) (core : Nat) (c : Cmd) : EngineOut :=
  let x := s.plane core
  if x.unloaded c.instr then .fault s cIllegalOperand s.openTval
  else
    match (match c.instr with
      | .apMax _ _ _ a _ => x.poisonedTag a
      | _ => none) with
    | some r => .precise s cUncorrectable (BitVec.ofNat 64 r)
    | none =>
      match x.argsOf c.instr with
      | some a =>
        match x.course a with
        | p :: _ => .stays (s.setPlane core { x with apmpc := apmpcOf a.n p })
        | [] => .stays s
      | none => .stays s

/-- A state that the command could not have left (R243): both registers are cleared. A sweep reports the rows that it has stored (R364). -/
def State.impossible (s : State) (core : Nat) (tval : Word) (stored : Nat := 0) : EngineOut :=
  .fault (s.setPlane core { s.plane core with apmpc := 0, apsweep := 0 }) cIllegalOperand tval stored

/-- The state that a resumed command found has been checked (R243). -/
def State.checked (s : State) (core : Nat) : State := s.modHead core 2 (fun c => { c with resumed := false })

/-- The step that the plane is in is finished: a save freezes it at a step boundary (R242). Behind the last step of its course a sequence
has only to end (`done`), and a sweep to store its row. -/
def State.finishStep (s : State) (core : Nat) : State :=
  let x := s.plane core
  match (s.queue core 2).head.bind (fun c => (x.argsOf c.instr).map (fun a => (c, a))) with
  | some (c, a) =>
    if c.running ∧ x.phase = 1 then
      match x.rest a with
      | some l =>
        let y := x.runHalves a l 1
        if y.apmpc ≠ 0 then s.setPlane core y
        else match c.instr with
        | .apSweep .. => s.setPlane core { y with apsweep := apsweepOf 2 (sweepRemain x.apsweep) (sweepNext x.apsweep) }
        | _ => (s.setPlane core y).modHead core 2 (fun c => { c with done := 1 })
      | none => s
    else s
  | none => s

/-- A sequence ends, behind the last step of its course; `gd` of `ap.max` gets its field (R238). -/
def State.endSeq (s : State) (core : Nat) (c : Cmd) : EngineOut :=
  let y := s.plane core
  match c.instr with
  | .apMax d off w t _ =>
    let v := match firstRow (y.tag t) with
      | some r => y.field r off w
      | none => 0
    .ends (s.ownerResult core c (.g d (BitVec.ofNat 64 v))) csOk 0
  | _ => .ends s csOk 0

/-- Some halves of the steps of a running sequence, or all that are left (R242); `gd` of `ap.max` follows the last (R238). -/
def State.runSeq (s : State) (core : Nat) (c : Cmd) (all : Bool) : EngineOut :=
  let x := s.plane core
  match x.argsOf c.instr with
  | none => .stays s
  | some a =>
    if c.done = 1 then (if x.apmpc.getLsbD 31 then s.impossible core x.apmpc else s.endSeq core c)
    else match x.rest a with
    | none => s.impossible core x.apmpc
    | some l =>
      if c.resumed ∧ x.phase = 1 then s.impossible core x.apmpc
      else
      let s := s.checked core
      if !all then .stays (s.setPlane core (x.runHalves a l (Config.nat s.tick 230 % (2 * l.length - x.phase))))
      else (s.setPlane core (x.runAll a l)).endSeq core c

/-! ## Sweeps (R239 to R241) -/

/-- The rows a sweep processes, and its row `i`. -/
def Cmd.sweepRows (c : Cmd) : Nat := (c.op1 1).toNat
def Cmd.sweepVa (c : Cmd) (i : Nat) : Word := c.op1 0 + BitVec.ofNat 64 (2048 * i)

/-- A sweep starts: its first row is translated, and the progress registers name it. The checks are made in this order: the
sequence, the alignment, the number of rows (DESIGN CHOICE, notes/assumptions/117.md). -/
def State.startSweep (s : State) (core : Nat) (c : Cmd) : EngineOut :=
  let a := c.op1 0
  if (s.plane core).unloaded c.instr then .fault s cIllegalOperand s.openTval
  else if a.toNat % 2048 ≠ 0 then .fault s cMisaligned a
  else if c.sweepRows = 0 then .stays s
  else
    match s.engPa (planePort core 2) c { write := true } a.toNat with
    | .fault k => .fault (s.setPlane core { s.plane core with apsweep := 0 }) k a
    | .wait s => .wait s
    | .ok pa s =>
      let off := pa % 2 ^ 47
      let s := s.setPlane core { s.plane core with apmpc := 0, apsweep := apsweepOf 0 c.sweepRows off }
      .stays (s.modHead core 2 (fun c => { c with pos := some off }))

/-- APSWEEP and APMPC are a state that a sweep could have left, but for NEXT (R243), or the value that is not. VALID of APMPC outside the
compute stage, and VALID, STAGE and REMAIN of APSWEEP that no row has, count as such though R243 does not list them (DESIGN CHOICE,
notes/assumptions/151.md). -/
def Plane.sweepFault (x : Plane) (c : Cmd) : Option Word :=
  let z := x.apsweep
  let okSweep := z.getLsbD 63 && decide (sweepStage z ≠ 3) && decide (sweepRemain z ≤ c.sweepRows - c.row)
    && decide (0 < sweepRemain z)
  let okPc := match x.argsOf c.instr with
    | some a => if sweepStage z = 1 then (x.rest a).isSome && decide (x.phase = 0) else !x.apmpc.getLsbD 31
    | none => true
  if !okPc then some x.apmpc else if !okSweep then some z else none

/-- The vault offset of a sweep's row: known for the row it is at, translated for another one. -/
def State.sweepPlace (s : State) (core : Nat) (c : Cmd) (row : Nat) : EngAccess :=
  match if row = c.row then c.pos else none with
  | some off => .ok off s
  | none =>
    match s.engPa (planePort core 2) c { write := true } (c.sweepVa row).toNat with
    | .ok pa s => .ok (pa % 2 ^ 47) s
    | r => r

/-- No ordinary request to the vault of a core is pending: none is buffered, none waits at a bank, and no tile load is being
transferred (R241). -/
def State.vaultQuiet (s : State) (core : Nat) : Bool :=
  let loads := match (s.part core).loads with
    | c :: _ => (s.queue core 0).suspended.isSome ||
      ((dropSpans (·.2) c.buf.length c.loadSpans).head?.bind (fun p => s.loadPlace core c p.1)).isNone
    | [] => true
  (s.core core).vaultRequests.isEmpty && loads
    && (s.core core).vault.banks.all (fun b => b.2.waiting.all (fun y => match y.client with
      | .cmd _ 2 _ => true
      | c => !s.stillWaits c))

/-- A sweep transfer may start: no ordinary request to the vault is pending, or it has waited long enough (R241). -/
def State.mayTransfer (s : State) (core : Nat) (c : Cmd) : Bool :=
  s.vaultQuiet core || decide ((s.part core).regs.arbwin = 0) || c.arb

/-- A sweep ends or faults: APSWEEP and APMPC are cleared (R239). -/
def State.sweepOver (s : State) (core : Nat) : State := s.setPlane core { s.plane core with apmpc := 0, apsweep := 0 }

/-- A sweep goes on to its next row, whose translation APSWEEP needs (R239). -/
def State.nextRow (s : State) (core : Nat) (c : Cmd) (row : Nat) : EngineOut :=
  match s.sweepPlace core c (row + 1) with
  | .fault k => .fault (s.sweepOver core) k (c.sweepVa (row + 1)) c.done
  | .wait s => .wait s
  | .ok off s =>
    .stays ((s.setPlane core { s.plane core with apsweep := apsweepOf 0 (c.sweepRows - (row + 1)) off }).modHead core 2
      (fun c => { c with row := row + 1, pos := some off, arb := false }))

/-- The load or store transfer of a sweep's row (R239). -/
def State.sweepTransfer (s : State) (core : Nat) (c : Cmd) (a : SeqArgs) (win row : Nat) (store : Bool) : EngineOut :=
  if !s.mayTransfer core c then .wait s
  else
    match s.engineAt (planePort core 2) c { write := true } (c.sweepVa row).toNat 2048 with
    | .fault k => .fault (s.sweepOver core) k (c.sweepVa row) c.done
    | .wait s => .wait s
    | .ok key s =>
      let (s, bad) := if store then s.storeRows core key win else s.loadRows core key win
      let failed := match c.failed, bad with
        | none, some j => some (if store then csDst else csSrc, 2048 * row + j)
        | x, _ => x
      if !store then
        let first := ((s.plane core).course a).headD (0, 0)
        let s := s.setPlane core { s.plane core with apsweep := apsweepOf 1 (c.sweepRows - row) (keyOff key), apmpc := apmpcOf a.n first }
        .stays (s.modHead core 2 (fun c => { c with failed, row, pos := some (keyOff key), sent := 0, arb := false }))
      else if row + 1 = c.sweepRows then
        let (status, offset) := failed.getD (csOk, c.done + 1)
        .ends (s.sweepOver core) status offset
      else
        let c := { c with failed, done := c.done + 1, sent := row + 1, arb := false }
        match (s.modHead core 2 (fun _ => c)).nextRow core c row with
        | .wait s => .stays s
        | r => r

/-- One stage of a sweep's current row, or some steps of its compute stage (R239, R242). -/
def State.sweepStageStep (s : State) (core : Nat) (c : Cmd) : EngineOut :=
  let x := s.plane core
  if c.squashed then .ends (s.sweepOver core) csSquashed c.done
  else if c.sweepRows = 0 then .ends s csOk 0
  else
    match c.instr, x.argsOf c.instr with
    | .apSweep _ _ _ _ _ _ _ _ _ win _, some a =>
      let z := x.apsweep
      let row := c.sweepRows - sweepRemain z
      match if c.resumed then x.sweepFault c else none with
      | some v => s.impossible core v c.done
      | none =>
        match s.sweepPlace core c row with
        | .fault k => .fault (s.sweepOver core) k (c.sweepVa row) c.done
        | .wait s => .wait s
        | .ok off s =>
          if c.resumed ∧ sweepNext z ≠ off / 2048 * 2048 % 2 ^ 28 then s.impossible core z c.done
          else
          let s := s.checked core
          let c := { c with resumed := false }
          if sweepStage z = 1 then
            match x.rest a with
            | none => s.impossible core x.apmpc c.done
            | some l =>
              let y := if Config.bit s.tick 231 then x.runAll a l
                else x.runHalves a l (Config.nat s.tick 230 % (2 * l.length - x.phase))
              .stays ((s.setPlane core (if y.apmpc = 0 then { y with apsweep := apsweepOf 2 (sweepRemain z) off } else y)).modHead core 2
                (fun c => { c with row, pos := some off }))
          else if sweepStage z = 2 ∧ c.sent = row + 1 then s.nextRow core c row
          else s.sweepTransfer core c a win row (decide (sweepStage z = 2))
    | _, _ => .stays s

/-! ## Starting and performing -/

/-- An `ap.mcode` reads its words while it runs (R360). -/
def State.lookAtCode (s : State) (core : Nat) (c : Cmd) : State :=
  let seen := s.codeSeen core c
  s.modHead core 2 (fun c => { c with vals := seen })

/-- A plane command starts: a sequence or a sweep takes its registers; the others are performed at their end. -/
def State.startPlane (s : State) (core : Nat) (c : Cmd) : EngineOut :=
  match c.instr with
  | .apSeq .. | .apMax .. => s.startSeq core c
  | .apSweep .. => s.startSweep core c
  | .apMcode .. => .stays (s.lookAtCode core c)
  | _ => .stays s

/-- A plane command is performed (R228 to R239). -/
def State.doPlane (s : State) (core : Nat) (c : Cmd) : EngineOut :=
  let x := s.plane core
  let result := fun (r : RegWrite) => EngineOut.ends (s.ownerResult core c r) csOk 0
  match c.instr with
  | .apClr off wd _ => .ends (s.setPlane core (x.clr off wd)) csOk 0
  | .apCmp comb d _ _ _ => .ends (s.setPlane core (x.cmp comb d (c.vop 0) (c.vop 1))) csOk 0
  | .apCnt d a _ => result (.g d (BitVec.ofNat 64 (countRows (x.tag a) 4096)))
  | .apFirst d a _ => result (.g d (BitVec.ofNat 64 ((firstRow (x.tag a)).getD 4096)))
  | .apRd d _ _ =>
    let r := (c.op1 0).toNat
    if x.poison.getLsbD r then .precise s cUncorrectable (c.op1 0)
    else result (.v d (x.readRow r))
  | .apTg op d a b _ => .ends (s.setPlane core (x.tg op d a b)) csOk 0
  | .apWr _ _ k _ => .ends (s.setPlane core (x.wr (c.vop 0) (c.vop 1) k)) csOk 0
  | .apWrr _ _ _ =>
    let r := (c.op1 0).toNat
    let y := x.setRow r ((c.vop 0).toNat % 2 ^ 256)
    .ends (s.setPlane core { y with poison := y.poison &&& ~~~rowBit r }) csOk 0
  | .apLd _ win _ => s.doRows core c win false
  | .apSt _ win _ => s.doRows core c win true
  | .apMcode n _ _ => s.doMcode core c n
  | .apSeq .. | .apMax .. => s.runSeq core c true
  | .apSweep .. => if c.sweepRows = 0 then .ends s csOk 0 else .wait s
  | _ => .wait s

end Sys2Proof.Machine
end

