-- ==== Sys2Proof/Machine/Table.lean ====
section
/-! DEFINITION. The Gazetteer: `tq.bind`, the queries at issue, the latch, and what each query does when it is performed
(R214 to R223, R471). -/

namespace Sys2Proof.Machine

/-! ## Table registers (R61) -/

def tbBound (t : Word) : Bool := t.getLsbD 63
/-- The entry width in bits. -/
def tbWidth (t : Word) : Nat := 4 * 2 ^ (t >>> 58 &&& 3).toNat
def tbEntries (t : Word) : Nat := (t >>> 33 &&& 0x1FFFFFF).toNat
def tbOffset (t : Word) : Nat := (t &&& 0x7FFFFF).toNat

/-- The bit of the region at which an entry lies (R217). -/
def entryBit (t : Word) (idx : Nat) : Nat := 8 * tbOffset t + idx * tbWidth t

/-- The region row of a bit. -/
def rowOfBit (bit : Nat) : Nat := bit / (8 * 2048)

/-! ## Binding (R217) -/

/-- The region offset of a key in the own Gazetteer region, or the cause with which it is refused (R140). -/
def gazOffset (own : Nat) (handler : Bool) (key : Nat) : Except Nat Nat :=
  let k := keyCore key
  if isVault key then
    if k ≠ own then .error cNonlocal
    else if isGaz (keyOff key) then .ok (keyOff key - 0x0B800000) else .error cIllegalOperand
  else if isSp key && (decide (k = own) || (decide (clusterOf k = clusterOf own) && !handler)) then .error cIllegalOperand
  else .error cNonlocal

/-- R217. `ew` is the entry width in bits. -/
def execTqBind (d a b ew : Nat) (s : State) : Host.Outcome State Fault Refusal :=
  let i := Instr.tqBind d a b ew
  run i s (fun w s =>
    let va := s.g w a
    let n := (s.g w b).toNat
    let size := (n * ew + 7) / 8
    let off := fun (s : State) (x : Word) (k : Nat → State → Effect) =>
      s.locateVa w {} x x (fun l s =>
        if l = .nowhere then .done (s.trapSync w cTranslation x)
        else match gazOffset w.core w.isHandler l.key with
        | .ok o => k o s
        | .error c => .done (s.trapSync w c (if c = cNonlocal then x else va)))
    if va.toNat % 64 ≠ 0 then .done (s.trapSync w cMisaligned va)
    else if n = 0 ∨ 0x1000000 < n then .done (s.trapSync w cIllegalOperand (s.g w b))
    else
      off s va (fun first s =>
        off s (va + BitVec.ofNat 64 (size - 1)) (fun last s =>
          if last ≠ first + (size - 1) then .done (s.trapSync w cIllegalOperand va)
          else
            let code := if ew = 4 then 0 else if ew = 8 then 1 else if ew = 16 then 2 else 3
            let t := BitVec.ofNat 64 (2 ^ 63 + code * 2 ^ 58 + n * 2 ^ 33 + first)
            .done ((s.modRegFile w (fun r => { r with tb := r.tb.set d t })).advance w i))))

/-! ## Issue (R218) -/

/-- Whether the table fits the form (R218, R219, R222, R223). -/
def tableFits (i : Instr) (t : Word) : Bool :=
  let n := tbEntries t
  let bf := fun (x : Extend) => !decide (x = .bf) || decide (tbWidth t = 16)
  match i with
  | .tqLk x _ _ _ _ | .tqPair _ x _ _ _ _ _ => bf x
  | .tqDot .. => decide (256 ≤ n) && decide (rowOfBit (entryBit t 0) = rowOfBit (entryBit t 256 - 1))
  | .tqFnDir x _ _ _ _ => bf x && decide (n = 2 ^ Nat.log2 n)
  | .tqFnSeg .. => decide (n = 8192) && (decide (tbWidth t = 16) || decide (tbWidth t = 32))
  | _ => true

/-- A query at issue: its table register is read and checked, and its restart progress taken over (R55). -/
def issueQuery (i : Instr) (a : Nat) (s : State) : Host.Outcome State Fault Refusal :=
  issueEngine i s (fun w progress s c k =>
    let t := s.tb w a
    if tbBound t && tableFits i t then k s { c with ops := [t], done := progress.getD 0 }
    else .done (s.trapSync w cIllegalOperand t))

/-- R222. -/
def execTqDot (signed : Bool) (d a b : Nat) (eng : Eng) (s : State) : Host.Outcome State Fault Refusal :=
  issueQuery (.tqDot signed d a b eng) a s
/-- R223. -/
def execTqFnDir (x : Extend) (d a b : Nat) (eng : Eng) (s : State) : Host.Outcome State Fault Refusal :=
  issueQuery (.tqFnDir x d a b eng) a s
/-- R223. -/
def execTqFnSeg (d a b : Nat) (eng : Eng) (s : State) : Host.Outcome State Fault Refusal :=
  issueQuery (.tqFnSeg d a b eng) a s
/-- R221. -/
def execTqLk (x : Extend) (d a b : Nat) (eng : Eng) (s : State) : Host.Outcome State Fault Refusal :=
  issueQuery (.tqLk x d a b eng) a s
/-- R221. -/
def execTqPair (p8 : Bool) (x : Extend) (d a b c : Nat) (eng : Eng) (s : State) : Host.Outcome State Fault Refusal :=
  issueQuery (.tqPair p8 x d a b c eng) a s

/-! ## The latch (R214, R215) -/

def State.latch (s : State) (core : Nat) : Latch := (s.core core).latch

/-- The vault offset of a region row. -/
def gazRow (row : Nat) : Nat := 0x0B800000 + 2048 * row

/-- Fill the latch with a region row, unless it holds it: an activation with KIND 5 that leaves the bank IDLE (R215). -/
def State.fillLatch (s : State) (core : Nat) (c : Cmd) (row : Nat) : EngAccess :=
  if (s.latch core).row = some row then .ok 0 s
  else
    let off := gazRow row
    let p : Port := { core, client := .queue core 3, reach := .table, kind := 5, queue := 3 }
    match s.atPlace (p.at_ c) core off 2048 with
    | none => .wait ((s.serveBank core (bankOf off) (s.turnAt core (bankOf off) (p.at_ c))).engStall p c core off false 2048)
    | some s =>
        let key := coreKey core off
        let s := s.activate core (bankOf off) (rowOf off) (s.engSource p c core)
        let s := s.modBank core (bankOf off) (fun b => { b with row := none })
        let (s, lost) := s.takeBeat key 2048
        let bad := (upTo 64).filter (fun k => s.poisoned (key + 32 * k) || decide ((key + 32 * k) / 32 ∈ lost))
        .ok 0 (s.modCore core (fun x => { x with latch := { row := some row, bytes := s.memory.read key 2048, poison := bad } }))

/-- An entry of the latched row, or the vault offset of the poisoned sector it lies in. -/
def Latch.entry (l : Latch) (width bit : Nat) : Except Nat Nat :=
  let b := bit % (8 * 2048)
  if b / 8 / 32 ∈ l.poison then .error (gazRow (rowOfBit bit) + b / 8 / 32 * 32)
  else .ok (leNat ((l.bytes.drop (b / 8)).take 4) / 2 ^ (b % 8) % 2 ^ width)

/-- What a unit of work comes to: its entries by number, poison at a vault offset, or a wait with the entries read so far. -/
inductive Passes where
  | ok (vals : Store Nat) (s : State)
  | poison (off : Nat) (s : State)
  | wait (vals : Store Nat) (s : State)

/-- The rows of a unit of work in the order of R220: the latched one first, the others by the lowest lane that touches
each. -/
def rowOrder (latched : Option Nat) (rows : List Nat) : List Nat :=
  let rows := rows.eraseDups
  match latched with
  | some r => if r ∈ rows then r :: rows.filter (· ≠ r) else rows
  | none => rows

/-- One pass over the latched row: the entries that lie in it. Where several lie in poisoned sectors, the one of the lowest lane is
reported (DESIGN CHOICE, notes/assumptions/115.md). -/
def passOver (l : Latch) (width row : Nat) : List (Nat × Nat) → Store Nat → Except Nat (Store Nat)
  | [], vals => .ok vals
  | (k, bit) :: rest, vals =>
    if rowOfBit bit = row then
      match l.entry width bit with
      | .error off => .error off
      | .ok x => passOver l width row rest (vals.set k x)
    else passOver l width row rest vals

/-- Serve a unit of work row by row: a fill and a pass each (R220). -/
def State.serveRows (s : State) (core : Nat) (c : Cmd) (width : Nat) (reqs : List (Nat × Nat)) :
    List Nat → Store Nat → Passes
  | [], vals => .ok vals s
  | row :: rows, vals =>
    match s.fillLatch core c row with
    | .wait s => .wait vals s
    | .fault _ => .ok vals s
    | .ok _ s =>
      match passOver (s.latch core) width row reqs vals with
      | .error off => .poison off s
      | .ok vals => s.serveRows core c width reqs rows vals

/-- Read the listed entries, each as its number and bit, that the unit of work has not read yet. -/
def State.readEntries (s : State) (core : Nat) (c : Cmd) (vals : Store Nat) (width : Nat) (reqs : List (Nat × Nat)) : Passes :=
  let left := reqs.filter (fun r => !vals.any (fun p => decide (p.1 = r.1)))
  s.serveRows core c width left (rowOrder (s.latch core).row (left.map (fun r => rowOfBit r.2))) vals

/-- The running query has done so many passes or cycles, and has read some entries of the next. -/
def State.queryAt (s : State) (core n : Nat) (vals : Store Nat) : State :=
  s.modHead core 3 (fun c => { c with done := n, vals })

/-! ## Queries (R219, R221 to R223) -/

/-- A BF16 or FP32 code as an FP32 code; a NaN is canonical. -/
def toF32 (width x : Nat) : Nat :=
  let code := if width = 16 then x * 2 ^ 16 else x
  if (Fp.f32.value code).isNan then Fp.f32.nanCode else code

/-- R219. -/
def widen (x : Extend) (width e : Nat) : Nat :=
  match x with
  | .u => e
  | .s => wrapTo 32 (signOf width e)
  | .bf => toF32 16 e

/-- The index of a lane of `tq.lk` or `tq.pair` (R221). -/
def laneIndex (i : Instr) (c : Cmd) (k : Nat) : Nat :=
  match i with
  | .tqPair p8 _ _ _ _ _ _ =>
    let w := if p8 then 8 else 4
    lane (c.vop 0) k % 2 ^ w * 2 ^ w + lane (c.vop 1) k % 2 ^ w
  | _ => lane (c.vop 0) k

/-- `tq.lk` and `tq.pair` (R221). -/
def State.doLookup (s : State) (core : Nat) (c : Cmd) (x : Extend) (d : Nat) : EngineOut :=
  let t := c.op1 0
  let idx := (upTo 64).map (fun k => (k, laneIndex c.instr c k))
  match idx.find? (fun p => decide (tbEntries t ≤ p.2)) with
  | some (k, n) => .precise s cIllegalOperand (BitVec.ofNat 64 (k * 2 ^ 32 + n))
  | none =>
    match s.readEntries core c c.vals (tbWidth t) (idx.map (fun p => (p.1, entryBit t p.2))) with
    | .wait vals s => .wait (s.queryAt core 0 vals)
    | .poison off s => .precise s cUncorrectable (BitVec.ofNat 64 off)
    | .ok vals s =>
      let r := packElems 32 ((upTo 64).map (fun k => widen x (tbWidth t) (vals.get 0 k)))
      .ends (s.ownerResult core c (.v d r)) csOk 0

/-- Some passes of `tq.dot`, the first with the entries it has read already (R222); `fin` is what the query comes to behind
them. -/
def State.dotPasses (core : Nat) (c : Cmd) (signed : Bool) (d : Nat) (fin : State → EngineOut) :
    List Nat → Store Nat → State → EngineOut
  | [], _, s => fin s
  | e :: rest, vals, s =>
    let t := c.op1 0
    let w : Who := ⟨core, c.slot⟩
    let code := fun (v : VWord) (k : Nat) => lane v k / 2 ^ (4 * e) % 16
    match s.readEntries core c vals (tbWidth t)
      ((upTo 64).map (fun k => (k, entryBit t (code (c.vop 0) k * 16 + code (c.vop 1) k)))) with
    | .wait vals s => .wait (s.queryAt core e vals)
    | .poison off s => .precise s cUncorrectable (tvalAt (some e) (BitVec.ofNat 64 off))
    | .ok vals s =>
      let old := s.vIssued w d
      let r := packElems 32 ((upTo 64).map (fun k =>
        let x := widen (if signed then .s else .u) (tbWidth t) (vals.get 0 k)
        (if e = 0 then x else lane old k + x) % 2 ^ 32))
      State.dotPasses core c signed d fin rest [] ((s.ownerResult core c (.v d r)).queryAt core (e + 1) [])

/-- A segment result (R223). -/
def segment (width x v slope : Nat) : Nat :=
  let t := x % 2 ^ 20
  let val := toF32 width v
  if t = 0 then val
  else
    let p := mulExact (Fp.f32.value (toF32 width slope)) (.fin false t (-20))
    (roundVal .f32 .rne (addExact .rne (Fp.f32.value val) p.1).1 false).1

/-- Some query cycles of `tq.fn`, the first with the entries it has read already: the entries of a lane, and its result from them
(R223); `fin` is what the query comes to behind them. -/
def State.fnCycles (core : Nat) (c : Cmd) (d : Nat) (bits : Nat → List (Nat × Nat)) (out : Store Nat → Nat → Nat)
    (fin : State → EngineOut) : List Nat → Store Nat → State → EngineOut
  | [], _, s => fin s
  | g :: rest, vals, s =>
    let w : Who := ⟨core, c.slot⟩
    let lanes := (upTo 8).map (fun j => 8 * g + j)
    match s.readEntries core c vals (tbWidth (c.op1 0)) (lanes.flatMap bits) with
    | .wait vals s => .wait (s.queryAt core g vals)
    | .poison off s => .precise s cUncorrectable (tvalAt (some g) (BitVec.ofNat 64 off))
    | .ok vals s =>
      let old := s.vIssued w d
      let r := packElems 32 ((upTo 64).map (fun k => if k / 8 = g then out vals k else lane old k))
      State.fnCycles core c d bits out fin rest [] ((s.ownerResult core c (.v d r)).queryAt core (g + 1) [])

/-- A query is performed (R220 to R223): to its end, or, where it has passes or cycles of its own, one more of them. -/
def State.doQuery (s : State) (core : Nat) (c : Cmd) (all : Bool := true) : EngineOut :=
  let units := (upTo 8).drop c.done
  let l := if all then units else units.take 1
  let fin := fun (s : State) => if all then EngineOut.ends s csOk 0 else .stays s
  let t := c.op1 0
  let v := c.vop 0
  match c.instr with
  | .tqLk x d _ _ _ | .tqPair _ x d _ _ _ _ => if all then s.doLookup core c x d else .stays s
  | .tqDot signed d _ _ _ => State.dotPasses core c signed d fin l c.vals s
  | .tqFnDir x d _ _ _ =>
    let shift := 32 - Nat.log2 (tbEntries t)
    State.fnCycles core c d (fun k => [(k, entryBit t (lane v k / 2 ^ shift))])
      (fun vals k => widen x (tbWidth t) (vals.get 0 k)) fin l c.vals s
  | .tqFnSeg d _ _ _ =>
    State.fnCycles core c d
      (fun k => let g := 2 * (lane v k / 2 ^ 20); [(2 * k, entryBit t g), (2 * k + 1, entryBit t (g + 1))])
      (fun vals k => segment (tbWidth t) (lane v k) (vals.get 0 (2 * k)) (vals.get 0 (2 * k + 1))) fin l c.vals s
  | _ => .stays s

end Sys2Proof.Machine
end

