-- ==== Sys2Proof/Machine/Engines.lean ====
section
/-! DEFINITION. The steps of the engine queues and of the group units: guards, starting and performing commands, joint
commands, barriers, tile loads, add-ins and sweeps (R50, R160, R193 to R213, R239 to R242, R294), and the requests on
their way to the group units (R252 to R259). -/

namespace Sys2Proof.Machine

/-! ## Guards and starting (R50, R160, R201) -/

/-- The head command of a queue, if it is no joint one. -/
def State.soloHead (s : State) (core q : Nat) : Option Cmd :=
  match (s.queue core q).head with
  | some c => if c.instr.isJoint then none else some c
  | none => none

/-- What a guard says of its command at the head of a queue (R50): a pending slot holds it. -/
def State.guardRuns (s : State) (core : Nat) (c : Cmd) (g : Guard) : Option Bool :=
  match s.q ⟨core, c.slot⟩ g.slot with
  | .pending => none
  | .yes => some (!g.neg)
  | .no => some g.neg

/-- GUARD_RESOLVE_AT_HEAD: the command at the head reads its guard; it runs, is discarded, or holds its queue. -/
def execGuardResolveAtHead (core queue : Nat) (s : State) : Host.Outcome State Fault Refusal :=
  event (
    if 9 ≤ queue || !s.queueOn core queue then s
    else match s.soloHead core queue with
    | none => s
    | some c =>
      if c.ready then s
      else match c.instr.guard with
      | none => s
      | some g =>
        match s.guardRuns core c g with
        | none => s
        | some true => s.modHead core queue (fun c => { c with passed := true })
        | some false => s.discard core queue c)

/-- The outcome of performing the head of a queue, taken into the state (R160, R164, R209). -/
def State.settle (s : State) (core q : Nat) (c : Cmd) (r : EngineOut) : State :=
  match r with
  | .ends t status offset => t.endCommand core q c status offset
  | .fault t cause tval offset => (t.dropCommand core q c).faultCommand core q c cause tval offset
  | .precise t cause tval => (t.dropHead core q).trapOwner core c cause tval
  | .wait t => t
  | .stays t => t

/-- ENGINE_COMMAND_START: a command whose guard has passed and whose operands are ready begins; a sequence of the plane
that runs already takes some steps more, a query of several passes or cycles one of them, and an `ap.mcode` looks at its words once more
(R201, R222, R223, R227, R242, R360). -/
def execEngineCommandStart (core queue : Nat) (s : State) : Host.Outcome State Fault Refusal :=
  event (
    if 8 ≤ queue || !s.queueOn core queue then s
    else match s.soloHead core queue with
    | none => s
    | some c =>
      if !c.ready || c.stream.isSome then s
      else if c.running then
        match c.instr with
        | .apSeq .. | .apMax .. => s.settle core queue c (s.runSeq core c false)
        | .tqDot .. | .tqFnDir .. | .tqFnSeg .. => s.settle core queue c (s.doQuery core c false)
        | .apMcode .. => s.lookAtCode core c
        | _ => s
      else match s.operandsReady core c.instr with
      | .waits => s
      | .fault => s.settle core queue c (.fault s cIllegalOperand s.openTval)
      | .ready =>
        match if queue = 2 then s.startPlane core c else .stays s with
        | .stays t => t.modHead core queue (fun c => { c with running := true })
        | r => s.settle core queue c r)

/-- ENGINE_COMMAND_END: a command is performed and ends (R34, R209 to R211, R226). A bank at work cuts
it off behind what it has moved so far (R174). -/
def execEngineCommandEnd (core queue : Nat) (s : State) : Host.Outcome State Fault Refusal :=
  event (
    if !s.queueEnds core queue then s
    else match s.soloHead core queue with
    | none => s
    | some c =>
      let go := c.ready && (c.running || decide (queue = 8))
      if !go then s
      else match queue with
      | 0 =>
        match c.instr with
        | .tst k off _ pitch _ => s.settle core 0 c (s.doTst core c k off pitch)
        | _ => s
      | 1 => s.settle core 1 c (s.doMatrix core c)
      | 2 => s.settle core 2 c (s.doPlane core c)
      | 3 => s.settle core 3 c (s.doQuery core c)
      | 8 => s.settle core 8 c (s.doRpc core c)
      | _ => s)

/-! ## Joint commands and barriers (R197, R208, R294) -/

/-- JOINT_COMMAND_PERFORM: a joint command that stands at both heads reads its guard and is performed once. -/
def execJointCommandPerform (core : Nat) (s : State) : Host.Outcome State Fault Refusal :=
  event (
    match (s.queue core 0).head, (s.queue core 1).head with
    | some a, some c =>
      if !s.queueOn core 0 || !s.queueOn core 1 || !c.instr.isJoint || decide (a.joint ≠ some c.seq) then s
      else
        let runs := match c.instr.guard with
          | none => some true
          | some g => s.guardRuns core c g
        match runs with
        | none => s
        | some false => s.discard core 1 c
        | some true => s.settle core 1 c (s.doJoint core c.instr)
    | _, _ => s)

/-- Every command ahead of a queue's head has completed: no load is on its way, no remote operation, and no report that writes the
completion word of one that failed (R87, R294). -/
def State.behindEmpty (s : State) (core q : Nat) : Bool :=
  if q = 0 then (s.part core).loads.isEmpty
  else if q = 8 then !s.fabric.any (fun m => decide (m.src.core = core) && (m.body.ofUnit || match m.body with
    | .failed .. => m.cw.isSome
    | _ => false))
  else true

/-- QFENCE_BARRIER_PERFORM: a barrier at the head of all its queues. -/
def execQfenceBarrierPerform (core queue : Nat) (s : State) : Host.Outcome State Fault Refusal :=
  event (
    match (s.queue core queue).entries with
    | .barrier id mask :: _ =>
      let named := (upTo 9).filter (fun q => mask.testBit q)
      let there := fun (q : Nat) =>
        s.queueOn core q && s.behindEmpty core q && decide ((s.queue core q).entries.head? = some (.barrier id mask))
      if named.all there then forEach named s (fun q s => s.dropHead core q) else s
    | _ => s)

/-! ## Tile loads (R193, R194, R199) -/

/-- TILE_LOAD_DEPART: a load takes its position; while one is on its way, rows of those behind it may be opened (R172). -/
def execTileLoadDepart (core : Nat) (s : State) : Host.Outcome State Fault Refusal :=
  event (
    match s.soloHead core 0 with
    | none => s
    | some c =>
      match c.stream with
      | some k =>
        if !s.queueOn core 0 || !c.ready then s
        else if (s.part core).loads.isEmpty then s.departLoad core c k else s.openAhead core
      | none => s)

/-- TILE_SLOT_COMMIT: the oldest load on its way is complete; a suspended one waits (R178). -/
def execTileSlotCommit (core : Nat) (s : State) : Host.Outcome State Fault Refusal :=
  event (
    match (s.part core).loads with
    | c :: _ => if s.engineOn core && (s.queue core 0).suspended.isNone then s.commitLoad core c else s
    | [] => s)

/-! ## Add-ins (R206, R207, R211) -/

/-- A part that a core holds in place of a running one: its saved image's, where that is of the job. -/
def State.savedFor (s : State) (core : Nat) (job : BitVec 32) : Option Image :=
  match (s.core core).saved with
  | some im => if im.run.job = job then some im else none
  | none => none

/-- Remember a refused sender, once, in refusal order. -/
def Acc.refuse (x : Acc) (sender : Nat) : Acc :=
  if sender ∈ x.refused then x else { x with refused := x.refused ++ [sender] }

/-- Element-wise sums, each with its index and column. -/
def addElems (i32 : Bool) (x y : Acc) : List (Nat × Nat × Nat) :=
  places.map (fun p =>
    let a := x.elem p.1 p.2
    let b := y.elem p.1 p.2
    (32 * p.1 + p.2, p.2, if i32 then (a + b) % 2 ^ 32 else (fpAdd .f32 .rne a b).1))

/-- Perform an add-in at a core whose accumulator `n` is in RECV: the sum or, where it diverged, a failed add-in; at the end
of the count the receive is done (R206, R211). -/
def State.addIn (s : State) (core n : Nat) (r : Receive) (i32 : Bool) (from_ : Acc) : State :=
  let vals := addElems i32 (s.acc core n) from_
  let (vs, bad, s) := if i32 then (vals.map (fun v => (v.1, v.2.2)), [], s) else s.checkElems core (s.quarColumns core) vals
  let s := if bad.isEmpty then State.writeAcc n core s vs else s
  let r := { r with
    left := r.left - 1
    got := r.got + 1
    status := if r.status = 0 ∧ !bad.isEmpty then csShadow else r.status }
  if r.left = 0 then s.receiveDone core n r else s.modAcc core n (fun x => { x with recv := some r })

/-- ADD_IN_ARRIVAL: an add-in on its way is performed, or refused; one that comes again before those refused earlier is to be sent again
(R207). -/
def execAddInArrival (sender : Nat) (s : State) : Host.Outcome State Fault Refusal :=
  event (
    match s.soloHead sender 1 with
    | none => s
    | some c =>
      match c.instr with
      | .mdrainr i32 acc _ n _ =>
        let waiting := s.modHead sender 1 (fun c => { c with done := 2 })
        let source := s.acc sender acc
        if decide (c.done ≠ 1) || !s.mod.powered then s
        else match s.addInTarget sender (c.op1 0) with
        | none => s.settle sender 1 c (.fault s cTranslation s.openTval)
        | some k =>
          let job := (s.core sender).jobId
          match s.savedFor k job with
          | some im =>
            let p := im.part
            let p := { p with accs := p.accs.set n ((p.accs.get {} n).refuse sender) }
            waiting.modCore k (fun x => { x with saved := some { im with part := p } })
          | none =>
            let x := s.acc k n
            match x.recv with
            | some r =>
              if s.isSaving k then waiting.modAcc k n (fun x => x.refuse sender)
              else if x.refused.head?.any (fun y => decide (y ≠ sender)) && decide (sender ∈ x.refused) then
                s.modHead sender 1 (fun c => { c with done := 3 })
              else
                let s := s.modAcc k n (fun x => { x with refused := x.refused.filter (fun y => decide (y ≠ sender)) })
                (s.addIn k n r i32 source).endCommand sender 1 c csOk 4096
            | none => waiting.modAcc k n (fun x => x.refuse sender)
      | _ => s)

/-- ADD_IN_RETRY_NOTICE: the sender sends a noticed add-in again. -/
def execAddInRetryNotice (sender : Nat) (s : State) : Host.Outcome State Fault Refusal :=
  event (
    match s.soloHead sender 1 with
    | none => s
    | some c =>
      match c.instr with
      | .mdrainr .. => if c.done = 3 ∧ s.engineOn sender then s.modHead sender 1 (fun c => { c with done := 1 }) else s
      | _ => s)

/-! ## Sweeps (R239 to R241) -/

/-- SWEEP_ROW_STAGE. -/
def execSweepRowStage (core : Nat) (s : State) : Host.Outcome State Fault Refusal :=
  event (
    match s.soloHead core 2 with
    | none => s
    | some c =>
      match c.instr with
      | .apSweep .. => if s.queueOn core 2 && c.running then s.settle core 2 c (s.sweepStageStep core c) else s
      | _ => s)

/-- SWEEP_ARB_TIMEOUT: a transfer has waited ARBWIN cycles for ordinary requests (R241). -/
def execSweepArbTimeout (core : Nat) (s : State) : Host.Outcome State Fault Refusal :=
  event (
    match s.soloHead core 2 with
    | none => s
    | some c =>
      match c.instr with
      | .apSweep .. =>
        if s.queueOn core 2 && c.running && decide (sweepStage (s.plane core).apsweep ≠ 1) && !s.mayTransfer core c then
          s.modHead core 2 (fun c => { c with arb := true })
        else s
      | _ => s)

/-! ## Refresh (R173, R174) -/

/-- The transfer of a tile load that a refresh of a bank cuts: the state in which some of its bytes have arrived, with the load
and the vault offset it goes on at (R174). -/
def State.cutLoad (s : State) (core bank : Nat) : Option (State × Cmd × Nat) :=
  match (s.part core).loads with
  | c :: _ =>
    match c.instr with
    | .tld t k _ _ rows cols _ =>
      let left := dropSpans (·.2) c.buf.length c.loadSpans
      let n := Config.nat s.tick 241 % left.length
      if !s.engineOn core || (s.queue core 0).suspended.isSome || c.squashed || decide ((c.op1 0).toNat % 64 ≠ 0) then none
      else match s.readSpans (loadPort core) c c.buf [] (left.take n), left[n]? with
      | .ok got t', some (va, _) =>
        match t'.loadPlace core c va with
        | some off =>
          if bankOf off = bank ∧ (t'.atPlace ((loadPort core).at_ c) core off).isSome then
            some (t'.loadReached core (s.loadSlot core k c) rows (rowBytes t cols) got, c, off)
          else none
        | none => none
      | _, _ => none
    | _ => none
  | [] => none

/-- The tile load on its way delivers some more of its bytes, short of the last ones (R213). -/
def State.deliverSome (s : State) (core : Nat) : State :=
  match (s.part core).loads with
  | c :: _ =>
    match c.instr with
    | .tld t k _ _ rows cols _ =>
      let left := dropSpans (·.2) c.buf.length c.loadSpans
      if !s.engineOn core || (s.queue core 0).suspended.isSome || c.squashed || decide ((c.op1 0).toNat % 64 ≠ 0) then s
      else match s.readSpans (loadPort core) c c.buf [] (left.take (Config.nat s.tick 244 % left.length)) with
      | .ok got t' | .wait got t' => t'.loadReached core (s.loadSlot core k c) rows (rowBytes t cols) got
      | _ => s
    | _ => s
  | [] => s

/-- The row transfer of the plane that a refresh of a bank cuts, with its SUSP code (R174, R178). -/
def State.cutRow (s : State) (core bank : Nat) : Option (Nat × Cmd × Nat) :=
  match s.soloHead core 2 with
  | none => none
  | some c =>
    let z := (s.plane core).apsweep
    let place := match c.instr with
      | .apLd .. | .apSt .. => (s.ownPlace core 2 c (c.op1 0).toNat).map (fun off => (0, c, off))
      | .apSweep .. =>
        if z.getLsbD 63 && decide (sweepStage z ≠ 1) && s.mayTransfer core c then
          (s.ownPlace core 2 c (c.sweepVa (c.sweepRows - sweepRemain z)).toNat).map (fun off => (2, c, off))
        else none
      | _ => none
    if s.queueOn core 2 && c.running then
      place.filter (fun x => decide (bankOf x.2.2 = bank) && (s.atPlace ((planePort core x.1).at_ c) core x.2.2 2048).isSome)
    else none

/-- A refresh cuts off a command's transfer at its bank: its row has been activated, and it goes on there before all others (R174,
R176, R178). An activation alert of that row sets the bank to work instead (R180). -/
def State.cutOff (s : State) (p : Port) (c : Cmd) (core off len : Nat) : State :=
  let s := ((s.atPlace (p.at_ c) core off len).getD s).touchRow core off (s.engSource p c core)
  let s := if s.bankBusy core off len then s else s.beginRefresh core (bankOf off)
  s.engStall p c core off (first := true) (len := len)

/-- REFRESH_DUE: the refresh of a bank's next row has fallen due, and begins (R173). It cuts off the transfer of a tile load or of
a row of the plane that stands at the bank, which counts as a stall and may suspend it (R174, R176, R178); the bytes of a row of the plane
all move when it goes on (DESIGN CHOICE, notes/assumptions/6.md). -/
def execRefreshDue (core bank : Nat) (s : State) : Host.Outcome State Fault Refusal :=
  event (
    if !s.agentOn || decide (48 ≤ bank) || decide ((s.bank core bank).busy ≠ .idle) || decide (s.dram < s.bankDue core bank) then s
    else match (if Config.bit s.tick 240 then s.cutLoad core bank else none), (if Config.bit s.tick 242 then s.cutRow core bank else none) with
    | some (t, c, off), _ => t.cutOff (loadPort core) c core off 1
    | none, some (susp, c, off) => s.cutOff (planePort core susp) c core off 2048
    | none, none => s.beginRefresh core bank)

/-! ## Group units (R252 to R259) -/

/-- GROUP_UPDATE: a unit performs a credit or a deferred arrival. -/
def execGroupUpdate (unit n : Nat) (s : State) : Host.Outcome State Fault Refusal :=
  event (s.performQueued unit n (fun r => match r with
    | .credit .. | .arrive .. => true
    | _ => false))

/-- GROUP_DEPARTURE. -/
def execGroupDeparture (unit n : Nat) (s : State) : Host.Outcome State Fault Refusal :=
  event (s.performQueued unit n (fun r => match r with
    | .depart .. => true
    | _ => false))

/-- MEMBERSHIP_PAUSE. -/
def execMembershipPause (unit n : Nat) (s : State) : Host.Outcome State Fault Refusal :=
  event (s.performQueued unit n (fun r => match r with
    | .pause .. => true
    | _ => false))

/-- WATCHDOG_FIRE: WDOG_RUN has reached WDOG_T in a phase that has not completed (R259). -/
def execWatchdogFire (rid : Nat) (s : State) : Host.Outcome State Fault Refusal :=
  event (
    let x := s.group rid
    if x.live && decide (x.wdogT ≠ 0) && decide (x.wdogT ≤ x.wdogRun) then s.setGroup rid { x with fired := true } else s)

/-- The first deferred arrival of a context whose transfers are over. -/
def State.readyArrival (s : State) (w : Who) : Option (Nat × HeldArrival) :=
  let l := (s.ctx w).held
  let open_ := fun (t : Nat × BitVec 32) => (s.queue w.core (4 + t.1)).cmds.any (fun c => decide (c.seq = t.2))
  match l.findIdx? (fun e => !e.waits.any open_) with
  | some k => (l[k]?).map (fun e => (k, e))
  | none => none

/-- ARRD_RELEASE: the transfers that a deferred arrival waited for have completed; it is sent, and is a release when the unit performs it
(R254, R284). -/
def execArrdRelease (core slot : Nat) (s : State) : Host.Outcome State Fault Refusal :=
  event (
    let w : Who := ⟨core, slot⟩
    match s.readyArrival w with
    | none => s
    | some (k, e) =>
      if !s.mod.powered || (s.core core).run.isNone || s.isSaving core then s
      else
        (s.modCtx w (fun c => { c with held := dropAt c.held k })).askUnit (unitOfHandle e.handle)
          (.arrive w (s.core core).jobId e.h e.handle e.no e.covers))

end Sys2Proof.Machine
end

