-- ==== Sys2Proof/Machine/Preempt.lean ====
section
/-! DEFINITION. Pre-emption: stopping, saving and restoring a part (R78, R79, R148, R308 to R312), and `ctx.save` and
`ctx.rest` (R387, R388). -/

namespace Sys2Proof.Machine

/-! ## Steps 1 to 3 of a save (R308) -/

/-- Restart progress as TVAL holds it (R55); in trap service TVAL stays that of the trap (DEDUCED, notes/assumptions/143.md). -/
def Ctx.progressAt (c : Ctx) (k : Nat) : Ctx :=
  if c.status.intrap then c
  else { c with trap := { c.trap with tval := BitVec.ofNat 64 (2 ^ 63 + k % 64 * 2 ^ 57) ||| (c.trap.tval &&& 0x1FFFFFFFFFFFFFF) } }

/-- Step 1 for a context: its results are written, its skip marks cleared and its waits withdrawn; an item that stays in hand
is saved with it or finishes first, and restart progress stays with it, that of a `tcopy` with the words read (R46, R55, R296, R308, R464, R488,
R501). -/
def State.stopContext (s : State) (w : Who) : State :=
  let x := s.ctx w
  if !x.live then s
  else
    let stays := match x.hold.hand with
      | some i => i.staysInHand
      | none => false
    (if stays then s else s.endWait w).modCtx w (fun c =>
      let c := c.landAll
      let c := match c.hold.progress with
        | some k => c.progressAt k
        | none => c
      { c with hold := { c.hold with yields := 0 } })

/-- PREEMPT_INTERRUPT: the DX's interrupt reaches the control context, and issue stops. -/
def execPreemptInterrupt (core : Nat) (s : State) : Host.Outcome State Fault Refusal :=
  event (
    if (s.core core).preemption = .called ∧ (s.core core).run.isSome then
      forEach (upTo 11) (s.modCore core (fun c => { c with preemption := .stopping })) (fun k s => s.stopContext ⟨core, k⟩)
    else s)

/-- Step 2: `ORC` of every context counts nothing but accepted `.nr` calls (R78), and nothing that the save waits for is
under way: a request of the DX or the agent, or a steal. -/
def State.mayBeginSave (s : State) (core : Nat) : Bool :=
  let c := s.core core
  let settled := fun (k : Nat) =>
    let x := s.ctx ⟨core, k⟩
    x.remote.all (·.accepted) && (match x.hold.hand with
      | some i => i.ownsRegister
      | none => true)
  (upTo 11).all settled && c.part.steal.victim.isNone

/-- The memberships of a core's contexts are paused or unpaused, but for those of a context in trap service, which are
paused already (R259). -/
def State.pauseCore (s : State) (core : Nat) (enter : Bool) : State :=
  forEach (upTo 11) s (fun k s => if (s.ctx ⟨core, k⟩).status.intrap then s else s.pauseMembers ⟨core, k⟩ enter)

/-- A request that waits at a word of the core goes back to its context (R148). -/
def State.returnWaits (s : State) (core : Nat) : State :=
  let l := (s.core core).words
  (forEach l s (fun f s => s.modHold f.who (fun h => { h with hand := none }))).modCore core (fun c => { c with words := [] })

/-- Every direct write of a core's contexts and handlers, and every access that has reached its scratchpad, performed as far as the
banks let it (R148, R296). -/
def State.flushCore (s : State) (core : Nat) : State :=
  (forEach (upTo 19) s (fun k s => s.flush ⟨core, k⟩ (fun _ => true))).performWhere core (fun r => isSp r.key)

/-- The handlers of a core are shipped as its save begins, the commands that they interlock on and their waits withdrawn, and those that
have faulted end (R268, R270). The return queue takes them
all, beyond its 8 places too (DESIGN CHOICE, notes/assumptions/119.md). -/
def State.shipAll (s : State) (core : Nat) : State :=
  forEach (upTo 8) s (fun h s =>
    let x := s.ctx ⟨core, 11 + h⟩
    if !x.live then s
    else if x.hold.fwEntry.isSome then s.endFaulted core h
    else s.shipHandler core h)

/-- SAVE_BEGIN: step 3. Direct writes have been performed, handlers are shipped, memberships paused; the engines freeze, since the
core is saving: a tile load mid-row, the plane at a step boundary (R213, R242). -/
def execSaveBegin (core : Nat) (s : State) : Host.Outcome State Fault Refusal :=
  event (
    if (s.core core).preemption ≠ .stopping ∨ !s.mayBeginSave core then s
    else
      let s := s.flushCore core
      if (upTo 19).any (fun k => !s.flushed ⟨core, k⟩ (fun _ => true)) then s
      else
        let s := (s.deliverSome core).finishStep core
        let s := ((s.shipAll core).returnWaits core).pauseCore core true
        s.modCore core (fun c => { c with preemption := .saving s.ts }))

/-! ## Steps 4 to 7 (R309 to R311) -/

/-- The offset of a transfer's first unwritten byte. -/
def firstUnwritten (c : Cmd) (legs : List Leg) : Nat := legs.foldl (fun n l => min n l.offset) c.done

/-- A transfer in flight is squashed: it replays, or ends SQUASHED at restore (R309). -/
def squashCopy (legs : List Leg) (c : Cmd) : Cmd :=
  if !c.running then c
  else if c.transfer.replayable then
    { c with running := false, done := 0, failed := none, buf := [], copy := { c.copy with replay := true, cause := 0, tval := 0, lost := 0 } }
  else { c with squashed := true, failed := some (csSquashed, firstUnwritten c legs) }

def Part.squashCopies (p : Part) : Part :=
  { p with
    queues := p.queues.map (fun (q : Nat × Queue) =>
      if 4 ≤ q.1 ∧ q.1 < 8 then (q.1, q.2.mapHead (squashCopy (p.legs.get [] (q.1 - 4)))) else q)
    legs := [] }

/-- The header of a save image (R311). -/
def saveHeader (im : Image) : List Byte :=
  let replay := (upTo 4).filter (fun ch => match (im.part.queues.get {} (4 + ch)).head with
    | some c => c.squashed || c.copy.replay
    | none => false)
  let live := (upTo 11).filter (fun k => (im.part.ctxs.get {} k).live)
  let mask := fun (l : List Nat) => l.foldl (fun x k => x + 2 ^ k) 0
  natLE 8 (2 ^ 63 + im.logical % 2 ^ 11 * 2 ^ 32 + im.run.job.toNat) ++ natLE 8 im.ts
    ++ natLE 8 (mask replay * 2 ^ 32 + mask live) ++ List.replicate 1000 0

/-- The code of a partial sum in a save area: its sign, and its magnitude in units of 0.25 (R128, R310). -/
def pbCode (x : BitVec 32) : Nat :=
  match Fp.f32.value x.toNat with
  | .fin neg m e =>
    let quarters := if 0 ≤ e + 2 then m * 2 ^ (e + 2).toNat else m / 2 ^ (-(e + 2)).toNat
    (if neg then 2 ^ 15 else 0) + quarters % 2 ^ 11
  | _ => 0

/-- A set of bit numbers as bytes, bit 0 first. -/
def bitBytes (n : Nat) (l : List Nat) : List Byte := natLE n (l.foldl (fun x k => x ||| 2 ^ k) 0)

/-- The bytes of a save image, in the order of R310. Records whose encoding is not given are free bytes. -/
def saveBytes (tick : Nat) (im : Image) : List Byte :=
  let p := im.part
  let x := p.plane
  let free := fun (start n : Nat) => (upTo n).map (fun j => BitVec.ofNat 8 (Config.nat tick (2 ^ 32 + start + j)))
  (upTo 0x80000).map (im.words.get 0)
    ++ (upTo 128).flatMap (fun k => (upTo 32).flatMap (fun r => natLE 64 ((p.slots.get {} k).rows.get 0 r).toNat))
    ++ (upTo 4).flatMap (fun a => (upTo 1024).flatMap (fun e => natLE 4 ((p.accs.get {} a).elems.get 0 e).toNat))
    ++ (upTo 8192).flatMap (fun e => natLE 2 (pbCode (p.pb.get 0 e)))
    ++ (upTo 4096).flatMap (fun r => natLE 32 (x.field r 0 256))
    ++ (upTo 4096).map (fun r => BitVec.ofNat 8 ((upTo 8).foldl (fun n a => n + if (x.tag a).getLsbD r then 2 ^ a else 0) 0))
    ++ (upTo 8).flatMap (fun n => (upTo 256).flatMap (fun k => natLE 2 (((x.seqs.get [] (8 + n)).getD k 0).toNat % 2 ^ 16)))
    ++ free 0xEA000 0x1000
    ++ natLE 0x200 x.poison.toNat
    ++ free 0xEB200 0xE00
    ++ bitBytes 0x2000 im.full
    ++ free 0xEE000 0x11C00
    ++ saveHeader im

/-- The save area is written, but for the sectors that cannot be reached (R183, R310). -/
def State.writeSaveArea (s : State) (core : Nat) (im : Image) : State :=
  let base := 0x0B000000
  let sectors := fun (l : List Byte) (m : Memory) => (upTo 0x8000).foldl (fun (r : Memory × List Byte) j =>
    (if s.sectorReached core (base + 32 * j) then (r.1.writeBytes (coreKey core (base + 32 * j)) (r.2.take 32)).clear (coreKey core (base + 32 * j))
      else r.1, r.2.drop 32)) (m, l)
  { s with memory := (sectors (saveBytes s.tick im) s.memory).1 }

/-- What the scratchpad of a core holds, by offset. -/
def Memory.spBytes (m : Memory) (core : Nat) : Store Byte :=
  (m.bytes.filter (fun p => decide (spKey core 0 ≤ p.1) && decide (p.1 < spKey core 0x80000))).map
    (fun p => (p.1 - spKey core 0, p.2))

def spMarks (core : Nat) (l : List Nat) : List Nat :=
  (l.filter (fun x => decide (spKey core 0 ≤ 8 * x) && decide (8 * x < spKey core 0x80000))).map (fun x => x - spKey core 0 / 8)

/-- A queue's head waits for a page that is absent (R158). -/
def State.isParked (s : State) (core q : Nat) : Bool :=
  (s.cluster (clusterOf core)).walks.any (fun x => decide (x.client = .queue core q) && (match x.state with
    | .parked _ _ => true
    | _ => false))

/-- A query that keeps its progress as the number of its next cycle (R55). -/
def Cmd.passes (c : Cmd) : Bool :=
  match c.instr with
  | .tqDot .. | .tqFnDir .. | .tqFnSeg .. => true
  | _ => false

/-- A saved query reads its table's entries anew, from the pass or cycle that it has reached, which TVAL of its context holds too (R218, R222). -/
def Part.dropEntries (p : Part) : Part :=
  { p with
    ctxs := match (p.queues.get {} 3).head with
      | some c => p.ctxs.map (fun x =>
        if x.1 = c.slot ∧ c.running ∧ c.passes ∧ x.2.hold.hand = some c.instr then (x.1, x.2.progressAt c.done) else x)
      | none => p.ctxs
    queues := p.queues.map (fun (q : Nat × Queue) => if q.1 = 3 then (3, q.2.mapHead (fun c => { c with vals := [] })) else q) }

/-- COPY_DRAIN_EXPIRY: the copies have drained or are squashed; the rest of the save runs, and the core is free (R309,
SAVE_COMPLETE R311). A matrix command that is executing ends first; one whose page is absent is saved as it stands (R213). -/
def execCopyDrainExpiry (core : Nat) (s : State) : Host.Outcome State Fault Refusal :=
  event (
    let c := s.core core
    let busy := match (s.queue core 1).head with
      | some x => x.running && !s.isParked core 1 && (match x.instr with
        | .mdrainr .. => decide (x.done = 1)
        | _ => true)
      | none => false
    match c.preemption, c.run, s.logicalOf core with
    | .saving ts, some r, some n =>
      if busy || c.saved.isSome then s
      else
        let im : Image := {
          part := c.part.squashCopies.dropEntries, run := r, logical := n, ts, words := s.memory.spBytes core
          full := spMarks core s.memory.full, poison := spMarks core s.memory.wordPoison, held := c.requester.isSome }
        let s := s.writeSaveArea core im
        let s := { s with fabric := s.fabric.filter (fun m => !(decide (m.src.core = core) && decide (m.job = r.job) && (match m.body with
          | .leg .. => true
          | _ => false))) }
        let s := { s with clusters := s.clusters.map (fun (p : Nat × Cluster) =>
          (p.1, { p.2 with walks := p.2.walks.filter (fun (x : Walk) => decide (x.client.core ≠ some core)) })) }
        ((s.leaveAll core).modCore core (fun c => { c with
          part := { ctxs := c.nextCtxs }, saved := some im, run := none, preemption := .none, handlers := c.endedHandlers })).releaseRequester core
    | _, _, _ => s)

/-! ## Restore (R312) -/

/-- The scratchpad of an image comes back. -/
def Memory.restoreSp (m : Memory) (core : Nat) (im : Image) : Memory :=
  let m := m.zeroSp core
  let m := im.words.foldl (fun m p => m.setByte (spKey core p.1) p.2) m
  let m := im.full.foldl (fun m x => m.setFull (spKey core (8 * x)) true) m
  im.poison.foldl (fun m x => m.mark (spKey core (8 * x))) m

/-- The transfers of a part that are not replayable end SQUASHED (R309). -/
def State.endSquashed (s : State) (core : Nat) : State :=
  forEach (upTo 4) s (fun ch s => match (s.queue core (4 + ch)).head with
    | some c => if c.squashed then s.endTransfer core ch c csSquashed (c.failed.getD (0, 0)).2 else s
    | none => s)

/-- The part of an image as a restore brings it back: HZD is 0 while debug is not authorised (R319), and a plane command that runs is to be
checked (R243). -/
def Part.revived (p : Part) (dbg : Bool) : Part :=
  { p with
    queues := p.queues.map (fun q => if q.1 = 2 then (2, { q.2 with entries := q.2.entries.map Entry.resume }) else q)
    ctxs := p.ctxs.map (fun (x : Nat × Ctx) => (x.1, { x.2 with status := { x.2.status with hzd := x.2.status.hzd && dbg } })) }

/-- Steps 1 to 4 of a restore. -/
def State.restorePart (s : State) (core : Nat) (im : Image) : State :=
  let s := match s.dx.jobs.find? (fun j => decide (j.id = im.run.job)) with
    | some j => s.setKey im.logical j
    | none => s
  let s := { s with memory := s.memory.restoreSp core im }
  let s := s.modCore core (fun c => { c with
    part := im.part.revived s.mod.dbg
    run := some { im.run with since := s.ts, sliced := false }
    jobId := im.run.job, asid := im.run.asid, saved := none, handlers := c.endedHandlers
    code := [], latch := {}, l1Ranges := [], l1Pages := [] })
  let s := (s.clearValid core).endSquashed core
  let s := forEach (s.core core).part.accs s (fun a s => s.noticeSenders a.2.refused)
  let s := s.pauseCore core false
  let s := if im.run.notify then
      s.modPending ⟨core, 0⟩ (fun p => { p with preempt := some (BitVec.ofNat 64 ((s.ts - im.ts) % 2 ^ 48)) })
    else s
  (s.releaseRequester core).redeliverAll core

/-- RESTORE: the saved part comes back once nothing else is to run on its core; a HELD one when a `ctx.rest` names it
(R305, R312, R387). -/
def execRestore (core : Nat) (s : State) : Host.Outcome State Fault Refusal :=
  event (
    let c := s.core core
    match c.saved with
    | none => s
    | some im =>
      if !s.mod.powered || decide (s.mod.step < 7) || c.run.isSome || decide (c.preemption ≠ .none) || s.taken im.logical
          || (im.held && c.requester.isNone) || decide (s.physOf im.logical ≠ some core) then s
      else s.restorePart core im)

/-! ## ctx.save and ctx.rest (R387, R388) -/

/-- The core that a form names, or ILLEGAL_OPERAND. -/
def State.otherCore (s : State) (w : Who) (x : Word) (k : Nat → Effect) : Effect :=
  let bad := Effect.done (s.trapSync w cIllegalOperand x)
  if 1151 < x.toNat ∨ s.logicalOf w.core = some x.toNat then bad
  else match s.physOf x.toNat with
    | some n => k n
    | none => bad

/-- R387: the DX marks the core HELD and pre-empts it; the form waits for the end of the save. -/
def execCtxSave (a : Nat) (s : State) : Host.Outcome State Fault Refusal :=
  run (.ctxSave a) s (fun w s =>
    let x := s.g w a
    s.otherCore w x (fun k =>
      let c := s.core k
      let ok := match c.run with
        | some r => !r.preempting && c.saved.isNone && !c.marks.underScan && decide (c.preemption = .none) && c.requester.isNone
        | none => false
      if !ok then .done (s.trapSync w cIllegalOperand x)
      else .done ((s.modCore k (fun c => { c with
        preemption := .called, requester := some (w, (s.ctx w).hold.gen) })).inHand w (.ctxSave a))))

/-- R387: the form waits for step 3 of the restore. -/
def execCtxRest (a : Nat) (s : State) : Host.Outcome State Fault Refusal :=
  run (.ctxRest a) s (fun w s =>
    let x := s.g w a
    s.otherCore w x (fun k =>
      let c := s.core k
      let ok := match c.saved with
        | some im => im.held && c.run.isNone && decide (c.preemption = .none) && c.requester.isNone
        | none => false
      if !ok then .done (s.trapSync w cIllegalOperand x)
      else .done ((s.modCore k (fun c => { c with requester := some (w, (s.ctx w).hold.gen) })).inHand w (.ctxRest a))))

end Sys2Proof.Machine
end

