-- ==== Sys2Proof/Machine/SysRegs.lean ====
section
/-! DEFINITION. System registers: `sysr` and `sysw` (R4, R5, R62 to R77, R461, R462). -/

namespace Sys2Proof.Machine

/-! ## Layouts -/

def bitIf (b : Bool) (k : Nat) : Nat := if b then 2 ^ k else 0

/-- The sticky flags as a read sees them: those of results in flight may have landed or not (R44, R117). -/
def State.flagsRead (s : State) (w : Who) : BitVec 5 :=
  let c := s.ctx w
  ((upTo c.hold.flights.length).zip c.hold.flights).foldl
    (fun x p => if Config.bit s.tick (281 + p.1) then x ||| p.2.flags else x) c.status.fflags

/-- STATUS (R64). -/
def State.statusWord (s : State) (w : Who) : Word :=
  let x := (s.ctx w).status
  BitVec.ofNat 64 ((s.flagsRead w).toNat * 2 ^ 16 + bitIf x.hzd 15 + bitIf s.mod.dbg 14 + x.ppl.toNat * 2 ^ 10 + x.pl.toNat * 2 ^ 8
    + bitIf x.intrap 0)

/-- CFR of a command fault, but for VALID (R68). A handler's command is recorded with its handler context. -/
def CommandFault.word (f : CommandFault) : Word :=
  let ctx := if 11 ≤ f.slot then f.slot - 11 else f.slot
  BitVec.ofNat 64 (f.queue * 2 ^ 56 + ctx * 2 ^ 52 + f.cause * 2 ^ 44 + f.seq.toNat % 2 ^ 16)

/-- A loop's count register (R54). -/
def Loop.word (l : Loop) : Word := BitVec.ofNat 64 (bitIf l.active 32 + l.count.toNat)

/-- A layer above 85 °C is hot (R70, R173). -/
def State.layerHot (s : State) (core layer : Nat) : Bool := decide (85 < s.layerTemp core layer)

/-- DRAM clock cycles in cycles of the core clock, rounded up (R3). -/
def State.coreCycles (s : State) (n : Nat) : Nat := (n * s.mod.mhz + 1999) / 2000

/-- VREF_NEXT (R70, R175): DUE is what is left of the time to the bank's next refresh in cycles of the present core clock, 0 for one
that is overdue in the model. -/
def State.vrefWord (s : State) (w : Who) : Word :=
  let sel := (s.ctx w).trap.vrefSel.toNat
  BitVec.ofNat 64 (sel * 2 ^ 48
    + (if sel < 48 then bitIf (s.layerHot w.core (sel / 4)) 32 + s.coreCycles (s.bankDue w.core sel - s.dram) % 2 ^ 32 else 0))

/-- VTEMP (R70). -/
def State.vtempWord (s : State) (core : Nat) : Word :=
  BitVec.ofNat 64 ((upTo 12).foldl (fun x l =>
    x + (bitIf (s.layerHot core l) 4 + min 15 ((s.layerTemp core l - 40) / 5)) * 2 ^ (5 * l)) 0)

/-- FBUF_STAT (R74). -/
def Cluster.fbufWord (c : Cluster) : Word := BitVec.ofNat 64 (bitIf c.dropped 63 + c.dropCount * 2 ^ 8 + c.fbuf.length)

/-- SCAN_STAT (R76); while a scan runs, PATTERN counts what it has completed. -/
def State.scanWord (s : State) (core : Nat) : Word :=
  let m := (s.core core).marks
  let pattern := if m.scanState = 1 then Config.nat s.tick 270 % 8001 else m.scanPattern
  BitVec.ofNat 64 (m.scanTarget * 2 ^ 32 + pattern * 2 ^ 16 + m.scanState)

/-- SUSPECT of eight units (R75). -/
def State.suspectWord (s : State) (core n : Nat) : Word :=
  BitVec.ofNat 64 ((upTo 8).foldl (fun x j => x + (if 8 * n + j ≤ 96 then s.score core (8 * n + j) else 0) * 2 ^ (8 * j)) 0)

/-- The mapped slots of a cluster (R12). -/
def State.slotsMapped (s : State) (cluster : Nat) : Nat :=
  ((upTo 24).filter (fun k => (s.physOf (cluster * 24 + k)).isSome)).length

/-- Every field of a register as it stands (R63). -/
def State.regWord (s : State) (w : Who) : SysReg → Word
  | .coreId => BitVec.ofNat 64 ((s.logicalOf w.core).getD 0)
  | .physId => BitVec.ofNat 64 w.core
  | .ctxId => BitVec.ofNat 64 w.slot
  | .clusterId => BitVec.ofNat 64 (clusterOf w.core)
  | .clCores => BitVec.ofNat 64 (s.slotsMapped (clusterOf w.core))
  | .devId => BitVec.ofNat 64 s.mod.devId
  | .jobId => (s.core w.core).jobId.setWidth 64
  | .asid => (s.core w.core).asid.setWidth 64
  | .ts => BitVec.ofNat 64 s.ts
  | .cycle => BitVec.ofNat 64 (s.clock - (s.core w.core).marks.cycle)
  | .status => s.statusWord w
  | .epc => (s.ctx w).trap.epc
  | .tcause => (s.ctx w).trap.tcause
  | .tval => (s.ctx w).trap.tval
  | .tvec => (s.core w.core).part.regs.tvec
  | .ssp => (s.ctx w).trap.ssp
  | .sslim => (s.ctx w).trap.sslim
  | .scratch => (s.ctx w).trap.scratch
  | .orc => BitVec.ofNat 64 (s.ctx w).remote.length
  | .cdone n => ((s.core w.core).part.regs.cdone.get 0 n).setWidth 64
  | .cfail n =>
    let f := (s.core w.core).part.regs.cfail.get {} n
    BitVec.ofNat 64 (f.fcount * 2 ^ 33 + bitIf f.valid 32 + f.id.toNat)
  | .cdrainLimit => (s.core w.core).part.regs.cdrainLimit
  | .cfr => match (s.core w.core).part.regs.cfr with
    | some f => 0x8000000000000000 ||| f.word
    | none => (s.core w.core).part.regs.cfrLast
  | .cfrPc => (s.core w.core).part.regs.cfrPc
  | .arbwin => (s.core w.core).part.regs.arbwin
  | .vevMask => (s.core w.core).part.regs.vevMask
  | .vevCount => (s.core w.core).part.regs.vevCount
  | .vrefNext => s.vrefWord w
  | .vtemp => s.vtempWord w.core
  | .actAlertSrc =>
    let m := (s.core w.core).marks
    if m.actValid then 0x8000000000000000 ||| m.actAlert else m.actAlert
  | .lc n => (if n = 0 then (s.ctx w).lc0 else (s.ctx w).lc1).word
  | .ls n => (if n = 0 then (s.ctx w).lc0 else (s.ctx w).lc1).first
  | .le n => (if n = 0 then (s.ctx w).lc0 else (s.ctx w).lc1).last
  | .apmpc => (s.plane w.core).apmpc
  | .apsweep => (s.plane w.core).apsweep
  | .fbufStat => (s.cluster (clusterOf w.core)).fbufWord
  | .suspect n => s.suspectWord w.core n
  | .scanStat => s.scanWord w.core
  | .scanSig => if (s.core w.core).marks.scanState = 1 then Config.word s.tick 271 else (s.core w.core).marks.scanSig
  | .ringBase => (s.core w.core).part.regs.ringBase
  | .ringSize => (s.core w.core).part.regs.ringSize
  | .htabBase => (s.core w.core).part.regs.htabBase

/-- What user privilege sees of a register: a mask, or none where every field is above it (R4, R461). -/
def userSees : SysReg → Option Word
  | .status => some (~~~0x8C00#64)
  | .actAlertSrc => some 0x7FFFFFFFFFFFFFFF
  | .epc | .tcause | .tval | .tvec | .ssp | .sslim | .scratch | .cdrainLimit | .cfr | .cfrPc | .arbwin | .vevMask | .vevCount
  | .apmpc | .apsweep | .fbufStat | .suspect _ | .scanStat | .scanSig | .ringBase | .ringSize | .htabBase => none
  | _ => some allOnes

/-- R461: distance 4; the flags of STATUS follow R117. -/
def execSysr (d : Nat) (r : SysReg) (s : State) : Host.Outcome State Fault Refusal :=
  let i := Instr.sysr d r
  run i s (fun w s =>
    match if s.isUser w then userSees r else some allOnes with
    | some m => .done ((s.result w 4 (.g d (s.regWord w r &&& m))).advance w i)
    | none => .done (s.trapSync w cPrivilege (BitVec.ofNat 64 r.number)))

/-! ## sysw (R462) -/

/-- A write by `sysw`: PRIVILEGE where it would change a field above the issuer's privilege; else the effect. `guarded` says
so for user privilege. -/
def runSysw (i : Instr) (r : SysReg) (a : Nat) (s : State) (guarded : Who → State → Word → Bool)
    (effect : Who → State → Word → Effect) : Host.Outcome State Fault Refusal :=
  run i s (fun w s =>
    let x := s.g w a
    if s.isUser w && guarded w s x then .done (s.trapSync w cPrivilege (BitVec.ofNat 64 r.number))
    else effect w s x)

/-- The writable bits of a register that one write replaces as a whole (R5, R65, R68, R69, R70, R73). -/
def writeMask : SysReg → Word
  | .epc => 0x1FFFFFFFFFFFFF8
  | .tcause => 0xFF
  | .tvec => 0x1FFFFFFFFFFFFE0
  | .tval | .scratch => allOnes
  | .ssp | .sslim => ~~~7#64
  | .cdrainLimit => 0xFFFFFFFF
  | .arbwin => 0xFFFF
  | .vevMask => 0x1F
  | .vevCount => 0x0FFFFFFFFFFFFFFF
  | .vrefNext => 0x003F000000000000
  | .apmpc => 0x801FFFFF
  | .apsweep => 0xE000FFFF0FFFF800
  | _ => 0

/-- The register takes the written bits; the registers without writable bits ignore the write. -/
def State.putReg (s : State) (w : Who) (r : SysReg) (x : Word) : State :=
  let v := x &&& writeMask r
  match r with
  | .epc => s.modTrap w (fun t => { t with epc := v })
  | .tcause => s.modTrap w (fun t => { t with tcause := v })
  | .tval => s.modTrap w (fun t => { t with tval := v })
  | .ssp => s.modTrap w (fun t => { t with ssp := v })
  | .sslim => s.modTrap w (fun t => { t with sslim := v })
  | .scratch => s.modTrap w (fun t => { t with scratch := v })
  | .vrefNext => s.modTrap w (fun t => { t with vrefSel := (v >>> 48).setWidth 6 })
  | .tvec => s.modRegs w.core (fun p => { p with tvec := v })
  | .cdrainLimit => s.modRegs w.core (fun p => { p with cdrainLimit := v })
  | .arbwin => s.modRegs w.core (fun p => { p with arbwin := v })
  | .vevMask => s.modRegs w.core (fun p => { p with vevMask := v })
  | .vevCount => s.modRegs w.core (fun p => { p with vevCount := v })
  | .apmpc => s.setPlane w.core { s.plane w.core with apmpc := v }
  | .apsweep => s.setPlane w.core { s.plane w.core with apsweep := v }
  | _ => s

/-- A register whose writable fields are all above user privilege would change. -/
def wouldChange (r : SysReg) (w : Who) (s : State) (x : Word) : Bool :=
  (userSees r).isNone && decide (x &&& writeMask r ≠ s.regWord w r &&& writeMask r)

/-- R462, for the registers that a write replaces as a whole and for the read-only ones. -/
def execSysw (a : Nat) (r : SysReg) (s : State) : Host.Outcome State Fault Refusal :=
  let i := Instr.sysw a r
  runSysw i r a s (wouldChange r) (fun w s x => .done ((s.putReg w r x).advance w i))

/-- R64, R117: FFLAGS takes the written bits and stands over the flags in flight or held; HZD only while debug is authorised. -/
def execSyswStatus (a : Nat) (s : State) : Host.Outcome State Fault Refusal :=
  let i := Instr.syswStatus a
  runSysw i .status a s
    (fun w s x =>
      let t := (s.ctx w).status
      decide (x.extractLsb' 10 2 ≠ t.ppl) || (s.mod.dbg && decide (x.getLsbD 15 ≠ t.hzd)))
    (fun w s x =>
      .done ((s.modCtx w (fun c => { c with
        status := { c.status with
          fflags := x.extractLsb' 16 5
          hzd := if s.mod.dbg then x.getLsbD 15 else c.status.hzd
          ppl := x.extractLsb' 10 2 }
        hold := { c.hold with
          flights := c.hold.flights.map (fun f => { f with flags := 0 })
          divergence := c.hold.divergence.map (fun d => { d with flags := 0 }) } })).advance w i))

/-- R54, R72. -/
def execSyswLoop (a : Nat) (r : SysReg) (s : State) : Host.Outcome State Fault Refusal :=
  let i := Instr.syswLoop a r
  runSysw i r a s (fun _ _ _ => false) (fun w s x =>
    let change := fun (n : Nat) (f : Loop → Loop) =>
      s.modCtx w (fun c => if n = 0 then { c with lc0 := f c.lc0 } else { c with lc1 := f c.lc1 })
    let at_ := x &&& 0x1FFFFFFFFFFFFF8
    let t := match r with
      | .lc n => change n (fun l => { l with active := x.getLsbD 32, count := x.setWidth 32 })
      | .ls n => change n (fun l => { l with first := at_ })
      | .le n => change n (fun l => { l with last := at_ })
      | _ => s
    .done (t.advance w i))

/-- R69. -/
def execSyswVevCount (a : Nat) (s : State) : Host.Outcome State Fault Refusal :=
  let i := Instr.syswVevCount a
  runSysw i .vevCount a s (wouldChange .vevCount) (fun w s x => .done ((s.putReg w .vevCount x).advance w i))

/-- R67: writing 1 to VALID clears the record. -/
def execSyswCfail (a n : Nat) (s : State) : Host.Outcome State Fault Refusal :=
  let i := Instr.syswCfail a n
  runSysw i (.cfail n) a s (fun _ _ _ => false) (fun w s x =>
    .done ((if x.getLsbD 32 then s.modRegs w.core (fun p => { p with cfail := p.cfail.set n {} }) else s).advance w i))

/-- R74: writing 1 to DROPPED clears it and DROPCOUNT. -/
def execSyswFbufStat (a : Nat) (s : State) : Host.Outcome State Fault Refusal :=
  let i := Instr.syswFbufStat a
  runSysw i .fbufStat a s (fun _ _ x => x.getLsbD 63) (fun w s x =>
    .done ((if x.getLsbD 63 then s.modCluster (clusterOf w.core) (fun c => { c with dropped := false, dropCount := 0 })
      else s).advance w i))

/-- R71: writing 1 to VALID clears it. -/
def execSyswActAlertSrc (a : Nat) (s : State) : Host.Outcome State Fault Refusal :=
  let i := Instr.syswActAlertSrc a
  runSysw i .actAlertSrc a s (fun _ _ x => x.getLsbD 63) (fun w s x =>
    .done ((if x.getLsbD 63 then s.modMarks w.core (fun m => { m with actValid := false }) else s).advance w i))

/-- R75: scores of units that do not exist ignore the write; a score below 128 lifts the quarantine (R326). -/
def execSyswSuspect (a n : Nat) (s : State) : Host.Outcome State Fault Refusal :=
  let i := Instr.syswSuspect a n
  let real := (upTo 8).filter (fun j => decide (8 * n + j ≤ 96))
  let byte := fun (x : Word) (j : Nat) => x.toNat / 2 ^ (8 * j) % 256
  runSysw i (.suspect n) a s
    (fun w s x => real.any (fun j => decide (byte x j ≠ s.score w.core (8 * n + j))))
    (fun w s x => .done ((forEach real s (fun j s => s.setScore w.core (8 * n + j) (byte x j))).advance w i))

/-- The ring lies on 64-byte boundaries, may not pass the scratchpad's end, and may not meet the stacks (R77). -/
def ringFits (base size : Nat) : Bool :=
  decide (base % 64 = 0) && decide (size % 64 = 0) && decide (base < 0x80000) && decide (base + size ≤ 0x80000)
    && (decide (size = 0) || decide (base + size ≤ 0x70000) || decide (0x7C600 ≤ base))

/-- R77. A write to the ring's place or length finds it empty; its tail is at its base behind it (DESIGN CHOICE,
notes/assumptions/32.md). -/
def execSyswRing (a : Nat) (r : SysReg) (s : State) : Host.Outcome State Fault Refusal :=
  let i := Instr.syswRing a r
  let field : Word := if r = .htabBase then allOnes else 0x7FFC0
  runSysw i r a s (fun w s x => decide (x &&& field ≠ s.regWord w r &&& field)) (fun w s v =>
    let p := (s.core w.core).part
    let bad := Effect.done (s.trapSync w cIllegalOperand v)
    let put := fun (f : PartRegs → PartRegs) => Effect.done ((s.modRegs w.core f).advance w i)
    let place := fun (f : PartRegs → PartRegs) =>
      Effect.done (((s.modRegs w.core f).modPart w.core (fun p => { p with ringAt := 0 })).advance w i)
    match r with
    | .ringBase =>
      if !p.ring.isEmpty || !ringFits v.toNat p.regs.ringSize.toNat then bad else place (fun q => { q with ringBase := v })
    | .ringSize =>
      if !p.ring.isEmpty || !ringFits p.regs.ringBase.toNat v.toNat then bad else place (fun q => { q with ringSize := v })
    | _ =>
      if v.toNat % 1024 ≠ 0 ∨ v.toNat < 0x0B150000 ∨ 0x0B153C00 < v.toNat then bad else put (fun q => { q with htabBase := v }))

/-- The plane is at work on its head command. -/
def State.planeRuns (s : State) (core : Nat) : Bool :=
  s.queueOn core 2 && (match (s.queue core 2).head with
    | some c => c.running
    | none => false)

/-- R73, R243: ignored while the register is VALID and the plane is running. -/
def execSyswPlaneProgress (a : Nat) (r : SysReg) (s : State) : Host.Outcome State Fault Refusal :=
  let i := Instr.syswPlaneProgress a r
  let ignored := fun (w : Who) (s : State) =>
    s.planeRuns w.core && (s.regWord w r).getLsbD (if r = .apmpc then 31 else 63)
  runSysw i r a s (fun w s x => !ignored w s && wouldChange r w s x) (fun w s x =>
    .done ((if ignored w s then s else s.putReg w r x).advance w i))

end Sys2Proof.Machine
end

