-- ==== Sys2Proof/Machine/Control.lean ====
section
/-! DEFINITION. The control class 0x000: branches, calls, loops, tasks, guard slots. -/

namespace Sys2Proof.Machine

/-- An integer condition (R91, R366). -/
def intHolds (cc : IntCond) (a b : Word) : Bool :=
  match cc with
  | .eq => decide (a = b)
  | .ne => decide (a ≠ b)
  | .lt => a.slt b
  | .ge => b.sle a
  | .ltu => a.ult b
  | .geu => b.ule a
  | .gt => b.slt a
  | .le => a.sle b
  | .gtu => b.ult a
  | .leu => a.ule b

/-- A lane-mask condition (R366). -/
def maskHolds (c : MaskCond) (m : Word) : Bool :=
  match c with
  | .any => decide (m ≠ 0)
  | .all => decide (m = allOnes)
  | .none => decide (m = 0)
  | .nall => decide (m ≠ allOnes)

/-- A target `off` 8-byte units from the PC (R366). -/
def State.target (s : State) (w : Who) (off : Int) : Word := (s.ctx w).pc + BitVec.ofInt 64 (8 * off)

/-- A conditional branch: the target, or the sequential successor with its loop-end check (R366). -/
def State.branch (s : State) (w : Who) (i : Instr) (taken : Bool) (off : Int) : State :=
  if taken then s.setPc w (s.target w off) else s.advance w i

/-- R366. -/
def execBcmp (cc : IntCond) (a b : Nat) (off : Int) (s : State) : Host.Outcome State Fault Refusal :=
  let i := Instr.bcmp cc a b off
  run i s (fun w s => .done (s.branch w i (intHolds cc (s.g w a) (s.g w b)) off))

/-- R366. -/
def execBpred (mc : MaskCond) (p : Nat) (off : Int) (s : State) : Host.Outcome State Fault Refusal :=
  let i := Instr.bpred mc p off
  run i s (fun w s => .done (s.branch w i (maskHolds mc (s.p w p)) off))

/-- R366. -/
def execBr (off : Int) (s : State) : Host.Outcome State Fault Refusal :=
  let i := Instr.br off
  run i s (fun w s => .done (s.branch w i true off))

/-- R373: the context takes DEBUG behind the instruction. -/
def execBrk (code : Nat) (s : State) : Host.Outcome State Fault Refusal :=
  let i := Instr.brk code
  run i s (fun w s => .done (s.trapNext w i cDebug (BitVec.ofNat 64 code)))

/-- Push the return address, link and jump (R58). -/
def State.callTo (s : State) (w : Who) (i : Instr) (target : Word) : Effect :=
  let next := s.nextPc w i
  s.pushShadow w next (fun s => .done ((s.setG w 31 next).setPc w target))

/-- R58, R375. -/
def execCall (off : Int) (s : State) : Host.Outcome State Fault Refusal :=
  let i := Instr.call off
  run i s (fun w s => s.callTo w i (s.target w off))

/-- A register target that is not 8-byte aligned raises MISALIGNED (R97). -/
def State.aligned (s : State) (w : Who) (target : Word) (k : Effect) : Effect :=
  if target.toNat % 8 ≠ 0 then .done (s.trapSync w cMisaligned target) else k

/-- R58, R375: the target is read before the link is written. -/
def execCallr (a : Nat) (s : State) : Host.Outcome State Fault Refusal :=
  let i := Instr.callr a
  run i s (fun w s => s.aligned w (s.g w a) (s.callTo w i (s.g w a)))

/-- R36, R402: the other arm becomes a task, or runs inline behind a full deque. -/
def execFork (ns : Bool) (j : Nat) (off : Int) (s : State) : Host.Outcome State Fault Refusal :=
  let i := Instr.fork ns j off
  run i s (fun w s =>
    let rec_ : TaskRecord := {
      pc := s.target w off, args := [1, 2, 3, 4].map (s.g w), stackless := ns, join := s.g w j, pl := s.pl w }
    if (s.core w.core).part.deque.length < 32 then
      .done ((s.modPart w.core (fun p => { p with deque := p.deque ++ [rec_], steal := { p.steal with waiting := false } })).advance w i)
    else
      s.pushShadow w (s.nextPc w i ||| 1) (fun s => .done ((s.setG w 5 rec_.join).setPc w rec_.pc)))

/-- R409: kills, replies, ends an inline arm or a task, or starts the control context's wait for the end of the part. -/
def execHexit (s : State) : Host.Outcome State Fault Refusal :=
  run .hexit s (fun w s =>
    if (s.ctx w).status.intrap then .done (s.kill w)
    else if (s.ctx w).reply.isSome then s.hretEffect w
    else if w.slot = 0 then .done (s.inHand w .hexit)
    else s.inlineFrame w (fun frame s => .done (s.endTask w frame)))

/-- R30, R411: the lowest FREE helper starts at the target, behind the issuer's writes to the own scratchpad; its number, or 0,
is the result with distance 3. -/
def execHstart (d : Nat) (off : Int) (s : State) : Host.Outcome State Fault Refusal :=
  let i := Instr.hstart d off
  run i s (fun w s =>
    match s.freeHelper w.core with
    | none => .done ((s.result w 3 (.g d 0)).advance w i)
    | some k =>
      let mine := fun (r : Req) => isSp r.key && decide (r.who = w)
      let s := s.performWhere w.core mine
      let t : TaskRecord := {
        pc := s.target w off, args := [1, 2, 3, 4].map (s.g w), stackless := false, join := 0, pl := s.pl w }
      if s.buffers w.core mine then .wait (fun s0 => s0.performWhere w.core mine)
      else .done (((s.startTask ⟨w.core, k⟩ t).result w 3 (.g d (BitVec.ofNat 64 k))).advance w i))

/-- R412: waits for a PRESENT mailbox or a pending asynchronous trap. -/
def execIdle (s : State) : Host.Outcome State Fault Refusal :=
  run .idle s (fun w s =>
    if (s.core w.core).part.mail.anyPresent || (s.ctx w).hold.anyPending then .done (s.advance w .idle)
    else .done (s.inHand w .idle))

/-- A scratchpad whose core holds no part of the job, running or saved (R139, R413). -/
def State.noPart (s : State) (core : Nat) : Loc → Bool
  | .scratch o _ => decide (s.sameJob core o = (false, false))
  | _ => false

/-- The counter of a join: translated, reached and checked as R413 orders it, in the order of R141. -/
def State.joinWord (s : State) (w : Who) (va : Word) (k : Nat → State → Effect) : Effect :=
  if va.toNat % 8 ≠ 0 then .done (s.trapSync w cMisaligned va)
  else
    s.locateVa w { write := true } va va (fun l s =>
      if s.noPart w.core l then .done (s.trapSync w cTranslation va)
      else s.reachLoc w { write := true } .remote va va 8 l (fun key s =>
        if decide (keyOff key < 0x10000000) then .done (s.trapSync w cIllegalOperand va)
        else if !isHere key then .done (s.trapSync w cTranslation va)
        else s.afterEarlier w key 8 (fun s => match s.poisonAt key 8 with
          | (s, some _) => .done (s.trapSync w cUncorrectable va)
          | (s, none) => if s.word key = 0 then .done (s.trapSync w cIllegalOperand va) else k key s)
          (fun s0 => s0.keepFor w { write := true } va)))

/-- Lower a counter by one (R37). -/
def State.lower (s : State) (key : Nat) : State :=
  match s.store key (natLE 8 (s.word key - 1).toNat) with
  | some t => t
  | none => s

/-- A continuing join performs its acquire part and goes to the continuation (R38). -/
def State.joinOn (s : State) (w : Who) (off : Int) : State :=
  let s := (s.emptyLatch w.core).modHold w (fun h => { h with joinAt := none })
  s.setPc w (s.target w off)

/-- The update of a helper-form join comes to a continuation (R37): the last one, with no `join.w` waiting. -/
def State.lastJoin (s : State) (key : Nat) : Bool := decide (s.word key = 1) && s.memory.isFull key

/-- R37, R38, R413, R414. A join on the control context waits, except inside an inline arm; to know which, it reads the top of
its shadow stack, and that use is checked as R504's others are (DESIGN CHOICE, notes/assumptions/113.md). The end of an arm is
checked ahead of the update, which a trapping join does not make (R504). -/
def execJoin (w_ : Bool) (a : Nat) (off : Int) (s : State) : Host.Outcome State Fault Refusal :=
  let i := Instr.join w_ a off
  run i s (fun w s =>
    let va := s.g w a
    let here := ((s.ctx w).pc, va)
    let s := if (s.ctx w).hold.joinAt = some here then s else s.modHold w (fun h => { h with joinAt := none })
    let watch := fun (key : Nat) (s : State) =>
      if s.memory.isFull key then Effect.done (s.joinOn w off)
      else .done ((s.modHold w (fun h => { h with hand := some i, joinAt := some here })).modCore (keyCore key)
        (fun c => { c with words := c.words ++ [{ key, who := w, instr := i, va }] }))
    let waiting := fun (s : State) =>
      if (s.ctx w).hold.joinAt = some here then
        -- the update was performed before a trap withdrew the wait
        s.reachVa w { write := true } .remote va 8 watch
      else
        s.release w (s.taskScope w.core) (fun s => s.joinWord w va (fun key s =>
          let s := s.lower key
          let s := (s.setFull key (decide (s.word key = 0))).serveWords key
          watch key s))
    let helper := fun (s : State) =>
      s.release w (s.taskScope w.core) (fun s => s.joinWord w va (fun key s =>
        let s := s.modHold w (fun h => { h with joinAt := none })
        if s.lastJoin key then .done ((s.lower key).joinOn w off)
        else s.inlineFrame w (fun frame s =>
          let s := s.lower key
          .done ((if s.word key = 0 then (s.setFull key true).serveWords key else s).endTask w frame))))
    if w_ then waiting s
    else if w.slot = 0 then
      s.inlineFrame w (fun frame s => if frame.isSome then helper s else waiting s)
    else helper s)

/-- R415. -/
def execJr (a : Nat) (s : State) : Host.Outcome State Fault Refusal :=
  run (.jr a) s (fun w s => s.aligned w (s.g w a) (.done (s.setPc w (s.g w a))))

def Ctx.loop (c : Ctx) (n : Nat) : Loop := if n = 0 then c.lc0 else c.lc1

/-- R417: the loop closes, an outer loop with its inner one, and the PC goes to its end. -/
def execLbrk (n : Nat) (s : State) : Host.Outcome State Fault Refusal :=
  run (.lbrk n) s (fun w s =>
    let c := s.ctx w
    if !(c.loop n).active then .done (s.trapSync w cIllegalOperand (BitVec.ofNat 64 n))
    else
      let shut := fun (l : Loop) => { l with active := false, count := 0 }
      .done (s.modCtx w (fun c =>
        { c with lc0 := if n = 0 then shut c.lc0 else c.lc0, lc1 := shut c.lc1, pc := (c.loop n).last })))

/-- An address as a loop register holds it: bits [56:3] (R72). -/
def loopAddr (a : Word) : Word := a &&& 0x1FFFFFFFFFFFFF8

/-- R52, R72, R423. -/
def execLoop (n c : Nat) (off : Int) (s : State) : Host.Outcome State Fault Refusal :=
  let i := Instr.loop n c off
  run i s (fun w s =>
    let x := s.ctx w
    let count := s.g w c
    let last := s.target w off
    let next := s.nextPc w i
    let bad := fun (v : Word) => Effect.done (s.trapSync w cIllegalOperand v)
    if 0xFFFFFFFF#64 < count then bad count
    else if last ≤ next then bad last
    else if n = 0 ∧ x.lc1.active then bad 0
    else if n = 1 ∧ x.lc0.active ∧ x.lc0.last < last then bad last
    else if (x.loop n).active then bad (BitVec.ofNat 64 n)
    else if count = 0 then .done (s.setPc w last)
    else
      let l : Loop := { count := (count - 1).setWidth 32, active := true, first := loopAddr next, last := loopAddr last }
      .done ((s.modCtx w (fun x => if n = 0 then { x with lc0 := l } else { x with lc1 := l })).advance w i))

/-- R432. -/
def execNop (s : State) : Host.Outcome State Fault Refusal := run .nop s (fun w s => .done (s.advance w .nop))

/-- R433. -/
def execQclr (q : Nat) (s : State) : Host.Outcome State Fault Refusal :=
  run (.qclr q) s (fun w s => .done ((s.setGuard w q .pending).advance w (.qclr q)))

/-- R433. -/
def execQset (q a : Nat) (s : State) : Host.Outcome State Fault Refusal :=
  run (.qset q a) s (fun w s => .done ((s.setGuard w q (if s.g w a = 0 then .no else .yes)).advance w (.qset q a)))

/-- R58, R442. -/
def execRet (s : State) : Host.Outcome State Fault Refusal :=
  run .ret s (fun w s =>
    let link := s.g w 31
    if s.shadowEmpty w then .done (s.trapSync w cControlIntegrity (0x8000000000000000 ||| (s.ctx w).trap.ssp))
    else s.topShadow w (fun top s =>
      if top.getLsbD 0 then .done (s.trapSync w cControlIntegrity (0xC000000000000000 ||| top))
      else if top ≠ link then .done (s.trapSync w cControlIntegrity top)
      else s.aligned w link (.done ((s.modTrap w (fun t => { t with ssp := t.ssp - 8 })).setPc w link))))

/-- R501: each pipe passes the context over once. -/
def execYield (s : State) : Host.Outcome State Fault Refusal :=
  run .yield s (fun w s => .done ((s.modHold w (fun h => { h with yields := 7 })).advance w .yield))

end Sys2Proof.Machine
end

