-- ==== Sys2Proof/Machine/Integer.lean ====
section
/-! DEFINITION. The integer forms of class 0x080. Every source is read at issue; nothing but decode raises an exception. -/

namespace Sys2Proof.Machine

/-- The result of an integer form in a `g` register, with result distance `dist` (R44). -/
def resultG (i : Instr) (s : State) (dist d : Nat) (f : (Nat → Word) → Word) : Host.Outcome State Fault Refusal :=
  runResult i s dist (fun w s => (.g d (f (s.g w)), 0))

/-- Leading zero bits (R383). -/
def leadingZeros (x : Word) : Nat := if x = 0 then 64 else 63 - Nat.log2 x.toNat

/-- One bits among the low `n` (R425). -/
def onesBelow (x : Nat) : Nat → Nat
  | 0 => 0
  | n + 1 => (if x.testBit n then 1 else 0) + onesBelow x n

/-- Signed division, rounded towards zero, wrapping; all ones by zero (R391). -/
def divSigned (a b : Word) : Word := if b = 0 then allOnes else BitVec.ofInt 64 (Int.tdiv a.toInt b.toInt)
/-- Unsigned division; all ones by zero (R391). -/
def divUnsigned (a b : Word) : Word := if b = 0 then allOnes else a / b
/-- Signed remainder, with the dividend's sign; the dividend by zero (R441). -/
def remSigned (a b : Word) : Word := if b = 0 then a else BitVec.ofInt 64 (Int.tmod a.toInt b.toInt)
/-- Unsigned remainder; the dividend by zero (R441). -/
def remUnsigned (a b : Word) : Word := if b = 0 then a else a % b
/-- Rotation to the right (R444). -/
def rotate (a : Word) (n : Nat) : Word := (a >>> n) ||| (a <<< (64 - n))
/-- The mask of a bit field (R369). -/
def fieldMask (pos w : Nat) : Word := ((1 <<< w) - 1) <<< pos
/-- The shift count of a register form (R444). -/
def shiftCount (b : Word) : Nat := b.toNat % 64
def u16 (imm : Nat) : Word := BitVec.ofNat 64 imm

/-- R346. -/
def execAdd (d a b : Nat) (s : State) : Host.Outcome State Fault Refusal :=
  resultG (.add d a b) s 1 d (fun g => g a + g b)

/-- R346. -/
def execAddi (d a : Nat) (imm : Int) (s : State) : Host.Outcome State Fault Refusal :=
  resultG (.addi d a imm) s 1 d (fun g => g a + BitVec.ofInt 64 imm)

/-- R346. -/
def execAnd (d a b : Nat) (s : State) : Host.Outcome State Fault Refusal :=
  resultG (.and d a b) s 1 d (fun g => g a &&& g b)

/-- R346. -/
def execAndi (d a imm : Nat) (s : State) : Host.Outcome State Fault Refusal :=
  resultG (.andi d a imm) s 1 d (fun g => g a &&& u16 imm)

/-- R369. -/
def execBext (d a pos w : Nat) (s : State) : Host.Outcome State Fault Refusal :=
  resultG (.bext d a pos w) s 1 d (fun g => (g a >>> pos) &&& fieldMask 0 w)

/-- R369. -/
def execBins (d a pos w : Nat) (s : State) : Host.Outcome State Fault Refusal :=
  resultG (.bins d a pos w) s 1 d (fun g => (g d &&& ~~~fieldMask pos w) ||| ((g a <<< pos) &&& fieldMask pos w))

/-- R383. -/
def execClz (d a : Nat) (s : State) : Host.Outcome State Fault Refusal :=
  resultG (.clz d a) s 1 d (fun g => BitVec.ofNat 64 (leadingZeros (g a)))

/-- R383. -/
def execCmp (cc : IntCond) (d a b : Nat) (s : State) : Host.Outcome State Fault Refusal :=
  resultG (.cmp cc d a b) s 1 d (fun g => if intHolds cc (g a) (g b) then 1 else 0)

/-- R391. -/
def execDiv (d a b : Nat) (s : State) : Host.Outcome State Fault Refusal :=
  resultG (.div d a b) s 1 d (fun g => divSigned (g a) (g b))

/-- R391. -/
def execDivu (d a b : Nat) (s : State) : Host.Outcome State Fault Refusal :=
  resultG (.divu d a b) s 1 d (fun g => divUnsigned (g a) (g b))

/-- R422. -/
def execLea (d a : Nat) (imm : Int) (s : State) : Host.Outcome State Fault Refusal :=
  resultG (.lea d a imm) s 1 d (fun g => g a + BitVec.ofInt 64 imm)

/-- R422: the PC is that of the instruction itself. -/
def execLeaPc (d : Nat) (imm : Int) (s : State) : Host.Outcome State Fault Refusal :=
  runResult (.leaPc d imm) s 1 (fun w s => (.g d ((s.ctx w).pc + BitVec.ofInt 64 imm), 0))

/-- R422. -/
def execLi (d : Nat) (imm : Int) (s : State) : Host.Outcome State Fault Refusal :=
  resultG (.li d imm) s 1 d (fun g => BitVec.ofInt 64 imm)

/-- R422. -/
def execLi64 (d imm : Nat) (s : State) : Host.Outcome State Fault Refusal :=
  resultG (.li64 d imm) s 1 d (fun g => BitVec.ofNat 64 imm)

/-- R425. -/
def execMadd (d a b c : Nat) (s : State) : Host.Outcome State Fault Refusal :=
  resultG (.madd d a b c) s 3 d (fun g => g a * g b + g c)

/-- R425. -/
def execMax (d a b : Nat) (s : State) : Host.Outcome State Fault Refusal :=
  resultG (.max d a b) s 1 d (fun g => if (g b).sle (g a) then g a else g b)

/-- R425. -/
def execMaxu (d a b : Nat) (s : State) : Host.Outcome State Fault Refusal :=
  resultG (.maxu d a b) s 1 d (fun g => if (g b).ule (g a) then g a else g b)

/-- R425. -/
def execMin (d a b : Nat) (s : State) : Host.Outcome State Fault Refusal :=
  resultG (.min d a b) s 1 d (fun g => if (g a).sle (g b) then g a else g b)

/-- R425. -/
def execMinu (d a b : Nat) (s : State) : Host.Outcome State Fault Refusal :=
  resultG (.minu d a b) s 1 d (fun g => if (g a).ule (g b) then g a else g b)

/-- R425. -/
def execMul (d a b : Nat) (s : State) : Host.Outcome State Fault Refusal :=
  resultG (.mul d a b) s 3 d (fun g => g a * g b)

/-- R425. -/
def execMulh (d a b : Nat) (s : State) : Host.Outcome State Fault Refusal :=
  resultG (.mulh d a b) s 3 d (fun g => BitVec.ofInt 64 ((g a).toInt * (g b).toInt / 2 ^ 64))

/-- R425. -/
def execMulhu (d a b : Nat) (s : State) : Host.Outcome State Fault Refusal :=
  resultG (.mulhu d a b) s 3 d (fun g => BitVec.ofNat 64 ((g a).toNat * (g b).toNat / 2 ^ 64))

/-- R425. -/
def execOr (d a b : Nat) (s : State) : Host.Outcome State Fault Refusal :=
  resultG (.or d a b) s 1 d (fun g => g a ||| g b)

/-- R425. -/
def execOri (d a imm : Nat) (s : State) : Host.Outcome State Fault Refusal :=
  resultG (.ori d a imm) s 1 d (fun g => g a ||| u16 imm)

/-- R425. -/
def execPopc (d a : Nat) (s : State) : Host.Outcome State Fault Refusal :=
  resultG (.popc d a) s 1 d (fun g => BitVec.ofNat 64 (onesBelow (g a).toNat 64))

/-- R441. -/
def execRem (d a b : Nat) (s : State) : Host.Outcome State Fault Refusal :=
  resultG (.rem d a b) s 1 d (fun g => remSigned (g a) (g b))

/-- R441. -/
def execRemu (d a b : Nat) (s : State) : Host.Outcome State Fault Refusal :=
  resultG (.remu d a b) s 1 d (fun g => remUnsigned (g a) (g b))

/-- R444. -/
def execRot (d a b : Nat) (s : State) : Host.Outcome State Fault Refusal :=
  resultG (.rot d a b) s 1 d (fun g => rotate (g a) (shiftCount (g b)))

/-- R444. -/
def execSel (d a b c : Nat) (s : State) : Host.Outcome State Fault Refusal :=
  resultG (.sel d a b c) s 1 d (fun g => if g c ≠ 0 then g a else g b)

/-- R444. -/
def execShl (d a b : Nat) (s : State) : Host.Outcome State Fault Refusal :=
  resultG (.shl d a b) s 1 d (fun g => g a <<< shiftCount (g b))

/-- R444. -/
def execShlImm (d a n : Nat) (s : State) : Host.Outcome State Fault Refusal :=
  resultG (.shlImm d a n) s 1 d (fun g => g a <<< n)

/-- R444. -/
def execShr (d a b : Nat) (s : State) : Host.Outcome State Fault Refusal :=
  resultG (.shr d a b) s 1 d (fun g => g a >>> shiftCount (g b))

/-- R444. -/
def execShrImm (d a n : Nat) (s : State) : Host.Outcome State Fault Refusal :=
  resultG (.shrImm d a n) s 1 d (fun g => g a >>> n)

/-- R444. -/
def execSra (d a b : Nat) (s : State) : Host.Outcome State Fault Refusal :=
  resultG (.sra d a b) s 1 d (fun g => (g a).sshiftRight (shiftCount (g b)))

/-- R444. -/
def execSraImm (d a n : Nat) (s : State) : Host.Outcome State Fault Refusal :=
  resultG (.sraImm d a n) s 1 d (fun g => (g a).sshiftRight n)

/-- R444. -/
def execSub (d a b : Nat) (s : State) : Host.Outcome State Fault Refusal :=
  resultG (.sub d a b) s 1 d (fun g => g a - g b)

/-- R500. -/
def execXor (d a b : Nat) (s : State) : Host.Outcome State Fault Refusal :=
  resultG (.xor d a b) s 1 d (fun g => g a ^^^ g b)

/-- R500. -/
def execXori (d a imm : Nat) (s : State) : Host.Outcome State Fault Refusal :=
  resultG (.xori d a imm) s 1 d (fun g => g a ^^^ u16 imm)

end Sys2Proof.Machine
end

