-- ==== Sys2Proof/Machine/ScalarFP.lean ====
section
/-! DEFINITION. The scalar FP forms of class 0x080 (R112, R395). Each result is a pure function of the registers, which
`redo` evaluates again. All have distance 4 (R44, R396). -/

namespace Sys2Proof.Machine

/-- The low bits of a register as an FP32 code (R112). -/
def f32Of (x : Word) : Nat := x.toNat % 2 ^ 32

/-- A result of the scalar unit in format `f` (R112). -/
def scalarOut (f : Fp) (d : Nat) (r : Rounded) : FpOut :=
  { write := .g d (BitVec.ofNat 64 r.1), flags := r.2, fmt := f, units := [(0, 0)] }

/-- R395. -/
def faddOut (rm : Rounding) (d a b : Nat) (g : Nat → Word) : FpOut := scalarOut .f32 d (fpAdd .f32 rm (f32Of (g a)) (f32Of (g b)))
/-- R395. -/
def fsubOut (rm : Rounding) (d a b : Nat) (g : Nat → Word) : FpOut := scalarOut .f32 d (fpSub .f32 rm (f32Of (g a)) (f32Of (g b)))
/-- R395. -/
def fmulOut (rm : Rounding) (d a b : Nat) (g : Nat → Word) : FpOut := scalarOut .f32 d (fpMul .f32 rm (f32Of (g a)) (f32Of (g b)))
/-- R395. -/
def ffmaOut (rm : Rounding) (d a b c : Nat) (g : Nat → Word) : FpOut :=
  scalarOut .f32 d (fpFma .f32 rm (f32Of (g a)) (f32Of (g b)) (f32Of (g c)))
/-- R119, R395. -/
def fselOut (wantMax : Bool) (d a b : Nat) (g : Nat → Word) : FpOut :=
  scalarOut .f32 d (fpSelect .f32 wantMax (f32Of (g a)) (f32Of (g b)))
/-- R119, R395: 1 or 0, which no shadow checks. -/
def fcmpOut (fc : FpCond) (d a b : Nat) (g : Nat → Word) : FpOut :=
  let r := fpCond fc (Fp.f32.value (f32Of (g a))) (Fp.f32.value (f32Of (g b)))
  { scalarOut .f32 d (if r.1 then 1 else 0, r.2) with checked := false }

end Sys2Proof.Machine

namespace Sys2Proof

/-- The element type of a `fcvt` type code (R394). -/
def FcvtType.elem : FcvtType → ElemType
  | .f32 => .f32
  | .f16 => .f16
  | .bf16 => .bf16
  | .i32 => .i32

end Sys2Proof

namespace Sys2Proof.Machine

/-- R112, R120, R121, R395. -/
def fcvtOut (dst src : FcvtType) (rm : Rounding) (d a : Nat) (g : Nat → Word) : FpOut :=
  let r := convertTo dst.elem rm false (src.elem.val ((g a).toNat % 2 ^ src.elem.bits))
  match dst.elem.fp with
  | some f => scalarOut f d r
  | none =>
    { scalarOut .f32 d r with write := .g d (BitVec.ofInt 64 (signOf 32 r.1)), checked := false }

/-- A scalar FP form runs. -/
def runFp (i : Instr) (s : State) (out : (Nat → Word) → FpOut) : Host.Outcome State Fault Refusal :=
  run i s (fun w s => .done (s.finishFp w i 4 (out (s.g w)) []))

/-- R395. -/
def execFadd (rm : Rounding) (d a b : Nat) (s : State) : Host.Outcome State Fault Refusal :=
  runFp (.fadd rm d a b) s (faddOut rm d a b)

/-- R395. -/
def execFcmp (fc : FpCond) (d a b : Nat) (s : State) : Host.Outcome State Fault Refusal :=
  runFp (.fcmp fc d a b) s (fcmpOut fc d a b)

/-- R395. -/
def execFcvt (dst src : FcvtType) (rm : Rounding) (d a : Nat) (s : State) : Host.Outcome State Fault Refusal :=
  runFp (.fcvt dst src rm d a) s (fcvtOut dst src rm d a)

/-- R395. -/
def execFfma (rm : Rounding) (d a b c : Nat) (s : State) : Host.Outcome State Fault Refusal :=
  runFp (.ffma rm d a b c) s (ffmaOut rm d a b c)

/-- R395. -/
def execFmax (d a b : Nat) (s : State) : Host.Outcome State Fault Refusal :=
  runFp (.fmax d a b) s (fselOut true d a b)

/-- R395. -/
def execFmin (d a b : Nat) (s : State) : Host.Outcome State Fault Refusal :=
  runFp (.fmin d a b) s (fselOut false d a b)

/-- R395. -/
def execFmul (rm : Rounding) (d a b : Nat) (s : State) : Host.Outcome State Fault Refusal :=
  runFp (.fmul rm d a b) s (fmulOut rm d a b)

/-- R395. -/
def execFsub (rm : Rounding) (d a b : Nat) (s : State) : Host.Outcome State Fault Refusal :=
  runFp (.fsub rm d a b) s (fsubOut rm d a b)

end Sys2Proof.Machine
end

