-- ==== Sys2Proof/Machine/Vector.lean ====
section
/-! DEFINITION. The vector forms of class 0x180 (R474 to R496). The result of an arithmetic form is a pure function of
the registers. -/

namespace Sys2Proof.Machine

/-! ## Results -/

/-- What an arithmetic form computes: an integer result, or one with flags and shadows. -/
inductive VecOut where
  | int (x : RegWrite)
  | fp (o : FpOut)

/-- The part of a result that shadows check. -/
def VecOut.out : VecOut → Option FpOut
  | .int _ => none
  | .fp o => some o

/-- FP elements in the lanes that hold them, each checked by its lane (R476). -/
def laneOut (f : Fp) (d : Nat) (rs : List Rounded) : FpOut :=
  let (codes, fl) := gather rs
  { write := .v d (packElems f.width codes), flags := fl, fmt := f
    units := (upTo (codes.length * f.width / 32)).map (fun k => (k + 1, k)) }

/-- Elements of a result type without a shadow. -/
def plainOut (w d : Nat) (rs : List Rounded) : FpOut :=
  let (codes, fl) := gather rs
  { write := .v d (packElems w codes), flags := fl, fmt := .f32
    units := (upTo (codes.length * w / 32)).map (fun k => (k + 1, k)), checked := false }

/-- Elements of a type: FP ones have shadows, integer ones none (R321). -/
def elemsOut (t : ElemType) (d : Nat) (rs : List Rounded) : FpOut :=
  match t.fp with
  | some f => laneOut f d rs
  | none => plainOut t.bits d rs

/-- A whole-view form of one operand (R474). -/
def whole1 (t : ElemType) (d : Nat) (x : VWord) (fi : Nat → Nat) (ff : Fp → Nat → Rounded) : VecOut :=
  let es := elems t.bits (viewSize t.bits) x
  match t.fp with
  | some f => .fp (laneOut f d (es.map (ff f)))
  | none => .int (.v d (packElems t.bits (es.map fi)))

/-- A whole-view form of two operands. -/
def whole2 (t : ElemType) (d : Nat) (x y : VWord) (fi : Nat → Nat → Nat) (ff : Fp → Nat → Nat → Rounded) : VecOut :=
  let n := viewSize t.bits
  let xs := elems t.bits n x
  let ys := elems t.bits n y
  match t.fp with
  | some f => .fp (laneOut f d (List.zipWith (ff f) xs ys))
  | none => .int (.v d (packElems t.bits (List.zipWith fi xs ys)))

/-- An integer element as a number (R111). -/
def elemInt (t : ElemType) (x : Nat) : Int := if t.isSigned then signOf t.bits x else (x : Int)

/-! ## The forms that a redo can execute again -/

/-- R477. -/
def absElem (f : Fp) (x : Nat) : Rounded :=
  let v := f.value x
  if v.isNan then (f.nanCode, nvIf v.isSnan) else (x % 2 ^ (f.width - 1), 0)

/-- R477. -/
def negElem (f : Fp) (x : Nat) : Rounded :=
  let v := f.value x
  if v.isNan then (f.nanCode, nvIf v.isSnan) else (x ^^^ 2 ^ (f.width - 1), 0)

/-- R477. -/
def vabsOut (t : ElemType) (d a : Nat) (v : Nat → VWord) : VecOut :=
  whole1 t d (v a) (fun x => wrapTo t.bits (signOf t.bits x).natAbs) absElem

/-- R477. -/
def vnegOut (t : ElemType) (d a : Nat) (v : Nat → VWord) : VecOut :=
  whole1 t d (v a) (fun x => wrapTo t.bits (-signOf t.bits x)) negElem

/-- R478. -/
def vaddOut (t : ElemType) (rm : Rounding) (d a b : Nat) (v : Nat → VWord) : VecOut :=
  whole2 t d (v a) (v b) (fun x y => (x + y) % 2 ^ t.bits) (fun f => fpAdd f rm)

/-- R478. -/
def vsubOut (t : ElemType) (rm : Rounding) (d a b : Nat) (v : Nat → VWord) : VecOut :=
  whole2 t d (v a) (v b) (fun x y => (x + 2 ^ t.bits - y) % 2 ^ t.bits) (fun f => fpSub f rm)

/-- R478. -/
def vmulOut (t : ElemType) (rm : Rounding) (d a b : Nat) (v : Nat → VWord) : VecOut :=
  whole2 t d (v a) (v b) (fun x y => x * y % 2 ^ t.bits) (fun f => fpMul f rm)

/-- The smaller or the larger of two integer elements (R483). -/
def intSelect (t : ElemType) (wantMax : Bool) (x y : Nat) : Nat :=
  if wantMax then (if elemInt t x < elemInt t y then y else x) else (if elemInt t y < elemInt t x then y else x)

/-- R119, R483. -/
def vselectOut (wantMax : Bool) (t : ElemType) (d a b : Nat) (v : Nat → VWord) : VecOut :=
  whole2 t d (v a) (v b) (intSelect t wantMax) (fun f => fpSelect f wantMax)

/-- R483: the larger of `va` and `vb`, then the smaller of that and `vc`. -/
def vclampOut (t : ElemType) (d a b c : Nat) (v : Nat → VWord) : VecOut :=
  let n := viewSize t.bits
  let zip3 := (elems t.bits n (v a)).zip ((elems t.bits n (v b)).zip (elems t.bits n (v c)))
  match t.fp with
  | some f => .fp (laneOut f d (zip3.map (fun p =>
      let m := fpSelect f true p.1 p.2.1
      let r := fpSelect f false m.1 p.2.2
      (r.1, r.2 ||| m.2))))
  | none => .int (.v d (packElems t.bits (zip3.map (fun p => intSelect t false (intSelect t true p.1 p.2.1) p.2.2))))

/-- R487. -/
def vfmaOut (t : ElemType) (rm : Rounding) (d a b c : Nat) (v : Nat → VWord) : FpOut :=
  let f := (t.fp).getD .f32
  let n := viewSize f.width
  let zip3 := (elems f.width n (v a)).zip ((elems f.width n (v b)).zip (elems f.width n (v c)))
  laneOut f d (zip3.map (fun p => fpFma f rm p.1 p.2.1 p.2.2))

/-- R121: an integer saturates to another integer type without a flag. -/
def saturate (t : ElemType) (x : Int) : Nat :=
  let (lo, hi) := t.range
  wrapTo t.bits (if x < lo then lo else if hi < x then hi else x)

/-- R485: elements 0 to 63. -/
def vcvtOut (dst : ElemType) (nsat : Bool) (rm : Rounding) (src : ElemType) (d a : Nat) (v : Nat → VWord) : FpOut :=
  elemsOut dst d ((elems src.bits 64 (v a)).map (fun x =>
    if src.fp.isNone && dst.fp.isNone then (saturate dst (elemInt src x), 0)
    else convertTo dst rm nsat (src.val x)))

/-- R131, R486: the exact sum of `n` products, rounded once to FP32. -/
def vdotOut (t : ElemType) (rm : Rounding) (d a b n : Nat) (v : Nat → VWord) : FpOut :=
  let f := (t.fp).getD .f32
  let products := List.zipWith (fun x y => mulExact (f.value x) (f.value y)) (elems f.width n (v a)) (elems f.width n (v b))
  let sum := sumExact rm (products.map (·.1))
  let r := roundVal .f32 rm sum.1 (sum.2 || products.any (·.2))
  { write := .g d (BitVec.ofNat 64 r.1), flags := r.2, fmt := .f32, units := [(1, 0)] }

/-- One combination of a reduction or scan (R132, R133, R494). -/
def redStep (op : RedOp) (t : RedType) (x y : Rounded) : Rounded :=
  let r : Rounded := match t, op with
    | .f32, .add => fpAdd .f32 .rne x.1 y.1
    | .f32, .min => fpSelect .f32 false x.1 y.1
    | .f32, .max => fpSelect .f32 true x.1 y.1
    | .i32, .add => ((x.1 + y.1) % 2 ^ 32, 0)
    | .i32, .min => (intSelect .i32 false x.1 y.1, 0)
    | .i32, .max => (intSelect .i32 true x.1 y.1, 0)
    | .u32, .add => ((x.1 + y.1) % 2 ^ 32, 0)
    | .u32, .min => (intSelect .u32 false x.1 y.1, 0)
    | .u32, .max => (intSelect .u32 true x.1 y.1, 0)
  (r.1, r.2 ||| x.2 ||| y.2)

/-- One level of the tree: neighbouring pairs (R132). -/
def treeLevel (op : RedOp) (t : RedType) : List Rounded → List Rounded
  | x :: y :: l => redStep op t x y :: treeLevel op t l
  | l => l

/-- R132, R494. -/
def vredOut (op : RedOp) (t : RedType) (d a : Nat) (v : Nat → VWord) : FpOut :=
  let leaves : List Rounded := (elems 32 64 (v a)).map (fun x => (x, 0))
  let level := treeLevel op t
  let r := ((level (level (level (level (level (level leaves)))))).head?).getD (0, 0)
  { write := .g d (if t = .i32 then BitVec.ofInt 64 (signOf 32 r.1) else BitVec.ofNat 64 r.1)
    flags := r.2, fmt := .f32, units := if t = .f32 then [(1, 0)] else [], checked := decide (t = .f32) }

/-- The serial order of R133, from lane 0 up, with the flags of each step. -/
def scanFrom (op : RedOp) (t : RedType) (prev : Nat) : List Nat → List Rounded
  | [] => []
  | x :: l =>
    let r := redStep op t (prev, 0) (x, 0)
    r :: scanFrom op t r.1 l

/-- R133, R494: lane 0 is copied. -/
def vscanOut (op : RedOp) (t : RedType) (d a : Nat) (v : Nat → VWord) : FpOut :=
  let rs : List Rounded := match elems 32 64 (v a) with
    | [] => []
    | x :: l => (x, 0) :: scanFrom op t x l
  if t = .f32 then laneOut .f32 d rs else plainOut 32 d rs

/-- The condition of a `vcmp` on two elements (R484). -/
def laneCond (t : ElemType) (cc : LaneCond) (x y : Nat) : Bool × FpFlags :=
  match cc with
  | .fp c =>
    let f := (t.fp).getD .f32
    fpCond c (f.value x) (f.value y)
  | .int c =>
    let ext := fun (e : Nat) => match c with
      | .ltu | .geu | .gtu | .leu => BitVec.ofNat 64 e
      | _ => BitVec.ofInt 64 (signOf t.bits e)
    (intHolds c (ext x) (ext y), 0)

/-- The word whose bits are listed, bit 0 first. -/
def maskOf : List Bool → Nat
  | [] => 0
  | b :: l => (if b then 1 else 0) + 2 * maskOf l

/-- R484. -/
def vcmpOut (t : ElemType) (cc : LaneCond) (d a b : Nat) (v : Nat → VWord) : VecOut :=
  let rs := List.zipWith (laneCond t cc) (elems t.bits 64 (v a)) (elems t.bits 64 (v b))
  let x : RegWrite := .p d (BitVec.ofNat 64 (maskOf (rs.map (·.1))))
  match t.fp with
  | some f => .fp { write := x, flags := rs.foldl (fun fl r => fl ||| r.2) 0, fmt := f
                    units := (upTo (64 * f.width / 32)).map (fun k => (k + 1, k)), checked := false }
  | none => .int x

/-- The blocks of a narrow type among elements 0 to 63 (R480). -/
def blocks (t : ElemType) : Nat := if t.bits = 4 then 8 else 2

/-- The scale of element `e`, in the scales that start at index `base` (R480). -/
def scaleOf (t : ElemType) (words : List Nat) (base e : Nat) : Val :=
  scaleValue (scaleAt words (base + e / (64 / blocks t)))

/-- A quotient by a scale, converted (R123, R481). -/
def divideBy (t : ElemType) (rm : Rounding) (nsat : Bool) (x : Val) (scale : Val) : Rounded :=
  match scale with
  | .fin _ (m + 1) e => convertTo t rm nsat x (m + 1) e
  | _ => ((match t with
    | .e4m3 => Fp.e4m3.nanCode
    | .e5m2 => Fp.e5m2.nanCode
    | _ => 0), fNV)

/-- R481. -/
def vdqntOut (t : ElemType) (d a : Nat) (v : Nat → VWord) (scales : List Nat) : FpOut :=
  laneOut .f32 d ((upTo 64).map (fun e =>
    let p := mulExact (t.val (elemAt t.bits (v a) e)) (scaleOf t scales 0 e)
    roundVal .f32 .rne p.1 p.2))

/-- R481. -/
def vqntOut (t : ElemType) (nsat : Bool) (rm : Rounding) (d a : Nat) (v : Nat → VWord) (scales : List Nat) : FpOut :=
  elemsOut t d ((upTo 64).map (fun e =>
    divideBy t rm nsat (Fp.f32.value (lane (v a) e)) (scaleOf t scales 0 e)))

/-- R481: the numerator is exact. -/
def vbaqOut (t : ElemType) (nsat : Bool) (rm : Rounding) (d a b : Nat) (v : Nat → VWord) (scales : List Nat) : FpOut :=
  let nb := blocks t
  elemsOut t d ((upTo 64).map (fun e =>
    let x := mulExact (t.val (elemAt t.bits (v a) e)) (scaleOf t scales 0 e)
    let y := mulExact (t.val (elemAt t.bits (v b) e)) (scaleOf t scales nb e)
    let sum := addExact rm x.1 y.1
    let r := divideBy t rm nsat sum.1 (scaleOf t scales (2 * nb) e)
    (r.1, r.2 ||| nvIf (x.2 || y.2 || sum.2))))

/-! ## Running the forms -/

/-- The result of an arithmetic form (R44, R476): an integer one after `di`, an FP one after `df` instructions. -/
def State.finishVec (s : State) (w : Who) (i : Instr) (di df : Nat) (o : VecOut) : State :=
  match o with
  | .int x => (s.result w di x).advance w i
  | .fp o => s.finishFp w i df o []

def runVec (i : Instr) (s : State) (out : (Nat → VWord) → VecOut) : Host.Outcome State Fault Refusal :=
  run i s (fun w s => .done (s.finishVec w i 2 4 (out (s.v w))))

/-- A form of distance 4 whatever its type. -/
def runVec4 (i : Instr) (s : State) (out : (Nat → VWord) → FpOut) : Host.Outcome State Fault Refusal :=
  run i s (fun w s => .done (s.finishFp w i 4 (out (s.v w)) []))

/-- A form that moves bits: distance `d`, no flag, no shadow (R479, R482). -/
def runMove (i : Instr) (s : State) (d : Nat) (out : Who → State → RegWrite) : Host.Outcome State Fault Refusal :=
  runResult i s d (fun w s => (out w s, 0))

/-- Read the words of a scale array, lowest address first (R480). -/
def State.readScales (s : State) (w : Who) (base : Word) : Nat → List Nat → (List Nat → State → Effect) → Effect
  | 0, acc, k => k acc s
  | n + 1, acc, k =>
    s.loadDirect w (base + BitVec.ofNat 64 (8 * acc.length)) 8 (fun x s => s.readScales w base n (acc ++ [x]) k)

/-- A scaled form: its scale words are read, then its result follows at distance 4 (R476). -/
def runScaled (i : Instr) (s : State) (r nscales : Nat) (out : (Nat → VWord) → List Nat → FpOut) :
    Host.Outcome State Fault Refusal :=
  run i s (fun w s =>
    s.readScales w (s.g w r) (scaleWords nscales) [] (fun ws s => .done (s.finishFp w i 4 (out (s.v w) ws) ws)))

/-- R477. -/
def execVabs (t : ElemType) (d a : Nat) (s : State) : Host.Outcome State Fault Refusal :=
  runVec (.vabs t d a) s (vabsOut t d a)

/-- R478. -/
def execVadd (t : ElemType) (rm : Rounding) (d a b : Nat) (s : State) : Host.Outcome State Fault Refusal :=
  runVec (.vadd t rm d a b) s (vaddOut t rm d a b)

/-- R479. -/
def execVand (d a b : Nat) (s : State) : Host.Outcome State Fault Refusal :=
  runMove (.vand d a b) s 2 (fun w s => .v d (s.v w a &&& s.v w b))

/-- R480, R481. -/
def execVbaq (t : ElemType) (nsat : Bool) (rm : Rounding) (d a b c : Nat) (s : State) : Host.Outcome State Fault Refusal :=
  runScaled (.vbaq t nsat rm d a b c) s c (3 * blocks t) (vbaqOut t nsat rm d a b)

/-- R482. -/
def execVbc (t : ElemType) (d a : Nat) (s : State) : Host.Outcome State Fault Refusal :=
  runMove (.vbc t d a) s 3 (fun w s =>
    .v d (packElems t.bits (List.replicate (viewSize t.bits) ((s.g w a).toNat % 2 ^ t.bits))))

/-- R483. -/
def execVclamp (t : ElemType) (d a b c : Nat) (s : State) : Host.Outcome State Fault Refusal :=
  runVec (.vclamp t d a b c) s (vclampOut t d a b c)

/-- R484: distance 2 for every type (R476). -/
def execVcmp (t : ElemType) (cc : LaneCond) (d a b : Nat) (s : State) : Host.Outcome State Fault Refusal :=
  let i := Instr.vcmp t cc d a b
  run i s (fun w s => .done (s.finishVec w i 2 2 (vcmpOut t cc d a b (s.v w))))

/-- R485. -/
def execVcvt (dst : ElemType) (nsat : Bool) (rm : Rounding) (src : ElemType) (d a : Nat) (s : State) :
    Host.Outcome State Fault Refusal :=
  runVec4 (.vcvt dst nsat rm src d a) s (vcvtOut dst nsat rm src d a)

/-- R486. -/
def execVdot (t : ElemType) (rm : Rounding) (d a b n : Nat) (s : State) : Host.Outcome State Fault Refusal :=
  runVec4 (.vdot t rm d a b n) s (vdotOut t rm d a b n)

/-- R480, R481. -/
def execVdqnt (t : ElemType) (d a b : Nat) (s : State) : Host.Outcome State Fault Refusal :=
  runScaled (.vdqnt t d a b) s b (blocks t) (vdqntOut t d a)

/-- R482. -/
def execVext (d a ln : Nat) (s : State) : Host.Outcome State Fault Refusal :=
  runMove (.vext d a ln) s 3 (fun w s => .g d (BitVec.ofNat 64 (lane (s.v w a) ln)))

/-- R487. -/
def execVfma (t : ElemType) (rm : Rounding) (d a b c : Nat) (s : State) : Host.Outcome State Fault Refusal :=
  runVec4 (.vfma t rm d a b c) s (vfmaOut t rm d a b c)

/-- The address of a lane of `vgat` and `vsca` (R488). -/
def laneVa (base : Word) (offs : VWord) (k : Nat) : Word := base + BitVec.ofInt 64 (signOf 32 (lane offs k))

/-- Replace element `k` of width `bits` in a register (R111). -/
def putElem (bits : Nat) (x : VWord) (k e : Nat) : VWord :=
  x &&& ~~~BitVec.ofNat 2048 ((2 ^ bits - 1) * 2 ^ (bits * k)) ||| BitVec.ofNat 2048 (e % 2 ^ bits * 2 ^ (bits * k))

/-- The lanes of a gather from one on: each is written as it is read (R488). -/
def State.gatherLanes (w : Who) (i : Instr) (bits d : Nat) (base : Word) (offs : VWord) : List Nat → State → Effect
  | [], s =>
    let x := s.vIssued w d
    .done ((s.result w 1 (.v d (packElems bits (elems bits 64 x)))).advance w i)
  | k :: ks, s =>
    (s.loadDirect w (laneVa base offs k) (bits / 8) (fun e s =>
      State.gatherLanes w i bits d base offs ks (s.result w 1 (.v d (putElem bits (s.vIssued w d) k e)))) (some k)).keeping s w k

/-- R488, R489: restartable at its lane (R55). -/
def execVgat (t : ElemType) (d a b : Nat) (s : State) : Host.Outcome State Fault Refusal :=
  let i := Instr.vgat t d a b
  runFrom i s (fun w p s => State.gatherLanes w i t.bits d (s.g w a) (s.v w b) ((upTo 64).drop (p.getD 0)) s)

/-- R482: `vd` is a source too. -/
def execVins (d a ln : Nat) (s : State) : Host.Outcome State Fault Refusal :=
  runMove (.vins d a ln) s 3 (fun w s => .v d (putElem 32 (s.v w d) ln ((s.g w a).toNat % 2 ^ 32)))

/-- R490, R491. -/
def execVld (d a : Nat) (off : Int) (s : State) : Host.Outcome State Fault Refusal :=
  let i := Instr.vld d a off
  run i s (fun w s =>
    s.loadDirect w (s.offsetVa w a off) 256
      (fun x s => .done ((s.result w 1 (.v d (BitVec.ofNat 2048 x))).advance w i)))

/-- The lanes of a strided load, in order (R490). -/
def State.stridedLanes (w : Who) (n : Nat) (base stride : Word) : List Nat → List Nat → State → (List Nat → State → Effect) →
    Effect
  | [], acc, s, k => k acc s
  | j :: js, acc, s, k =>
    s.loadDirect w (base + BitVec.ofNat 64 j * stride) n (fun x s => State.stridedLanes w n base stride js (acc ++ [x]) s k)

/-- R490, R491: `vd` is written in one step. -/
def execVlds (t : ElemType) (d a b : Nat) (s : State) : Host.Outcome State Fault Refusal :=
  let i := Instr.vlds t d a b
  run i s (fun w s =>
    State.stridedLanes w (t.bits / 8) (s.g w a) (s.g w b) (upTo 64) [] s (fun xs s =>
      .done ((s.result w 1 (.v d (packElems t.bits xs))).advance w i)))

/-- R483. -/
def execVmax (t : ElemType) (d a b : Nat) (s : State) : Host.Outcome State Fault Refusal :=
  runVec (.vmax t d a b) s (vselectOut true t d a b)

/-- R483. -/
def execVmin (t : ElemType) (d a b : Nat) (s : State) : Host.Outcome State Fault Refusal :=
  runVec (.vmin t d a b) s (vselectOut false t d a b)

/-- R479. -/
def execVmov (d a : Nat) (s : State) : Host.Outcome State Fault Refusal :=
  runMove (.vmov d a) s 2 (fun w s => .v d (s.v w a))

/-- R478. -/
def execVmul (t : ElemType) (rm : Rounding) (d a b : Nat) (s : State) : Host.Outcome State Fault Refusal :=
  runVec (.vmul t rm d a b) s (vmulOut t rm d a b)

/-- R477. -/
def execVneg (t : ElemType) (d a : Nat) (s : State) : Host.Outcome State Fault Refusal :=
  runVec (.vneg t d a) s (vnegOut t d a)

/-- R479. -/
def execVor (d a b : Nat) (s : State) : Host.Outcome State Fault Refusal :=
  runMove (.vor d a b) s 2 (fun w s => .v d (s.v w a ||| s.v w b))

/-- R492. -/
def execVpcnt (d p : Nat) (s : State) : Host.Outcome State Fault Refusal :=
  runMove (.vpcnt d p) s 2 (fun w s => .g d (BitVec.ofNat 64 (onesBelow (s.p w p).toNat 64)))

/-- R493: higher index bits are ignored. -/
def execVperm (d a b : Nat) (s : State) : Host.Outcome State Fault Refusal :=
  runMove (.vperm d a b) s 3 (fun w s =>
    .v d (packElems 32 ((upTo 64).map (fun k => lane (s.v w a) (lane (s.v w b) k % 64)))))

/-- R492. -/
def execVpfirst (d p : Nat) (s : State) : Host.Outcome State Fault Refusal :=
  runMove (.vpfirst d p) s 2 (fun w s =>
    .g d (BitVec.ofNat 64 (((upTo 64).find? (fun k => (s.p w p).getLsbD k)).getD 64)))

/-- R480, R481. -/
def execVqnt (t : ElemType) (nsat : Bool) (rm : Rounding) (d a b : Nat) (s : State) : Host.Outcome State Fault Refusal :=
  runScaled (.vqnt t nsat rm d a b) s b (blocks t) (vqntOut t nsat rm d a)

/-- R494. -/
def execVred (op : RedOp) (t : RedType) (d a : Nat) (s : State) : Host.Outcome State Fault Refusal :=
  runVec4 (.vred op t d a) s (vredOut op t d a)

/-- R493. -/
def execVrot (d a n : Nat) (s : State) : Host.Outcome State Fault Refusal :=
  runMove (.vrot d a n) s 3 (fun w s => .v d (packElems 32 ((upTo 64).map (fun k => lane (s.v w a) ((k + n) % 64)))))

/-- The lanes of a scatter from one on, in ascending order (R488, R489). -/
def State.scatterLanes (w : Who) (i : Instr) (bits : Nat) (base : Word) (offs vals : VWord) : List Nat → State → Effect
  | [], s => .done (s.advance w i)
  | k :: ks, s =>
    (s.storeDirect w (laneVa base offs k) (natLE (bits / 8) (elemAt bits vals k))
      (fun s => State.scatterLanes w i bits base offs vals ks s) (some k)).keeping s w k

/-- R488, R489: restartable at its lane (R55). -/
def execVsca (t : ElemType) (a b c : Nat) (s : State) : Host.Outcome State Fault Refusal :=
  let i := Instr.vsca t a b c
  runFrom i s (fun w p s =>
    State.scatterLanes w i t.bits (s.g w a) (s.v w b) (s.v w c) ((upTo 64).drop (p.getD 0)) s)

/-- R494. -/
def execVscan (op : RedOp) (t : RedType) (d a : Nat) (s : State) : Host.Outcome State Fault Refusal :=
  runVec4 (.vscan op t d a) s (vscanOut op t d a)

/-- R495. -/
def execVsel (d a b p : Nat) (s : State) : Host.Outcome State Fault Refusal :=
  runMove (.vsel d a b p) s 2 (fun w s =>
    .v d (packElems 32 ((upTo 64).map (fun k => if (s.p w p).getLsbD k then lane (s.v w a) k else lane (s.v w b) k))))

/-- R496. -/
def execVshl (t : ElemType) (d a b : Nat) (s : State) : Host.Outcome State Fault Refusal :=
  runMove (.vshl t d a b) s 2 (fun w s =>
    let n := viewSize t.bits
    .v d (packElems t.bits (List.zipWith (fun x y => x * 2 ^ (y % t.bits) % 2 ^ t.bits)
      (elems t.bits n (s.v w a)) (elems t.bits n (s.v w b)))))

/-- R496. -/
def execVshr (t : ElemType) (d a b : Nat) (s : State) : Host.Outcome State Fault Refusal :=
  runMove (.vshr t d a b) s 2 (fun w s =>
    let n := viewSize t.bits
    .v d (packElems t.bits (List.zipWith (fun x y => wrapTo t.bits (elemInt t x / (2 : Int) ^ (y % t.bits)))
      (elems t.bits n (s.v w a)) (elems t.bits n (s.v w b)))))

/-- R490, R491: whole words or sectors, checked at issue and performed later. -/
def execVst (a : Nat) (off : Int) (b : Nat) (s : State) : Host.Outcome State Fault Refusal :=
  let i := Instr.vst a off b
  run i s (fun w s =>
    let va := s.offsetVa w a off
    if va.toNat % 256 ≠ 0 then .done (s.trapSync w cMisaligned va)
    else
      let bytes := natLE 256 (s.v w b).toNat
      s.reachVa w { write := true } .direct va 256 (fun key s =>
        let u := unitSize key
        .done ((forEach (upTo (256 / u)) s (fun j s => s.sendReq {
          kind := .store, who := w, gen := (s.ctx w).hold.gen, va := va + BitVec.ofNat 64 (j * u), key := key + j * u
          bytes := (bytes.drop (j * u)).take u })).advance w i)))

/-- R478. -/
def execVsub (t : ElemType) (rm : Rounding) (d a b : Nat) (s : State) : Host.Outcome State Fault Refusal :=
  runVec (.vsub t rm d a b) s (vsubOut t rm d a b)

/-- R479. -/
def execVxor (d a b : Nat) (s : State) : Host.Outcome State Fault Refusal :=
  runMove (.vxor d a b) s 2 (fun w s => .v d (s.v w a ^^^ s.v w b))

end Sys2Proof.Machine

namespace Sys2Proof
open Machine

/-- What an FP form computes from the registers and scale words, for `redo` (R327). -/
def Instr.fpOut (g : Nat → Word) (v : Nat → VWord) (scales : List Nat) : Instr → Option FpOut
  | .fadd rm d a b => some (faddOut rm d a b g)
  | .fcmp fc d a b => some (fcmpOut fc d a b g)
  | .fcvt dst src rm d a => some (fcvtOut dst src rm d a g)
  | .ffma rm d a b c => some (ffmaOut rm d a b c g)
  | .fmax d a b => some (fselOut true d a b g)
  | .fmin d a b => some (fselOut false d a b g)
  | .fmul rm d a b => some (fmulOut rm d a b g)
  | .fsub rm d a b => some (fsubOut rm d a b g)
  | .vabs t d a => (vabsOut t d a v).out
  | .vneg t d a => (vnegOut t d a v).out
  | .vadd t rm d a b => (vaddOut t rm d a b v).out
  | .vsub t rm d a b => (vsubOut t rm d a b v).out
  | .vmul t rm d a b => (vmulOut t rm d a b v).out
  | .vmax t d a b => (vselectOut true t d a b v).out
  | .vmin t d a b => (vselectOut false t d a b v).out
  | .vclamp t d a b c => (vclampOut t d a b c v).out
  | .vfma t rm d a b c => some (vfmaOut t rm d a b c v)
  | .vcvt dst nsat rm src d a => some (vcvtOut dst nsat rm src d a v)
  | .vdot t rm d a b n => some (vdotOut t rm d a b n v)
  | .vred op t d a => some (vredOut op t d a v)
  | .vscan op t d a => some (vscanOut op t d a v)
  | .vdqnt t d a _ => some (vdqntOut t d a v scales)
  | .vqnt t nsat rm d a _ => some (vqntOut t nsat rm d a v scales)
  | .vbaq t nsat rm d a b _ => some (vbaqOut t nsat rm d a b v scales)
  | _ => none

end Sys2Proof
end

