-- ==== Sys2Proof/Machine/System.lean ====
section
/-! DEFINITION. The system class 0x380 beside its registers, saves and translation forms: returns and traps, command
faults, settling divergences, quarantine, scans and the logical core map (R315, R326 to R330, R385, R453, R455, R472). -/

namespace Sys2Proof.Machine

/-- R472: the context takes SYSCALL behind the instruction. -/
def execTrap (code : Nat) (s : State) : Host.Outcome State Fault Refusal :=
  run (.trap code) s (fun w s => .done (s.trapNext w (.trap code) cSyscall (BitVec.ofNat 64 code)))

/-- R315, R455. -/
def execSret (s : State) : Host.Outcome State Fault Refusal :=
  run .sret s (fun w s =>
    let x := (s.ctx w).status
    if x.pl < x.ppl then .done (s.trapSync w cPrivilege (x.ppl.setWidth 64))
    else if !x.intrap then .done (s.trapSync w cIllegalOperand 0)
    else .done (s.returnTrap w))

/-- R385: the recorded queue goes on, a faulted load gives up its reservation (R193), and the next fault is recorded. -/
def execCqResume (s : State) : Host.Outcome State Fault Refusal :=
  run .cqResume s (fun w s =>
    let core := w.core
    let fin := fun (s : State) => Effect.done (s.advance w .cqResume)
    match (s.core core).part.regs.cfr with
    | none => fin s
    | some f =>
      let s := forEach (s.core core).part.regs.faults (s.holdFor core f false) (fun g s => s.holdFor core g true)
      let s := match f.stream with
        | some k => s.cancelLoad core k true
        | none => s
      let s := s.modRegs core (fun r => { r with cfr := none, cfrLast := f.word })
      match (s.core core).part.regs.faults with
      | [] => fin s
      | g :: rest => fin ((s.modRegs core (fun r => { r with faults := rest })).recordFault core g))

/-! ## Divergences and quarantine (R326, R327, R436) -/

/-- How one diverged unit is settled: by the main result, by a third, or not at all. -/
inductive Verdict where
  | main | third (bits : Nat) | none
deriving DecidableEq, Repr

/-- The third execution of a diverged lane on the partner of its unit, and the verdict. -/
def State.verdict (s : State) (w : Who) (r : DivRecord) (u : Diverged) : Verdict × Option Nat × State :=
  match s.partner w.core u.unit, r.instr.fpOut (s.g w) (s.v w) r.scales with
  | some p, some o =>
    let right := o.write.lane u.lane
    let us := (s.core w.core).marks.upsets
    let (third, us) := strike us p false right
    let (shadow, us) := strike us p true right
    let s := s.modMarks w.core (fun m => { m with upsets := us })
    let v := if o.fmt.laneDiverges third shadow then Verdict.none
      else if !o.fmt.laneDiverges third (r.write.lane u.lane) then .main
      else if !o.fmt.laneDiverges third u.shadow.toNat then .third third
      else .none
    (v, some p, s)
  | p, _ => (.none, p, s)

/-- Settle the lanes of one unit: the verdict on them all, with third results in the main ones' place. -/
def State.settleLanes (w : Who) : List Diverged → DivRecord → Nat → State → DivRecord × Nat × State
  | [], r, worst, s => (r, worst, s)
  | u :: l, r, worst, s =>
    match s.verdict w r u with
    | (.main, _, s) => State.settleLanes w l r worst s
    | (.third b, _, s) => State.settleLanes w l { r with write := r.write.setLane u.lane b } (max worst 2) s
    | (.none, _, s) => State.settleLanes w l r 3 s

/-- Settle one unit: its score rises, and its partner's where there is no majority. -/
def State.settleUnit (w : Who) (x : DivRecord × Nat × Bool × State) (unit : Nat) : DivRecord × Nat × Bool × State :=
  let (r, worst, high, s) := x
  let p := s.partner w.core unit
  let (r, outcome, s) := State.settleLanes w (r.units.filter (fun u => decide (u.unit = unit))) r 1 s
  let raise := fun (k : Nat) (y : Bool × State) =>
    let t := y.2.addScore w.core k
    (y.1 || (!y.2.quarantined w.core k && t.quarantined w.core k), t)
  let y := raise unit (high, s)
  let y := match outcome, p with
    | 3, some k => raise k y
    | _, _ => y
  (r, max worst outcome, y.1, y.2)

/-- Settle every record, in program order. -/
def State.settleRecords (w : Who) : List DivRecord → Nat → Bool → State → List DivRecord × Nat × Bool × State
  | [], worst, high, s => ([], worst, high, s)
  | r :: rest, worst, high, s =>
    let (r, worst, high, s) := r.unitList.foldl (State.settleUnit w) (r, worst, high, s)
    let (l, worst, high, s) := State.settleRecords w rest worst high s
    (r :: l, worst, high, s)

/-- R327, R439. -/
def execRedo (s : State) : Host.Outcome State Fault Refusal :=
  run .redo s (fun w s =>
    let l := (s.ctx w).hold.divergence
    if l.isEmpty then .done (s.trapSync w cIllegalOperand 0)
    else
      let (l, worst, high, s) := State.settleRecords w l 1 false s
      let put := fun (c : Ctx) (r : DivRecord) =>
        { c with
          regs := if r.overtaken then c.regs else c.regs.put r.write
          status := { c.status with fflags := c.status.fflags ||| r.flags } }
      let s := if worst < 3 then s.modCtx w (fun c => l.foldl put c) else s
      let outcome := BitVec.ofNat 64 (worst * 2 ^ 61 + (if high then 2 ^ 60 else 0))
      .done ((s.modCtx w (fun c => { c with
        trap := { c.trap with tval := (c.trap.tval &&& ~~~0x7000000000000000#64) ||| outcome }
        hold := { c.hold with divergence := [] } })).advance w .redo))

/-- R436. -/
def execQrt (a : Nat) (s : State) : Host.Outcome State Fault Refusal :=
  run (.qrt a) s (fun w s =>
    let u := s.g w a
    if 96 < u.toNat then .done (s.trapSync w cIllegalOperand u)
    else .done ((s.setScore w.core u.toNat 255).advance w (.qrt a)))

/-! ## Scans (R76, R328, R329, R453) -/

/-- R328. -/
def execScanRun (a : Nat) (s : State) : Host.Outcome State Fault Refusal :=
  run (.scanRun a) s (fun w s =>
    let x := s.g w a
    let n := x.toNat
    let here := clusterOf w.core
    let bad := Effect.done (s.trapSync w cIllegalOperand x)
    match if n / 24 = here then s.physOf n else none with
    | none => bad
    | some k =>
      let c := s.core k
      if k = w.core ∨ c.run.isSome ∨ c.saved.isSome ∨ c.marks.underScan ∨ s.taken n ∨ (s.cluster here).scan.isSome then bad
      else
        let s := s.modCluster here (fun x => { x with scan := some (w.core, k, false) })
        let s := s.modMarks k (fun m => { m with underScan := true })
        .done ((s.modMarks w.core (fun m => { m with scanTarget := n, scanPattern := 0, scanState := 1 })).advance w (.scanRun a)))

/-- R329: the issuer's running scan is told to stop. -/
def execScanAbort (s : State) : Host.Outcome State Fault Refusal :=
  run .scanAbort s (fun w s =>
    .done ((s.modCluster (clusterOf w.core) (fun c => { c with scan := c.scan.map (fun t =>
      if t.1 = w.core then (t.1, t.2.1, true) else t) })).advance w .scanAbort))

/-- R329: waits until the issuer's scan has ended. -/
def execScanSig (d : Nat) (s : State) : Host.Outcome State Fault Refusal :=
  run (.scanSig d) s (fun w s =>
    if (s.core w.core).marks.scanState = 1 then waits
    else .done ((s.setG w d (s.scanWord w.core)).advance w (.scanSig d)))

/-- A core in its reset state; its vault, scores, failed banks and the environment's upsets stay (R328). -/
def Core.afterReset (c : Core) (clock : Nat) : Core :=
  { c with
    part := {}, run := none, jobId := 0, asid := 0, handlers := [], preemption := .none, code := [], l1Ranges := [], l1Pages := []
    latch := {}
    marks := {
      cycle := clock, suspects := c.marks.suspects, degraded := c.marks.degraded, scanFailed := c.marks.scanFailed
      spCorrections := c.marks.spCorrections, spFailed := c.marks.spFailed
      upsets := c.marks.upsets, beats := c.marks.beats, stripe := c.marks.stripe } }

/-- The scan of a cluster is over: the target is reset and no longer under scan, and SCAN_END is latched. -/
def State.scanOver (s : State) (cluster issuer target state : Nat) (pattern : Nat) (sig : Word) : State :=
  let s := s.modCluster cluster (fun c => { c with scan := none })
  let s := s.modCore target (fun c => c.afterReset s.clock)
  (s.modMarks issuer (fun m => { m with scanState := state, scanPattern := pattern, scanSig := sig })).latchEvent issuer 5

/-- The expected signature of a physical core (R328, R334). -/
def State.expectedSig (s : State) (core : Nat) : Word := Config.imageScan s.imageHeader core

/-- SCAN_END: all patterns are applied; a target that failed leaves dispatch until a scan passes (R328). -/
def execScanEnd (cluster : Nat) (sig : BitVec 64) (s : State) : Host.Outcome State Fault Refusal :=
  event (
    match (s.cluster cluster).scan with
    | none => s
    | some (issuer, target, _) =>
      if !s.mod.powered then s
      else
        let pass := decide (sig = s.expectedSig target)
        let s := s.scanOver cluster issuer target (if pass then 2 else 3) 8000 sig
        let s := s.modMarks target (fun m => { m with scanFailed := !pass })
        match (if pass then none else s.logicalOf target) with
        | some n => (s.unchoose n).checkCounts
        | none => s.checkCounts)

/-- SCAN_ABORT_STOP: the engine has stopped; how far it came is free (R329). -/
def execScanAbortStop (cluster : Nat) (s : State) : Host.Outcome State Fault Refusal :=
  event (
    match (s.cluster cluster).scan with
    | some (issuer, target, true) =>
      if s.mod.powered then
        s.scanOver cluster issuer target 4 (Config.nat s.tick 270 % 8001) (Config.word s.tick 271)
      else s
    | _ => s)

/-! ## The logical core map (R12, R330, R384) -/

/-- R330: the checks that the DX makes when it takes the request up, behind one of the same cluster that it still performs; it
then performs it while the context waits. -/
def execCmap (a b : Nat) (s : State) : Host.Outcome State Fault Refusal :=
  let i := Instr.cmap a b
  run i s (fun w s =>
    let x := s.g w a
    let y := s.g w b
    let n := x.toNat
    let evac := y.getLsbD 0
    let unmap := y.getLsbD 1
    let bad := fun (v : Word) => Effect.done (s.trapSync w cIllegalOperand v)
    if 1151 < n ∨ 4 ≤ y.toNat ∨ s.logicalOf w.core = some n then bad x
    else if s.dx.moving.any (fun m => decide (m.core / 24 = n / 24)) then waits
    else match s.physOf n with
    | none => bad x
    | some k =>
      let c := s.core k
      if c.run.isSome ∨ c.saved.isSome ∨ c.marks.underScan ∨ s.taken n then bad x
      else if !unmap ∧ n / 24 ∈ s.dx.spareUsed then bad y
      else if evac ∧ unmap then .done (s.trapSync w cUncorrectable (BitVec.ofNat 64 k))
      else .done (({ s with dx := { s.dx with 
        moving := s.dx.moving ++ [({ who := w, gen := (s.ctx w).hold.gen, core := n, evac, unmap } : Moving)] } }).inHand w i))

/-- The offsets that an evacuation copies: the general and the Gazetteer region. -/
def evacuated (off : Nat) : Bool := isGeneral off || isGaz off

/-- Copy a vault's evacuated regions to another vault, poison marks included, or leave them poisoned there. A sector that
cannot be reached reads as poison, and none is written (R183). -/
def State.evacuate (s : State) (old new : Nat) (copy : Bool) : State :=
  let m := s.memory
  let inside := fun (core key : Nat) => decide (keyCore key = core) && evacuated (keyOff key) && isHere key
  let sent := fun (key : Nat) => inside old key && s.sectorReached old (keyOff key)
  let taken := fun (key : Nat) => inside new key && s.sectorReached new (keyOff key)
  let cells := m.bytes.filter (fun p => sent p.1 && taken (coreKey new (keyOff p.1)))
  let units := m.flips.filter (fun x => sent (32 * x) && taken (coreKey new (keyOff (32 * x))))
  let m := { m with bytes := m.bytes.filter (fun p => !taken p.1), flips := m.flips.filter (fun x => !taken (32 * x)) }
  let m := if copy then
      let m := cells.foldl (fun m p => m.setByte (coreKey new (keyOff p.1)) p.2) m
      units.foldl (fun m x => { m with flips := insertNat m.flips ((coreKey new (keyOff (32 * x))) / 32) }) m
    else m
  { s with memory := m }

/-- A `gw.take` that waits on a core which a change of the map has taken out of the gateway set ends (R408). -/
def State.endTakes (s : State) : State :=
  forEach s.cores s (fun p s => forEach p.2.part.mail.waiters s (fun x s =>
    if 32 ≤ x.1 ∧ !s.isGateway p.1 (x.1 - 32) then
      let w : Who := ⟨p.1, x.2⟩
      ((s.withdraw w).trapSync w cIllegalOperand (BitVec.ofNat 64 (x.1 - 32)))
    else s))

/-- CMAP_PERFORM: the DX performs the oldest request of a core's contexts, whose issuer waits for it unless its part has ended (R12, R299,
R304, R330). -/
def execCmapPerform (core : Nat) (selfTestPasses : Bool) (s : State) : Host.Outcome State Fault Refusal :=
  event (
    match s.dx.moving.find? (fun m => decide (m.who.core = core)) with
    | none => s
    | some m =>
      let w := m.who
      let n := m.core
      let evac := m.evac
      let unmap := m.unmap
      let s := { s with dx := { s.dx with moving := s.dx.moving.erase m } }
      let waits := match s.lives w m.gen, (s.ctx w).hold.hand with
        | true, some (.cmap a b) => some (Instr.cmap a b)
        | _, _ => none
      match s.physOf n with
      | none => s
      | some old =>
        if evac && !selfTestPasses then
          if waits.isSome then (s.modHold w (fun h => { h with hand := none })).trapSync w cUncorrectable (BitVec.ofNat 64 old)
          else s
        else
          let cluster := n / 24
          let spare := physAt cluster (s.dx.spareOf cluster)
          let s := if unmap then s else s.evacuate old spare evac
          let s := (s.modCore old (fun c => c.afterReset s.clock)).modCore spare
            (fun c => if unmap then c else c.afterReset s.clock)
          let s := if selfTestPasses then s else (s.modVault old (fun v => { v with dead := true })).checkLayers old
          let s := { s with dx := { s.dx with
            map := s.dx.map.set n (if unmap then none else some spare)
            spareUsed := if unmap then s.dx.spareUsed else insertNat s.dx.spareUsed cluster
            keys := s.dx.keys.set n 0 } }
          let s := s.endTakes.checkCounts
          match waits with
          | some i => s.finish w i
          | none => s)

end Sys2Proof.Machine
end

