-- ==== Sys2Proof/Machine/Bringup.lean ====
section
/-! DEFINITION. Bring-up, resets, firmware images, routes and power (R188 to R190, R334, R336, R339, R340). -/

namespace Sys2Proof.Machine

/-! ## Vaults through a reset (R188, R190) -/

/-- Line repairs and retirements are gone, row repairs and the non-volatile record stay; segments with a failing line are
blocked. -/
def Vault.afterReset (v : Vault) (failing : List WeltLine) (tick : Nat) : Vault :=
  { banks := v.banks.map (fun (p : Nat × Bank) => (p.1, { spares := p.2.spares }))
    temps := v.temps
    throttled := v.throttled
    failing
    blocked := (failing.map (fun l => (l.welt, l.seg))).eraseDups
    log := v.log
    recordLost := v.recordLost
    dead := v.dead
    origin := tick }

def linesOf (lines : List (Nat × WeltLine)) (core : Nat) : List WeltLine :=
  (lines.filter (fun p => decide (p.1 = core))).map (·.2)

/-- A core through a reset of the module: its vault's lasting state and the environment's upsets stay, and a scan's failure (R328); of a
warm reset, the failed banks of its scratchpad too (R162). -/
def Core.throughReset (c : Core) (cold : Bool) (failing : List WeltLine) (tick : Nat) : Core :=
  let banks := if cold then [] else c.marks.spFailed
  { vault := c.vault.afterReset failing tick
    marks := {
      upsets := c.marks.upsets, beats := c.marks.beats, stripe := c.marks.stripe, scanFailed := c.marks.scanFailed
      spFailed := banks, degraded := decide (2 ≤ banks.length) } }

/-- The module begins its bring-up at a step, with some storage and with links that will not train: everything but the maps, the vaults,
the images and their floor is as after reset (R330, R334, R339). -/
def State.resetModule (s : State) (cold : Bool) (memory : Memory) (links : List Nat) (lines : List (Nat × WeltLine)) : State :=
  { cores := (upTo 1200).map (fun k => (k, (s.core k).throughReset cold (linesOf lines k) s.tick))
    memory
    dx := { spares := s.dx.spares, map := s.dx.map, spareUsed := s.dx.spareUsed }
    mod := {
      step := if cold ∨ s.mod.rails < 3 then 1 else 2, rails := s.mod.rails, untrained := links.foldl insertNat [], trained := false
      image := s.mod.image, valid := s.mod.valid, loaded := s.mod.loaded, floor := s.mod.floor
      mv := s.mod.mv, mhz := s.mod.mhz, layers := s.mod.layers, junction := s.mod.junction, replies := s.mod.replies }
    agenda := s.agenda
    focus := s.focus
    tick := s.tick }

/-- The repair logs that have not been written whole since a cold reset, once the others are what a key stands for by itself. -/
def Memory.settleLogs (m : Memory) : Memory :=
  if m.logs then m else { m with logs := true, logFlips := (upTo 2400).filter (fun n => !m.logWritten n) }

/-- The log of every vault is replayed, where it can be read (R189, R339). -/
def State.replayAll (s : State) : State :=
  let s := forEach (upTo 1200) s (fun k s => if s.logReads k then s.replayLog k (s.core k).vault.failing else s)
  { s with memory := s.memory.settleLogs }

/-! ## Images (R334) -/

/-- The version floor in the fuses. -/
def State.versionFloor (s : State) : Nat := max Config.versionFloor s.mod.floor

/-- An image is accepted: the last 384 bytes of its header sign the rest of it, and its version is not below the floor. -/
def State.accepts (s : State) (im : List Byte) : Bool :=
  decide (512 ≤ im.length) && Config.imageSigned (im.take 128 ++ im.drop 512) ((im.drop 128).take rsaBytes)
    && decide (s.versionFloor ≤ Config.imageVersion (im.take 512))

/-- An image takes effect, and raises the floor. -/
def State.install (s : State) (im : List Byte) : State :=
  { s with mod := { s.mod with
    image := some im, valid := true, loaded := none, floor := max s.mod.floor (Config.imageVersion (im.take 512)) } }

/-! ## Bring-up (R339) -/

/-- The boot ROM finds the stored image valid. -/
def State.boots (s : State) : Bool := s.mod.valid && s.accepts s.image

/-- Quemas training has ended: a link that did not train is marked failed, and leaves every mask; one that has failed
since the bring-up began stays out of use (R336). -/
def State.linksTrained (s : State) : State :=
  let failed := s.mod.untrained.foldl (fun m k => m ||| (1#16 <<< k)) 0#16
  { s with mod := { s.mod with
    trained := true, failedLinks := s.mod.untrained.foldl insertNat s.mod.failedLinks, masks := s.mod.masks.map (fun p => (p.1, p.2 &&& ~~~failed)) } }

/-- Bring-up at a step. -/
def State.atStep (s : State) (n : Nat) : State := { s with mod := { s.mod with step := n } }

/-- Rails: one more is up at power-on, in the order DRAM layers, logic, optics, or one more is down at power-off, in the reverse order (R340). -/
def State.setRails (s : State) (n : Nat) : State := { s with mod := { s.mod with rails := n } }

/-- Bring-up goes a step further. Its first step follows when every rail is up. Without a valid image it holds at step 3; step 4 replays the
log of every vault; step 5 ends when training has ended and a ROUTE has been accepted. -/
def State.bringUp (s : State) : State :=
  if !s.mod.powered then s.setRails (s.mod.rails - 1)
  else match s.mod.step with
  | 1 => if s.mod.rails < 3 then s.setRails (s.mod.rails + 1) else s.atStep 2
  | 2 => s.atStep 3
  | 3 => if s.boots then s.atStep 4 else s
  | 4 => s.replayAll.atStep 5
  | 5 => let s := if s.mod.trained then s else s.linksTrained
         if s.mod.routed then s.atStep 6 else s
  | 6 => s.atStep 7
  | _ => s

/-! ## Resets (R188, R190, R339) -/

/-- The vaults and the second tier without their contents: every unit of them is poisoned (R190). Every step follows, and the rails ramp
anew (R339, R340). -/
def State.coldModule (s : State) (failing : List Nat) (lines : List (Nat × WeltLine)) : State :=
  (s.resetModule true { logs := false } failing lines).setRails 0

/-- COLD_RESET: the vaults' and the second tier's contents are lost, and every step of bring-up follows. -/
def execColdReset (tests : ResetTests) (s : State) : Host.Outcome State Fault Refusal :=
  event (if s.mod.powered then s.coldModule tests.links tests.lines else s)

/-- WARM_RESET: vaults and the second tier keep their contents; a loaded image takes effect; bring-up follows from step 2. -/
def execWarmReset (tests : ResetTests) (s : State) : Host.Outcome State Fault Refusal :=
  event (
    if !s.mod.powered then s
    else
      let kept : Memory := { s.memory with
        bytes := s.memory.bytes.filter (fun p => !isSp p.1), wordPoison := [], full := [] }
      let t := s.resetModule false kept tests.links tests.lines
      match s.mod.loaded with
        | some im => t.install im
        | none => t)

/-- POWER_ON: as a cold reset, which goes on when the rails are up: that of the DRAM layers is the first (R340). Every rail and
clock is at its nominal value again (DESIGN CHOICE for the layers, notes/assumptions/2.md). -/
def execPowerOn (failing : List Nat) (lines : List (Nat × WeltLine)) (s : State) : Host.Outcome State Fault Refusal :=
  event (if s.mod.powered then s else 
    let t := s.coldModule failing lines
    { t with mod := { t.mod with rails := max 1 s.mod.rails, mv := 600, mhz := 2000, layers := [] } })

/-- ROUTE_WAIT_EXPIRY: the bound of step 5 has passed without a ROUTE, and step 6 follows (R336, R339). -/
def execRouteWaitExpiry (s : State) : Host.Outcome State Fault Refusal :=
  event (
    if !s.mod.powered || decide (s.mod.step ≠ 5) then s
    else (if s.mod.trained then s else s.linksTrained).atStep 6)

/-! ## Messages of bring-up -/

/-- ROUTE: taken in step 5 alone, which it ends once training has ended (R333, R336, R339). -/
def execRoute (tag dev domain : Nat) (masks : List (Nat × BitVec 16)) (gateways : Nat) (s : State) :
    Host.Outcome State Fault Refusal :=
  event (
    if !s.portUp then s
    else if s.mod.step ≠ 5 then s.answer tag 0x22 pvNotReady
    else if 64 ≤ dev ∨ domain = 0 ∨ 64 < domain ∨ domain ≤ dev ∨ gateways = 0 ∨ 4 < gateways
        ∨ masks.any (fun p => decide (domain ≤ p.1) || decide (p.1 = dev)) then
      s.answer tag 0x22 pvBadMessage
    else
      let failed := s.mod.failedLinks.foldl (fun m k => m ||| (1#16 <<< k)) 0#16
      let set := masks.foldl (fun m p => Store.set m p.1 (p.2 &&& ~~~failed)) []
      ({ s with mod := { s.mod with
        devId := dev, domain, masks := set, gateways, routed := true, step := if s.mod.trained then 6 else 5 } }).answer tag 0x22 pvOk)

/-- FWLOAD: pieces are collected, from a first one on, until they form the image whose length its header gives (R334). In recovery an
accepted image takes effect at once, and step 3 starts again with it. -/
def execFwload (tag : Nat) (first : Bool) (piece : List (BitVec 8)) (s : State) : Host.Outcome State Fault Refusal :=
  event (
    let hold := decide (s.mod.step = 3) && !s.boots
    let im := (if first then [] else s.mod.pieces) ++ piece
    if !s.portUp then s
    else if s.mod.step ≠ 7 ∧ !hold then s.answer tag 0x20 pvNotReady
    else if im.length < 512 ∨ im.length < 512 + Config.imageLength (im.take 512) then
      ({ s with mod := { s.mod with pieces := im } }).answer tag 0x20 pvOk
    else
      let s := { s with mod := { s.mod with pieces := [] } }
      if !s.accepts im then s.answer tag 0x20 pvBadSignature
      else if hold then (s.install im).answer tag 0x20 pvOk
      else ({ s with mod := { s.mod with loaded := some im } }).answer tag 0x20 pvOk)

/-! ## Power (R340) -/

/-- A point of the DVFS range: 1.6 GHz at 540 mV, 2.0 GHz at 600 mV and 2.4 GHz at 720 mV, and rising between them (R340). -/
def dvfsPoint (mv mhz : Nat) : Bool :=
  (mv, mhz) ∈ [(540, 1600), (600, 2000), (720, 2400)]
    || (decide (540 < mv) && decide (mv < 600) && decide (1600 < mhz) && decide (mhz < 2000))
    || (decide (600 < mv) && decide (mv < 720) && decide (2000 < mhz) && decide (mhz < 2400))

/-- DVFS_CHANGE: firmware sets a point of the range. -/
def execDvfsChange (mv mhz : Nat) (s : State) : Host.Outcome State Fault Refusal :=
  event (if s.mod.powered && dvfsPoint mv mhz then { s with mod := { s.mod with mv, mhz } } else s)

/-- Firmware sets the rail and the clock of a DRAM layer (R340). -/
def State.setLayer (s : State) (layer mv mhz : Nat) : State :=
  if s.mod.powered && decide (layer < 12) then { s with mod := { s.mod with layers := s.mod.layers.set layer (mv, mhz) } } else s

/-- The module goes off: the rail of the optics first, then logic, then the DRAM layers (R340). -/
def State.shutDown (s : State) : State :=
  { s with mod := { s.mod with powered := false, step := 0, rails := min 2 s.mod.rails } }

/-- JUNCTION_TEMP_LIMIT: at 100 °C firmware lowers the DVFS point, by how much is free; at 110 °C the module reports and
shuts down. -/
def execJunctionTempLimit (temp : Nat) (s : State) : Host.Outcome State Fault Refusal :=
  event (
    if !s.mod.powered || decide (temp < 100) then s
    else if temp < 110 then
      let point := (Config.nat s.tick 290, Config.nat s.tick 291)
      let lower := dvfsPoint point.1 point.2 && decide (point.1 < s.mod.mv) && decide (point.2 < s.mod.mhz)
      let (mv, mhz) := if lower then point else (540, 1600)
      { s with mod := { s.mod with mv, mhz, junction := temp } }
    else (s.answer 0 0 pvOk [BitVec.ofNat 64 temp]).shutDown)

/-- POWER_OFF. -/
def execPowerOff (s : State) : Host.Outcome State Fault Refusal := event (if s.mod.powered then s.shutDown else s)

/-- The moves of the module that are no step of the table (R106, R339, R340). -/
def State.plantModule (s : State) : Move → State
  | .bringUp => s.bringUp
  | .imageLost => { s with mod := { s.mod with valid := false } }
  | .layerPoint l mv mhz => s.setLayer l mv mhz
  | .junction temp => if temp < 100 then { s with mod := { s.mod with junction := temp } } else s
  | .handlerEntry k n pc => s.fillHandler k n pc
  | _ => s

end Sys2Proof.Machine
end

