-- ==== Sys2Proof/Machine/Dispatch.lean ====
section
/-! DEFINITION. One arm for each instruction and step. -/

namespace Sys2Proof.Machine

/-- The meaning of an instruction on the context in focus, or of a step of another agent. -/
def exec (i : Instr) (s : State) : Host.Outcome State Fault Refusal :=
  match i with
  | .bcmp cc a b off => Sys2Proof.Machine.execBcmp cc a b off s
  | .bpred mc p off => Sys2Proof.Machine.execBpred mc p off s
  | .br off => Sys2Proof.Machine.execBr off s
  | .brk code => Sys2Proof.Machine.execBrk code s
  | .call off => Sys2Proof.Machine.execCall off s
  | .callr a => Sys2Proof.Machine.execCallr a s
  | .fork ns j off => Sys2Proof.Machine.execFork ns j off s
  | .hexit => Sys2Proof.Machine.execHexit s
  | .hstart d off => Sys2Proof.Machine.execHstart d off s
  | .idle => Sys2Proof.Machine.execIdle s
  | .join w a off => Sys2Proof.Machine.execJoin w a off s
  | .jr a => Sys2Proof.Machine.execJr a s
  | .lbrk n => Sys2Proof.Machine.execLbrk n s
  | .loop n c off => Sys2Proof.Machine.execLoop n c off s
  | .nop => Sys2Proof.Machine.execNop s
  | .qclr q => Sys2Proof.Machine.execQclr q s
  | .qset q a => Sys2Proof.Machine.execQset q a s
  | .ret => Sys2Proof.Machine.execRet s
  | .yield => Sys2Proof.Machine.execYield s
  | .add d a b => Sys2Proof.Machine.execAdd d a b s
  | .addi d a imm => Sys2Proof.Machine.execAddi d a imm s
  | .and d a b => Sys2Proof.Machine.execAnd d a b s
  | .andi d a imm => Sys2Proof.Machine.execAndi d a imm s
  | .bext d a pos w => Sys2Proof.Machine.execBext d a pos w s
  | .bins d a pos w => Sys2Proof.Machine.execBins d a pos w s
  | .clz d a => Sys2Proof.Machine.execClz d a s
  | .cmp cc d a b => Sys2Proof.Machine.execCmp cc d a b s
  | .div d a b => Sys2Proof.Machine.execDiv d a b s
  | .divu d a b => Sys2Proof.Machine.execDivu d a b s
  | .fadd rm d a b => Sys2Proof.Machine.execFadd rm d a b s
  | .fcmp fc d a b => Sys2Proof.Machine.execFcmp fc d a b s
  | .fcvt dst src rm d a => Sys2Proof.Machine.execFcvt dst src rm d a s
  | .ffma rm d a b c => Sys2Proof.Machine.execFfma rm d a b c s
  | .fmax d a b => Sys2Proof.Machine.execFmax d a b s
  | .fmin d a b => Sys2Proof.Machine.execFmin d a b s
  | .fmul rm d a b => Sys2Proof.Machine.execFmul rm d a b s
  | .fsub rm d a b => Sys2Proof.Machine.execFsub rm d a b s
  | .lea d a imm => Sys2Proof.Machine.execLea d a imm s
  | .leaPc d imm => Sys2Proof.Machine.execLeaPc d imm s
  | .li d imm => Sys2Proof.Machine.execLi d imm s
  | .li64 d imm => Sys2Proof.Machine.execLi64 d imm s
  | .madd d a b c => Sys2Proof.Machine.execMadd d a b c s
  | .max d a b => Sys2Proof.Machine.execMax d a b s
  | .maxu d a b => Sys2Proof.Machine.execMaxu d a b s
  | .min d a b => Sys2Proof.Machine.execMin d a b s
  | .minu d a b => Sys2Proof.Machine.execMinu d a b s
  | .mul d a b => Sys2Proof.Machine.execMul d a b s
  | .mulh d a b => Sys2Proof.Machine.execMulh d a b s
  | .mulhu d a b => Sys2Proof.Machine.execMulhu d a b s
  | .or d a b => Sys2Proof.Machine.execOr d a b s
  | .ori d a imm => Sys2Proof.Machine.execOri d a imm s
  | .popc d a => Sys2Proof.Machine.execPopc d a s
  | .rem d a b => Sys2Proof.Machine.execRem d a b s
  | .remu d a b => Sys2Proof.Machine.execRemu d a b s
  | .rot d a b => Sys2Proof.Machine.execRot d a b s
  | .sel d a b c => Sys2Proof.Machine.execSel d a b c s
  | .shl d a b => Sys2Proof.Machine.execShl d a b s
  | .shlImm d a n => Sys2Proof.Machine.execShlImm d a n s
  | .shr d a b => Sys2Proof.Machine.execShr d a b s
  | .shrImm d a n => Sys2Proof.Machine.execShrImm d a n s
  | .sra d a b => Sys2Proof.Machine.execSra d a b s
  | .sraImm d a n => Sys2Proof.Machine.execSraImm d a n s
  | .sub d a b => Sys2Proof.Machine.execSub d a b s
  | .xor d a b => Sys2Proof.Machine.execXor d a b s
  | .xori d a imm => Sys2Proof.Machine.execXori d a imm s
  | .amo op w d a b => Sys2Proof.Machine.execAmo op w d a b s
  | .cas w d a b c => Sys2Proof.Machine.execCas w d a b c s
  | .feclr a off => Sys2Proof.Machine.execFeclr a off s
  | .feset a off => Sys2Proof.Machine.execFeset a off s
  | .ld w signed d a off => Sys2Proof.Machine.execLd w signed d a off s
  | .ldf d a off => Sys2Proof.Machine.execLdf d a off s
  | .ldfe d a off => Sys2Proof.Machine.execLdfe d a off s
  | .ract a off => Sys2Proof.Machine.execRact a off s
  | .rpre a off => Sys2Proof.Machine.execRpre a off s
  | .st w a off b => Sys2Proof.Machine.execSt w a off b s
  | .stef a off b => Sys2Proof.Machine.execStef a off b s
  | .stf a off b => Sys2Proof.Machine.execStf a off b s
  | .vabs t d a => Sys2Proof.Machine.execVabs t d a s
  | .vadd t rm d a b => Sys2Proof.Machine.execVadd t rm d a b s
  | .vand d a b => Sys2Proof.Machine.execVand d a b s
  | .vbaq t nsat rm d a b c => Sys2Proof.Machine.execVbaq t nsat rm d a b c s
  | .vbc t d a => Sys2Proof.Machine.execVbc t d a s
  | .vclamp t d a b c => Sys2Proof.Machine.execVclamp t d a b c s
  | .vcmp t cc d a b => Sys2Proof.Machine.execVcmp t cc d a b s
  | .vcvt dst nsat rm src d a => Sys2Proof.Machine.execVcvt dst nsat rm src d a s
  | .vdot t rm d a b n => Sys2Proof.Machine.execVdot t rm d a b n s
  | .vdqnt t d a b => Sys2Proof.Machine.execVdqnt t d a b s
  | .vext d a lane => Sys2Proof.Machine.execVext d a lane s
  | .vfma t rm d a b c => Sys2Proof.Machine.execVfma t rm d a b c s
  | .vgat t d a b => Sys2Proof.Machine.execVgat t d a b s
  | .vins d a lane => Sys2Proof.Machine.execVins d a lane s
  | .vld d a off => Sys2Proof.Machine.execVld d a off s
  | .vlds t d a b => Sys2Proof.Machine.execVlds t d a b s
  | .vmax t d a b => Sys2Proof.Machine.execVmax t d a b s
  | .vmin t d a b => Sys2Proof.Machine.execVmin t d a b s
  | .vmov d a => Sys2Proof.Machine.execVmov d a s
  | .vmul t rm d a b => Sys2Proof.Machine.execVmul t rm d a b s
  | .vneg t d a => Sys2Proof.Machine.execVneg t d a s
  | .vor d a b => Sys2Proof.Machine.execVor d a b s
  | .vpcnt d p => Sys2Proof.Machine.execVpcnt d p s
  | .vperm d a b => Sys2Proof.Machine.execVperm d a b s
  | .vpfirst d p => Sys2Proof.Machine.execVpfirst d p s
  | .vqnt t nsat rm d a b => Sys2Proof.Machine.execVqnt t nsat rm d a b s
  | .vred op t d a => Sys2Proof.Machine.execVred op t d a s
  | .vrot d a n => Sys2Proof.Machine.execVrot d a n s
  | .vsca t a b c => Sys2Proof.Machine.execVsca t a b c s
  | .vscan op t d a => Sys2Proof.Machine.execVscan op t d a s
  | .vsel d a b p => Sys2Proof.Machine.execVsel d a b p s
  | .vshl t d a b => Sys2Proof.Machine.execVshl t d a b s
  | .vshr t d a b => Sys2Proof.Machine.execVshr t d a b s
  | .vst a off b => Sys2Proof.Machine.execVst a off b s
  | .vsub t rm d a b => Sys2Proof.Machine.execVsub t rm d a b s
  | .vxor d a b => Sys2Proof.Machine.execVxor d a b s
  | .cbcfg c base nslots ring eng => Sys2Proof.Machine.execCbcfg c base nslots ring eng s
  | .cbrel c n eng => Sys2Proof.Machine.execCbrel c n eng s
  | .mdrain t acc a pitch rows cols eng => Sys2Proof.Machine.execMdrain t acc a pitch rows cols eng s
  | .mdrainr i32 acc b accn eng => Sys2Proof.Machine.execMdrainr i32 acc b accn eng s
  | .mld d a pitch eng => Sys2Proof.Machine.execMld d a pitch eng s
  | .mma t d ca offa cb offb kh eng => Sys2Proof.Machine.execMma t d ca offa cb offb kh eng s
  | .mrecv acc n c eng => Sys2Proof.Machine.execMrecv acc n c eng s
  | .msa d a b c eng => Sys2Proof.Machine.execMsa d a b c eng s
  | .mz d eng => Sys2Proof.Machine.execMz d eng s
  | .mzPb eng => Sys2Proof.Machine.execMzPb eng s
  | .tld t c a pitch rows cols eng => Sys2Proof.Machine.execTld t c a pitch rows cols eng s
  | .tst c off a pitch eng => Sys2Proof.Machine.execTst c off a pitch eng s
  | .apClr off w eng => Sys2Proof.Machine.execApClr off w eng s
  | .apCmp comb d a b eng => Sys2Proof.Machine.execApCmp comb d a b eng s
  | .apCnt d a eng => Sys2Proof.Machine.execApCnt d a eng s
  | .apFirst d a eng => Sys2Proof.Machine.execApFirst d a eng s
  | .apLd a win eng => Sys2Proof.Machine.execApLd a win eng s
  | .apMax d off w a eng => Sys2Proof.Machine.execApMax d off w a eng s
  | .apMcode n a eng => Sys2Proof.Machine.execApMcode n a eng s
  | .apRd d a eng => Sys2Proof.Machine.execApRd d a eng s
  | .apSeq n doff w soff k ct a eng => Sys2Proof.Machine.execApSeq n doff w soff k ct a eng s
  | .apSt a win eng => Sys2Proof.Machine.execApSt a win eng s
  | .apSweep n a b doff w soff k ct c win eng => Sys2Proof.Machine.execApSweep n a b doff w soff k ct c win eng s
  | .apTg op d a b eng => Sys2Proof.Machine.execApTg op d a b eng s
  | .apWr a b c eng => Sys2Proof.Machine.execApWr a b c eng s
  | .apWrr a b eng => Sys2Proof.Machine.execApWrr a b eng s
  | .tqBind d a b ew => Sys2Proof.Machine.execTqBind d a b ew s
  | .tqDot signed d a b eng => Sys2Proof.Machine.execTqDot signed d a b eng s
  | .tqFnDir x d a b eng => Sys2Proof.Machine.execTqFnDir x d a b eng s
  | .tqFnSeg d a b eng => Sys2Proof.Machine.execTqFnSeg d a b eng s
  | .tqLk x d a b eng => Sys2Proof.Machine.execTqLk x d a b eng s
  | .tqPair p8 x d a b c eng => Sys2Proof.Machine.execTqPair p8 x d a b c eng s
  | .bind h b c => Sys2Proof.Machine.execBind h b c s
  | .bindFe a b c => Sys2Proof.Machine.execBindFe a b c s
  | .cwait p ch a => Sys2Proof.Machine.execCwait p ch a s
  | .drain path => Sys2Proof.Machine.execDrain path s
  | .fence kind scope => Sys2Proof.Machine.execFence kind scope s
  | .grpArr h => Sys2Proof.Machine.execGrpArr h s
  | .grpArrd h => Sys2Proof.Machine.execGrpArrd h s
  | .grpExp h b => Sys2Proof.Machine.execGrpExp h b s
  | .grpJoin h p a => Sys2Proof.Machine.execGrpJoin h p a s
  | .grpLeave h => Sys2Proof.Machine.execGrpLeave h s
  | .grpNew h p a quorum => Sys2Proof.Machine.execGrpNew h p a quorum s
  | .grpRed op t h b => Sys2Proof.Machine.execGrpRed op t h b s
  | .grpRes d h => Sys2Proof.Machine.execGrpRes d h s
  | .grpStat d h => Sys2Proof.Machine.execGrpStat d h s
  | .grpVote op h b => Sys2Proof.Machine.execGrpVote op h b s
  | .grpWait h => Sys2Proof.Machine.execGrpWait h s
  | .grpWdog h b => Sys2Proof.Machine.execGrpWdog h b s
  | .gwTake d link => Sys2Proof.Machine.execGwTake d link s
  | .hret => Sys2Proof.Machine.execHret s
  | .mpeek d m => Sys2Proof.Machine.execMpeek d m s
  | .mtake d m => Sys2Proof.Machine.execMtake d m s
  | .qfence mask => Sys2Proof.Machine.execQfence mask s
  | .rpcAmo op dword a b eng => Sys2Proof.Machine.execRpcAmo op dword a b eng s
  | .rpcCall nr a idx m b len eng => Sys2Proof.Machine.execRpcCall nr a idx m b len eng s
  | .rpcFence => Sys2Proof.Machine.execRpcFence s
  | .rpcGet w signed m a eng => Sys2Proof.Machine.execRpcGet w signed m a eng s
  | .rpcPut form a b hc eng => Sys2Proof.Machine.execRpcPut form a b hc eng s
  | .rpcReply => Sys2Proof.Machine.execRpcReply s
  | .sendm a idx b eng => Sys2Proof.Machine.execSendm a idx b eng s
  | .tcopy ch a d hc eng => Sys2Proof.Machine.execTcopy ch a d hc eng s
  | .unbind a => Sys2Proof.Machine.execUnbind a s
  | .cmap a b => Sys2Proof.Machine.execCmap a b s
  | .cqResume => Sys2Proof.Machine.execCqResume s
  | .ctxRest a => Sys2Proof.Machine.execCtxRest a s
  | .ctxSave a => Sys2Proof.Machine.execCtxSave a s
  | .evwait d => Sys2Proof.Machine.execEvwait d s
  | .fbufPop d => Sys2Proof.Machine.execFbufPop d s
  | .jsub a b => Sys2Proof.Machine.execJsub a b s
  | .qrt a => Sys2Proof.Machine.execQrt a s
  | .redo => Sys2Proof.Machine.execRedo s
  | .scanAbort => Sys2Proof.Machine.execScanAbort s
  | .scanRun a => Sys2Proof.Machine.execScanRun a s
  | .scanSig d => Sys2Proof.Machine.execScanSig d s
  | .sret => Sys2Proof.Machine.execSret s
  | .sysr d r => Sys2Proof.Machine.execSysr d r s
  | .sysw a r => Sys2Proof.Machine.execSysw a r s
  | .syswStatus a => Sys2Proof.Machine.execSyswStatus a s
  | .syswLoop a r => Sys2Proof.Machine.execSyswLoop a r s
  | .syswVevCount a => Sys2Proof.Machine.execSyswVevCount a s
  | .syswCfail a n => Sys2Proof.Machine.execSyswCfail a n s
  | .syswFbufStat a => Sys2Proof.Machine.execSyswFbufStat a s
  | .syswActAlertSrc a => Sys2Proof.Machine.execSyswActAlertSrc a s
  | .syswSuspect a n => Sys2Proof.Machine.execSyswSuspect a n s
  | .syswRing a r => Sys2Proof.Machine.execSyswRing a r s
  | .syswPlaneProgress a r => Sys2Proof.Machine.execSyswPlaneProgress a r s
  | .tlbInv a kind => Sys2Proof.Machine.execTlbInv a kind s
  | .tlbReplay => Sys2Proof.Machine.execTlbReplay s
  | .trap code => Sys2Proof.Machine.execTrap code s
  | .weltRestore => Sys2Proof.Machine.execWeltRestore s
  | .weltRetire welt layer => Sys2Proof.Machine.execWeltRetire welt layer s
  | .asyncTrapTake core slot => Sys2Proof.Machine.execAsyncTrapTake core slot s
  | .fetch core slot => Sys2Proof.Machine.execFetch core slot s
  | .taskStart core => Sys2Proof.Machine.execTaskStart core s
  | .stealRequest core => Sys2Proof.Machine.execStealRequest core s
  | .stealAnswer core => Sys2Proof.Machine.execStealAnswer core s
  | .stealReceive core => Sys2Proof.Machine.execStealReceive core s
  | .stealBackoffExpiry core => Sys2Proof.Machine.execStealBackoffExpiry core s
  | .partEnd core => Sys2Proof.Machine.execPartEnd core s
  | .guardResolveAtHead core queue => Sys2Proof.Machine.execGuardResolveAtHead core queue s
  | .engineCommandStart core queue => Sys2Proof.Machine.execEngineCommandStart core queue s
  | .engineCommandEnd core queue => Sys2Proof.Machine.execEngineCommandEnd core queue s
  | .jointCommandPerform core => Sys2Proof.Machine.execJointCommandPerform core s
  | .qfenceBarrierPerform core queue => Sys2Proof.Machine.execQfenceBarrierPerform core queue s
  | .tileLoadDepart core => Sys2Proof.Machine.execTileLoadDepart core s
  | .tileSlotCommit core => Sys2Proof.Machine.execTileSlotCommit core s
  | .addInArrival sender => Sys2Proof.Machine.execAddInArrival sender s
  | .addInRetryNotice sender => Sys2Proof.Machine.execAddInRetryNotice sender s
  | .sweepRowStage core => Sys2Proof.Machine.execSweepRowStage core s
  | .sweepArbTimeout core => Sys2Proof.Machine.execSweepArbTimeout core s
  | .scratchpadAccess core n found => Sys2Proof.Machine.execScratchpadAccess core n found s
  | .vaultRequestServe core n found => Sys2Proof.Machine.execVaultRequestServe core n found s
  | .refreshDue core bank => Sys2Proof.Machine.execRefreshDue core bank s
  | .refreshEnd core bank => Sys2Proof.Machine.execRefreshEnd core bank s
  | .tempMeasure core temps => Sys2Proof.Machine.execTempMeasure core temps s
  | .patrolScrub core offset found => Sys2Proof.Machine.execPatrolScrub core offset found s
  | .weltLaneRepair core line => Sys2Proof.Machine.execWeltLaneRepair core line s
  | .weltReplayDone core failing => Sys2Proof.Machine.execWeltReplayDone core failing s
  | .pageWalkEnd cluster n => Sys2Proof.Machine.execPageWalkEnd cluster n s
  | .rangeTableRead cluster asid => Sys2Proof.Machine.execRangeTableRead cluster asid s
  | .messageArrival n => Sys2Proof.Machine.execMessageArrival n s
  | .resourceFreeNotice core n => Sys2Proof.Machine.execResourceFreeNotice core n s
  | .handlerReturnTrap core handler => Sys2Proof.Machine.execHandlerReturnTrap core handler s
  | .handlerFault core handler => Sys2Proof.Machine.execHandlerFault core handler s
  | .handlerEndNotice n => Sys2Proof.Machine.execHandlerEndNotice n s
  | .replyDelivery n => Sys2Proof.Machine.execReplyDelivery n s
  | .remoteFailureReport n => Sys2Proof.Machine.execRemoteFailureReport n s
  | .copyChunk core ch => Sys2Proof.Machine.execCopyChunk core ch s
  | .copyWritePerformed core ch => Sys2Proof.Machine.execCopyWritePerformed core ch s
  | .transferComplete core ch => Sys2Proof.Machine.execTransferComplete core ch s
  | .arrdRelease core slot => Sys2Proof.Machine.execArrdRelease core slot s
  | .groupUpdate unit n => Sys2Proof.Machine.execGroupUpdate unit n s
  | .groupDeparture unit n => Sys2Proof.Machine.execGroupDeparture unit n s
  | .membershipPause unit n => Sys2Proof.Machine.execMembershipPause unit n s
  | .watchdogFire rid => Sys2Proof.Machine.execWatchdogFire rid s
  | .gatewayBlockArrival link block => Sys2Proof.Machine.execGatewayBlockArrival link block s
  | .linkCrcRetry link => Sys2Proof.Machine.execLinkCrcRetry link s
  | .linkFailure link => Sys2Proof.Machine.execLinkFailure link s
  | .ident tag => Sys2Proof.Machine.execIdent tag s
  | .status tag => Sys2Proof.Machine.execStatus tag s
  | .submit tag queue desc => Sys2Proof.Machine.execSubmit tag queue desc s
  | .cancel tag job => Sys2Proof.Machine.execCancel tag job s
  | .param tag tbound maxslice => Sys2Proof.Machine.execParam tag tbound maxslice s
  | .keys tag set get => Sys2Proof.Machine.execKeys tag set get s
  | .asidtab tag asid ptroot rtab rcount tvec0 => Sys2Proof.Machine.execAsidtab tag asid ptroot rtab rcount tvec0 s
  | .load tag pa bytes => Sys2Proof.Machine.execLoad tag pa bytes s
  | .fwload tag first piece => Sys2Proof.Machine.execFwload tag first piece s
  | .attest tag nonce => Sys2Proof.Machine.execAttest tag nonce s
  | .route tag dev domain masks gateways => Sys2Proof.Machine.execRoute tag dev domain masks gateways s
  | .debug tag enable nonce signature => Sys2Proof.Machine.execDebug tag enable nonce signature s
  | .jobDue job => Sys2Proof.Machine.execJobDue job s
  | .dxDispatch => Sys2Proof.Machine.execDxDispatch s
  | .preemptInterrupt core => Sys2Proof.Machine.execPreemptInterrupt core s
  | .saveBegin core => Sys2Proof.Machine.execSaveBegin core s
  | .copyDrainExpiry core => Sys2Proof.Machine.execCopyDrainExpiry core s
  | .restore core => Sys2Proof.Machine.execRestore core s
  | .cmapPerform core selfTestPasses => Sys2Proof.Machine.execCmapPerform core selfTestPasses s
  | .scanEnd cluster sig => Sys2Proof.Machine.execScanEnd cluster sig s
  | .scanAbortStop cluster => Sys2Proof.Machine.execScanAbortStop cluster s
  | .powerOn failing lines => Sys2Proof.Machine.execPowerOn failing lines s
  | .coldReset tests => Sys2Proof.Machine.execColdReset tests s
  | .warmReset tests => Sys2Proof.Machine.execWarmReset tests s
  | .routeWaitExpiry => Sys2Proof.Machine.execRouteWaitExpiry s
  | .dvfsChange mv mhz => Sys2Proof.Machine.execDvfsChange mv mhz s
  | .junctionTempLimit temp => Sys2Proof.Machine.execJunctionTempLimit temp s
  | .powerOff => Sys2Proof.Machine.execPowerOff s
  | .maxsliceReached core => Sys2Proof.Machine.execMaxsliceReached core s

end Sys2Proof.Machine
end

