-- ==== Sys2Proof/Machine/Step.lean ====
section
/-! DEFINITION. One step of the machine: the next move of the agenda. -/

namespace Sys2Proof.Machine

/-- One step. A context that issues runs the instruction at its PC; another agent takes its step, or the words of a message at
the port are read as one (R332); a move that is not enabled changes nothing but the counter. -/
def step (s : State) : Host.Outcome State Fault Refusal :=
  match s.nextMove with
  | (.issue core slot, t) =>
    match t.turn ⟨core, slot⟩ with
    | .idle => .next t
    | .becomes u => .next u
    | .runs i u => exec i u
  | (.event i, t) => if i.isWord then .next t else exec i t
  | (.port l, t) => t.portMessage exec l
  | (m, t) => .next ((t.plant m).plantModule m)

/-- `s` with an instruction's bytes where the next step fetches and runs it: the next move is an issue of core 0's
control context, which is LIVE at firmware privilege in the firmware window of its own vault, with an empty instruction
store (notes/assumptions/1.md). -/
def State.withFetchWord (s : State) (nbits w : Nat) : State :=
  let word := w % 2 ^ nbits
  let s := { s with
    memory := s.memory.place (coreKey 0 0x1000) (toBytesLE 32 word)
    agenda := [.issue 0 0] }
  s.setCtx ⟨0, 0⟩ { Ctx.fresh 0 with live := true, pc := 0x1C0000000001000, status := { pl := 2 } }

end Sys2Proof.Machine
end

