-- ==== Sys2Proof/Safety.lean ====
section
/-! DEFINITION. The terms that statements use: when an instruction starts its own effect, what reaching storage comes to,
and what a step leaves alone. -/

namespace Sys2Proof.Machine

/-- The instruction starts its own effect on the context in focus: it is not a handler's return trap (R267), not trapped
for its privilege (R96), and no operand of it is in flight under STATUS.HZD (R48). -/
def Ready (i : Instr) (s : State) : Prop :=
  s.focus.returnsAt i = false ∧ (i.supervisorOnly = true → s.pl s.focus ≠ 0) ∧ s.hazard s.focus i = none

/-- The state from which the own effect of the context in focus starts: one more of its instructions has issued. -/
def State.own (s : State) : State := s.begun s.focus

/-- The instruction completes: from every state in which it is ready, `exec` answers the next state that its effect gives. -/
def Does (i : Instr) (s : State) (t : State) : Prop := Ready i s → exec i s = .next t

/-- The instruction issues, and its context interlocks on it until it can go on (R47): from every state in which it is ready, `exec` answers
the state that its wait leaves. -/
def Interlocks (i : Instr) (s : State) (t : State) : Prop := Does i s (t.isWaiting s.focus i)

/-- The instruction's one effect is a result of a distance (R44) with flags, and the PC goes on (R53). -/
def Results (i : Instr) (s : State) (dist : Nat) (x : RegWrite) (flags : BitVec 5) : Prop :=
  Does i s ((s.own.result s.focus dist x flags).advance s.focus i)

/-- An access of a context reaches storage at a key, in a state. -/
def Reaches (s t : State) (w : Who) (need : Need) (r : Reach) (va : Word) (n key : Nat) : Prop :=
  ∀ k progress, s.reachVa w need r va n k progress = k key t

/-- An address names a place, in a state (R141). -/
def Locates (s t : State) (w : Who) (need : Need) (va : Word) (l : Loc) : Prop :=
  ∀ tval k, s.locateVa w need va tval k = k l t

/-- A direct read of `n` bytes at an address delivers `x`, in a state. -/
def LoadsAs (s t : State) (w : Who) (va : Word) (n x : Nat) : Prop :=
  ∀ k progress, s.loadDirect w va n k progress = k x t

/-- A direct write of bytes at an address leaves its context, in a state. -/
def StoresAs (s t : State) (w : Who) (va : Word) (bytes : List Byte) : Prop :=
  ∀ k progress, s.storeDirect w va bytes k progress = k t

/-- An atomic at an address finds `old` and is performed, in a state. -/
def UpdatesAs (s t : State) (w : Who) (va : Word) (n : Nat) (f : Nat → Option Nat) (old : Nat) : Prop :=
  ∀ k, s.atomicDirect w va n f k = k old t

/-- A release of a scope by a context waits for nothing, in a state. -/
def Releases (s t : State) (w : Who) (sc : Scope) : Prop := ∀ k, s.release w sc k = k t

/-- A release of an object with some regions waits for nothing, in a state. -/
def ReleasesObject (s t : State) (w : Who) (regions : List (Nat × Nat)) : Prop := ∀ k, s.releaseObject w regions k = k t

/-- An offset of the own-scratchpad range of the aperture (R139) that an access of `n` bytes may touch: the core is mapped
and not being saved (R148). -/
def OwnScratch (s : State) (w : Who) (va : Word) (n off : Nat) : Prop :=
  va.toNat = ownAperture + off ∧ off + n ≤ 0x80000 ∧ w.core < 0x7FF ∧ (s.logicalOf w.core).isSome = true ∧ s.isSaving w.core = false

/-- A write at user privilege meets no shadow-stack area (R59). -/
def Writable (s : State) (w : Who) (n off : Nat) : Prop := s.pl w = 0 → inShadow off n = false

/-- The translation of an address has served a context (R154). -/
def State.arrived (s : State) (w : Who) (va : Word) : State :=
  (s.doneWalk (.ctx w) w.core va.toNat).fillL1 w.core (s.asid w.core) va.toNat

/-- An address of storage outside other cores' scratchpads has been reached: the context is held for none (R148). -/
def State.reached (s : State) (w : Who) (va : Word) : State := (s.arrived w va).unhold w

/-- Every result in flight of a context has instructions left to wait for (R44). -/
def Ctx.Timely (c : Ctx) : Prop := ∀ f ∈ c.hold.flights, 0 < f.left

/-! ## Exact values and their neighbours (R109, R116, R117) -/

/-- The magnitude that a code without its sign stands for in a format with infinities, in units of `2^-l`; the code of the infinity stands
for the power of two behind the largest number. -/
def Fp.magAt (f : Fp) (l c : Nat) : Nat :=
  (c % 2 ^ f.frac + if c / 2 ^ f.frac = 0 then 0 else 2 ^ f.frac) * 2 ^ (l + max (c / 2 ^ f.frac) 1 - f.bias - f.frac)

/-- A number in units of `2^-l` rounds to a code with its flags: to one of its two neighbours as the mode chooses, the even one at a tie;
beyond the largest number it overflows. It is tiny where it lies below the least normal number and, with an unbounded exponent, would not
round up to it (R116, R117). -/
def RoundsTo (f : Fp) (rm : Rounding) (l : Nat) (x : Int) (r : Rounded) : Prop :=
  let mag := f.magAt l
  let m := x.natAbs
  let sign := if x < 0 then 2 ^ (f.width - 1) else 0
  let away := match rm with
    | .rdn => decide (x < 0)
    | .rup => decide (0 ≤ x)
    | _ => false
  let huge : Rounded := (sign + (if rm = .rne ∨ away = true then f.infCode else f.maxCode), 0x05)
  let least := mag (2 ^ f.frac)
  let reaches := if rm = .rne then decide (4 * least ≤ 4 * m + mag 1) else away && decide (2 * least < 2 * m + mag 1)
  (mag f.infCode ≤ m → r = huge) ∧
  ∀ c ≤ f.maxCode, mag c ≤ m → m < mag (c + 1) →
    let up := if rm = .rne then decide (mag c + mag (c + 1) < 2 * m) || (decide (2 * m = mag c + mag (c + 1)) && decide (c % 2 = 1))
      else away && decide (mag c < m)
    let q := if up then c + 1 else c
    r = if f.maxCode < q then huge
      else (sign + q, (if mag c < m then 0x01 else 0) ||| (if mag c < m ∧ m < least ∧ reaches = false then 0x02 else 0))

/-- The number that a sign, a magnitude and an exponent stand for, in units of `2^-160`, of which every number of the formats with
infinities is a multiple. -/
def numAt (neg : Bool) (m : Nat) (e : Int) : Int :=
  if neg then -((m * 2 ^ (e + 160).toNat : Nat) : Int) else ((m * 2 ^ (e + 160).toNat : Nat) : Int)

/-- The sum, difference, product and fused product of numbers of a format are the exact ones, rounded once; an exact zero has the sign of
R116. With a NaN, with opposite infinities and with `0 × ∞` the canonical NaN results, and infinities go on otherwise (R116 to R118). -/
def RoundsOnce (f : Fp) : Prop :=
  let signed := fun (neg : Bool) (c : Nat) => (if neg then 2 ^ (f.width - 1) else 0) + c
  (∀ (rm : Rounding) (a b c : Nat) (sa sb sc : Bool) (ma mb mc : Nat) (ea eb ec : Int),
    f.value a = .fin sa ma ea → f.value b = .fin sb mb eb → f.value c = .fin sc mc ec →
    let x := numAt sa ma ea
    let y := numAt sb mb eb
    let z := numAt sc mc ec * 2 ^ 160
    let zero := fun (same : Bool) (s : Bool) => ((signed (if same then s else decide (rm = .rdn)) 0, 0) : Rounded)
    (x + y ≠ 0 → RoundsTo f rm 160 (x + y) (fpAdd f rm a b)) ∧
    (x + y = 0 → fpAdd f rm a b = zero (decide (x = 0 ∧ sa = sb)) sa) ∧
    (x - y ≠ 0 → RoundsTo f rm 160 (x - y) (fpSub f rm a b)) ∧
    (x - y = 0 → fpSub f rm a b = zero (decide (x = 0 ∧ sa ≠ sb)) sa) ∧
    (x * y ≠ 0 → RoundsTo f rm 320 (x * y) (fpMul f rm a b)) ∧
    (x * y = 0 → fpMul f rm a b = (signed (sa != sb) 0, 0)) ∧
    (x * y + z ≠ 0 → RoundsTo f rm 320 (x * y + z) (fpFma f rm a b c)) ∧
    (x * y + z = 0 → fpFma f rm a b c = zero (decide (z = 0 ∧ sc = (sa != sb))) sc)) ∧
  (∀ (rm : Rounding) (a b c : Nat),
    let u := f.value a
    let v := f.value b
    let w := f.value c
    let nan : BitVec 5 → Rounded := fun fl => (f.nanCode, fl)
    let nv := fun (p : Bool) => if p then 0x10#5 else 0
    let inf := fun (s : Bool) => ((signed s f.infCode, 0) : Rounded)
    let bad := (u.isZero = true ∧ ∃ s, v = .inf s) ∨ (v.isZero = true ∧ ∃ s, u = .inf s)
    ((u.isNan = true ∨ v.isNan = true) → fpAdd f rm a b = nan (nv (u.isSnan || v.isSnan)) ∧
      fpSub f rm a b = nan (nv (u.isSnan || v.isSnan)) ∧ fpMul f rm a b = nan (nv (u.isSnan || v.isSnan))) ∧
    (∀ s t, u = .inf s → v = .inf t → fpAdd f rm a b = (if s = t then inf s else nan 0x10) ∧
      fpSub f rm a b = (if s = t then nan 0x10 else inf s) ∧ fpMul f rm a b = inf (s != t)) ∧
    (∀ s t m e, u = .inf s → v = .fin t m e → fpAdd f rm a b = inf s ∧ fpSub f rm a b = inf s ∧
      fpMul f rm a b = if m = 0 then nan 0x10 else inf (s != t)) ∧
    (∀ s t m e, u = .fin t m e → v = .inf s → fpAdd f rm a b = inf s ∧ fpSub f rm a b = inf (!s) ∧
      fpMul f rm a b = if m = 0 then nan 0x10 else inf (s != t)) ∧
    (bad → fpFma f rm a b c = nan 0x10) ∧
    (¬ bad → (u.isNan = true ∨ v.isNan = true ∨ w.isNan = true) →
      fpFma f rm a b c = nan (nv (u.isSnan || v.isSnan || w.isSnan))) ∧
    (∀ s t m e, (u = .inf s ∧ v = .inf t) ∨ (u = .inf s ∧ v = .fin t (m + 1) e) ∨ (u = .fin s (m + 1) e ∧ v = .inf t) →
      (∀ p, w = .inf p → fpFma f rm a b c = if (s != t) = p then inf p else nan 0x10) ∧
      (∀ p n g, w = .fin p n g → fpFma f rm a b c = inf (s != t))) ∧
    (∀ s t p m n e g, u = .fin s m e → v = .fin t n g → w = .inf p → fpFma f rm a b c = inf p))

/-- Scale words at an address are read, in a state (R480). -/
def ScalesAs (s t : State) (w : Who) (base : Word) (n : Nat) (ws : List Nat) : Prop :=
  ∀ k, s.readScales w base n [] k = k ws t

/-- The own scratchpad can be read and written there without more: the address is aligned, its word carries no mark, and
nothing of the core is buffered or about to be misread. -/
def QuietScratch (s : State) (w : Who) (va : Word) (n off : Nat) : Prop :=
  OwnScratch s w va n off ∧ va.toNat % n = 0 ∧ (∀ j < n, s.memory.marked (spKey w.core (off + j)) = false) ∧
    (s.core w.core).requests = [] ∧ (s.core w.core).vaultRequests = [] ∧ (s.core w.core).marks.stripe = .clean

/-- An operand of a command is an address in the own scratchpad, at an offset of it, and nothing of the core is about to be misread (R139,
R161). -/
def OwnBase (s : State) (core : Nat) (va : Word) (o : Nat) : Prop :=
  va.toNat = ownAperture + o ∧ core < 0x7FF ∧ (s.logicalOf core).isSome = true ∧ (s.core core).resolved = [] ∧
    (s.core core).marks.stripe = .clean ∧ (s.core core).words = [] ∧ s.memory.wf = true

/-- So many bytes at an offset lie in the scratchpad and carry no mark (R165). -/
def OwnFree (s : State) (core o n : Nat) : Prop := o + n ≤ 0x80000 ∧ ∀ j < n, s.memory.marked (spKey core (o + j)) = false

/-- An engine command finds the space that it needs (R34, R193, R197), its guard is no reason to refuse it (R51), and where it reads storage of
the own core, no earlier write of its context there waits for a bank (R168, R283). -/
def State.room (s : State) (w : Who) (i : Instr) : Prop :=
  s.hasRoom w i = true ∧ (i.ownsRegister = true → ∀ g, i.guard = some g → s.q w g.slot ≠ .pending) ∧
    (readsOwn i = true → (s.flushOwn w).ownWaits w = false)

/-- The state in which a command is issued, and the command as its context reads it: where it reads storage of the own core, the context's
writes there have been performed (R203, R209, R283). -/
def State.issuing (s : State) (i : Instr) : State := if readsOwn i then s.own.flushOwn s.focus else s.own
def State.issued (s : State) (i : Instr) : Cmd := s.own.command s.focus i (s.own.queue s.focus.core i.queueOf).next

/-- A command enters its queue from a state: its context goes on, or interlocks until its register is written (R47). -/
def Enters (i : Instr) (s u : State) (c : Cmd) : Prop :=
  Does i s (let t := u.enqueue s.focus.core i.queueOf c
    if i.ownsRegister then t.inHand s.focus i else t.advance s.focus i)

/-- A handle register names a live record of the context's address space, once the core's earlier requests have reached its
unit (R246). -/
def Member (s u : State) (w : Who) (n rid : Nat) (h : Handle) (x : Group) : Prop :=
  ∀ k, s.checkHandle w n k = k h rid x u

/-- The word on top of a context's shadow stack, in the own scratchpad and not poisoned, is read (R58, R504). -/
def ShadowTop (s u : State) (w : Who) (top : Word) : Prop :=
  ∃ off, ((s.ctx w).trap.ssp - 8).toNat = ownAperture + off ∧ off < 0x80000 ∧
    (s.serveEarlier w (spKey w.core off) 8).earlierWaits w (spKey w.core off) 8 = false ∧
    (s.serveEarlier w (spKey w.core off) 8).poisonAt (spKey w.core off) 8 = (u, none) ∧ top = u.word (spKey w.core off)

/-- The inline frame that stands on top of a context's shadow stack, if one does (R36, R58). -/
def FrameIs (s u : State) (w : Who) (frame : Option Word) : Prop :=
  (s.shadowEmpty w = true ∧ u = s ∧ frame = none) ∨
  (s.shadowEmpty w = false ∧ ∃ top, ShadowTop s u w top ∧ frame = if top.getLsbD 0 then some top else none)

/-- The word of a `join` at an address is found, and holds more than zero (R413). -/
def JoinsAt (s t : State) (w : Who) (va : Word) (key : Nat) : Prop := ∀ k, s.joinWord w va k = k key t

/-- The credit that a `put` or a copy names: none, or the handle of a membership (R263, R278). -/
def CreditIs (s : State) (w : Who) (hc : Option Nat) (credit : Option Word) : Prop :=
  match hc with
  | none => credit = none
  | some n => (s.h w n).value ≠ 0 ∧ (s.h w n).kind = .member ∧ credit = some (s.h w n).value

/-- The words of a payload in the own scratchpad are read, in a state (R265). -/
def PayloadIs (s t : State) (w : Who) (vas ws : List Word) : Prop := ∀ k, State.ownPayload w vas [] s k = k ws t

/-- The words of a descriptor in the own scratchpad are read, in a state, and the issue ends as they make it end (R276, R464). -/
def DescIs (s t : State) (w : Who) (va : Word) (from_ : Nat) (l : List (Nat × Nat)) (m m' : Store Word) : Prop :=
  ∀ k u, k m' t = .done u → State.readDesc w va from_ l m s k = .done u

/-- Nothing but one context differs. -/
def OnlyCtx (s t : State) (w : Who) : Prop := t = s.setCtx w (t.ctx w)

/-- Nothing but one core differs. -/
def OnlyCore (s t : State) (k : Nat) : Prop := t = s.setCore k (t.core k)

/-- The machine's canonical form: memory rises strictly and lists no byte that an unlisted address reads as. -/
def State.Canonical (s : State) : Prop := s.memory.wf = true

end Sys2Proof.Machine

namespace Sys2Proof
open Machine

/-- The integer forms (class 0x080, but for its FP forms). -/
def Instr.isInteger : Instr → Bool
  | .add .. | .addi .. | .and .. | .andi .. | .bext .. | .bins .. | .clz .. | .cmp .. | .div .. | .divu .. | .lea .. | .leaPc ..
  | .li .. | .li64 .. | .madd .. | .max .. | .maxu .. | .min .. | .minu .. | .mul .. | .mulh .. | .mulhu .. | .or .. | .ori ..
  | .popc .. | .rem .. | .remu .. | .rot .. | .sel .. | .shl .. | .shlImm .. | .shr .. | .shrImm .. | .sra .. | .sraImm ..
  | .sub .. | .xor .. | .xori .. => true
  | _ => false

/-- The commands whose issue is no more than entering their queue. -/
def Instr.plainCommand : Instr → Bool
  | .cbcfg .. | .cbrel .. | .mdrain .. | .mdrainr .. | .mld .. | .mma .. | .mrecv .. | .msa .. | .mz .. | .mzPb .. | .tst ..
  | .apClr .. | .apCmp .. | .apCnt .. | .apFirst .. | .apLd .. | .apMax .. | .apMcode .. | .apSeq .. | .apSt .. | .apTg ..
  | .apWr .. => true
  | _ => false

/-- The destination of a form whose one effect is a result in a register. -/
def Instr.resultReg : Instr → Option RegName
  | .add d _ _ | .addi d _ _ | .and d _ _ | .andi d _ _ | .bext d _ _ _ | .bins d _ _ _ | .clz d _ | .cmp _ d _ _
  | .div d _ _ | .divu d _ _ | .lea d _ _ | .leaPc d _ | .li d _ | .li64 d _ | .madd d _ _ _ | .max d _ _ | .maxu d _ _
  | .min d _ _ | .minu d _ _ | .mul d _ _ | .mulh d _ _ | .mulhu d _ _ | .or d _ _ | .ori d _ _ | .popc d _ | .rem d _ _
  | .remu d _ _ | .rot d _ _ | .sel d _ _ _ | .shl d _ _ | .shlImm d _ _ | .shr d _ _ | .shrImm d _ _ | .sra d _ _
  | .sraImm d _ _ | .sub d _ _ | .xor d _ _ | .xori d _ _ => some (.g d)
  | .vabs _ d _ | .vadd _ _ d _ _ | .vand d _ _ | .vbc _ d _ | .vclamp _ d _ _ _ | .vcvt _ _ _ _ d _ | .vfma _ _ d _ _ _
  | .vins d _ _ | .vmax _ d _ _ | .vmin _ d _ _ | .vmov d _ | .vmul _ _ d _ _ | .vneg _ d _ | .vor d _ _ | .vperm d _ _
  | .vrot d _ _ | .vscan _ _ d _ | .vsel d _ _ _ | .vshl _ d _ _ | .vshr _ d _ _ | .vsub _ _ d _ _ | .vxor d _ _ =>
    some (.v d)
  | .vdot _ _ d _ _ _ | .vext d _ _ | .vpcnt d _ | .vpfirst d _ | .vred _ _ d _ => some (.g d)
  | .vcmp _ _ d _ _ => some (.p d)
  | .fadd _ d _ _ | .fcmp _ d _ _ | .fcvt _ _ _ d _ | .ffma _ d _ _ _ | .fmax d _ _ | .fmin d _ _ | .fmul _ d _ _
  | .fsub _ d _ _ => some (.g d)
  | _ => none

end Sys2Proof
end

