-- ==== Sys2Proof/Certificates/Slice0/Obligations.lean ====
section
/-! DEFINITION. The statements for the provers. -/

open Sys2Proof Sys2Proof.Machine

/-- R346, R422, R425, R444, R500: sums, differences, logic, constants and addresses, with result distance 1. -/
def Obligations.IntegerSumsAndLogic : Prop :=
  ∀ (s : State) (d a b : Nat) (imm : Int) (u : Nat),
    let g := s.own.g s.focus
    let pc := (s.own.ctx s.focus).pc
    Results (.add d a b) s 1 (.g d (g a + g b)) 0 ∧
    Results (.addi d a imm) s 1 (.g d (g a + BitVec.ofInt 64 imm)) 0 ∧
    Results (.sub d a b) s 1 (.g d (g a - g b)) 0 ∧
    Results (.and d a b) s 1 (.g d (g a &&& g b)) 0 ∧
    Results (.andi d a u) s 1 (.g d (g a &&& BitVec.ofNat 64 u)) 0 ∧
    Results (.or d a b) s 1 (.g d (g a ||| g b)) 0 ∧
    Results (.ori d a u) s 1 (.g d (g a ||| BitVec.ofNat 64 u)) 0 ∧
    Results (.xor d a b) s 1 (.g d (g a ^^^ g b)) 0 ∧
    Results (.xori d a u) s 1 (.g d (g a ^^^ BitVec.ofNat 64 u)) 0 ∧
    Results (.li d imm) s 1 (.g d (BitVec.ofInt 64 imm)) 0 ∧
    Results (.li64 d u) s 1 (.g d (BitVec.ofNat 64 u)) 0 ∧
    Results (.lea d a imm) s 1 (.g d (g a + BitVec.ofInt 64 imm)) 0 ∧
    Results (.leaPc d imm) s 1 (.g d (pc + BitVec.ofInt 64 imm)) 0

/-- R391, R425, R441: products keep their low or high half, division rounds towards zero, and division by zero gives
all ones and leaves the dividend as the remainder. Each clause is over the integers. -/
def Obligations.IntegerProductsAndQuotients : Prop :=
  ∀ (s : State) (d a b c : Nat),
    let g := s.own.g s.focus
    (∃ x : Word, x.toNat = (g a).toNat * (g b).toNat % 2 ^ 64 ∧ Results (.mul d a b) s 3 (.g d x) 0) ∧
    (∃ x : Word, x.toInt = (g a).toInt * (g b).toInt / 2 ^ 64 ∧ Results (.mulh d a b) s 3 (.g d x) 0) ∧
    (∃ x : Word, x.toNat = (g a).toNat * (g b).toNat / 2 ^ 64 ∧ Results (.mulhu d a b) s 3 (.g d x) 0) ∧
    (∃ x : Word, x.toNat = ((g a).toNat * (g b).toNat + (g c).toNat) % 2 ^ 64 ∧
      Results (.madd d a b c) s 3 (.g d x) 0) ∧
    (∃ q r : Word, (g b ≠ 0 → q = BitVec.ofInt 64 (Int.tdiv (g a).toInt (g b).toInt) ∧
          r.toInt = Int.tmod (g a).toInt (g b).toInt) ∧
        (g b = 0 → q = BitVec.allOnes 64 ∧ r = g a) ∧
        Results (.div d a b) s 1 (.g d q) 0 ∧ Results (.rem d a b) s 1 (.g d r) 0) ∧
    (∃ q r : Word, (g b ≠ 0 → (g a).toNat = q.toNat * (g b).toNat + r.toNat ∧ r.toNat < (g b).toNat) ∧
        (g b = 0 → q = BitVec.allOnes 64 ∧ r = g a) ∧
        Results (.divu d a b) s 1 (.g d q) 0 ∧ Results (.remu d a b) s 1 (.g d r) 0)

/-- R369, R383, R425, R441, R444: shifts, rotation, bit fields, counts, comparisons, minima and selection. Bit `k` of
a register is `getLsbD k`. R91, R366: the ten integer conditions over the integers that the operands stand for. -/
def Obligations.IntegerBitsAndComparisons : Prop :=
  (∀ (s : State) (d a b c n pos w : Nat) (cc : IntCond), pos + w ≤ 64 → n < 64 →
     let g := s.own.g s.focus
     let m := (g b).toNat % 64
     Results (.shl d a b) s 1 (.g d (g a <<< m)) 0 ∧
     Results (.shlImm d a n) s 1 (.g d (g a <<< n)) 0 ∧
     Results (.shr d a b) s 1 (.g d (g a >>> m)) 0 ∧
     Results (.shrImm d a n) s 1 (.g d (g a >>> n)) 0 ∧
     Results (.sra d a b) s 1 (.g d ((g a).sshiftRight m)) 0 ∧
     Results (.sraImm d a n) s 1 (.g d ((g a).sshiftRight n)) 0 ∧
     (∃ x : Word, (∀ k < 64, x.getLsbD k = (g a).getLsbD ((k + m) % 64)) ∧ Results (.rot d a b) s 1 (.g d x) 0) ∧
     (∃ x : Word, (∀ k < 64, x.getLsbD k = (decide (k < w) && (g a).getLsbD (k + pos))) ∧
       Results (.bext d a pos w) s 1 (.g d x) 0) ∧
     (∃ x : Word, (∀ k < 64, x.getLsbD k =
         if pos ≤ k ∧ k < pos + w then (g a).getLsbD (k - pos) else (g d).getLsbD k) ∧
       Results (.bins d a pos w) s 1 (.g d x) 0) ∧
     (∃ x : Word, x.toNat = ((List.range 64).filter (fun k => (g a).getLsbD k)).length ∧
       Results (.popc d a) s 1 (.g d x) 0) ∧
     (∃ x : Word, x.toNat ≤ 64 ∧ (∀ k < x.toNat, (g a).getLsbD (63 - k) = false) ∧
       (x.toNat < 64 → (g a).getLsbD (63 - x.toNat) = true) ∧ Results (.clz d a) s 1 (.g d x) 0) ∧
     Results (.cmp cc d a b) s 1 (.g d (if intHolds cc (g a) (g b) then 1 else 0)) 0 ∧
     (∃ x : Word, x.toInt = max (g a).toInt (g b).toInt ∧ Results (.max d a b) s 1 (.g d x) 0) ∧
     (∃ x : Word, x.toInt = min (g a).toInt (g b).toInt ∧ Results (.min d a b) s 1 (.g d x) 0) ∧
     (∃ x : Word, x.toNat = max (g a).toNat (g b).toNat ∧ Results (.maxu d a b) s 1 (.g d x) 0) ∧
     (∃ x : Word, x.toNat = min (g a).toNat (g b).toNat ∧ Results (.minu d a b) s 1 (.g d x) 0) ∧
     Results (.sel d a b c) s 1 (.g d (if g c ≠ 0 then g a else g b)) 0) ∧
  (∀ a b : Word,
     (intHolds .eq a b = true ↔ a = b) ∧ (intHolds .ne a b = true ↔ a ≠ b) ∧
     (intHolds .lt a b = true ↔ a.toInt < b.toInt) ∧ (intHolds .ge a b = true ↔ b.toInt ≤ a.toInt) ∧
     (intHolds .gt a b = true ↔ b.toInt < a.toInt) ∧ (intHolds .le a b = true ↔ a.toInt ≤ b.toInt) ∧
     (intHolds .ltu a b = true ↔ a.toNat < b.toNat) ∧ (intHolds .geu a b = true ↔ b.toNat ≤ a.toNat) ∧
     (intHolds .gtu a b = true ↔ b.toNat < a.toNat) ∧ (intHolds .leu a b = true ↔ a.toNat ≤ b.toNat))

/-- R112, R116, R117, R118, R119, R120, R121, R395, R396: each scalar FP form writes its rounded result, zero-extended
(an INT32 sign-extended), with its flags, at distance 4, or at once where a substitute computes it (R326). A sum,
difference, product and fused product is the exact one rounded once. No upset strikes. R119, R118: NaN operands of a
comparison and of a selection. A comparison with a NaN is false but for `ne` and `un`, and sets NV for a signalling
NaN or an ordered relation; a selection gives the other operand, or the canonical NaN. -/
def Obligations.ScalarFpForms : Prop :=
  (∀ (s : State) (rm : Rounding) (fc : FpCond) (dst src : FcvtType) (d a b c : Nat),
     (s.own.core s.focus.core).marks.upsets = [] →
     let g := fun n => f32Of (s.own.g s.focus n)
     let z := fun n => BitVec.ofNat 64 n
     let dist := if s.own.quarantined s.focus.core 0 then 1 else 4
     let add := fpAdd .f32 rm (g a) (g b)
     let sub := fpSub .f32 rm (g a) (g b)
     let mul := fpMul .f32 rm (g a) (g b)
     let fma := fpFma .f32 rm (g a) (g b) (g c)
     let hi := fpSelect .f32 true (g a) (g b)
     let lo := fpSelect .f32 false (g a) (g b)
     let holds := fpCond fc (Fp.f32.value (g a)) (Fp.f32.value (g b))
     let conv := convertTo dst.elem rm false (src.elem.val ((s.own.g s.focus a).toNat % 2 ^ src.elem.bits))
     Results (.fadd rm d a b) s dist (.g d (z add.1)) add.2 ∧
     Results (.fsub rm d a b) s dist (.g d (z sub.1)) sub.2 ∧
     Results (.fmul rm d a b) s dist (.g d (z mul.1)) mul.2 ∧
     Results (.ffma rm d a b c) s dist (.g d (z fma.1)) fma.2 ∧
     Results (.fmax d a b) s dist (.g d (z hi.1)) hi.2 ∧
     Results (.fmin d a b) s dist (.g d (z lo.1)) lo.2 ∧
     Results (.fcmp fc d a b) s dist (.g d (if holds.1 then 1 else 0)) holds.2 ∧
     Results (.fcvt dst src rm d a) s dist
       (.g d (if dst = .i32 then BitVec.ofInt 64 (signOf 32 conv.1) else z conv.1)) conv.2 ∧
     RoundsOnce .f32) ∧
  (∀ (fc : FpCond) (a b : Nat) (wantMax : Bool),
     ((Fp.f32.value a).isNan = true ∨ (Fp.f32.value b).isNan = true) →
     (fpCond fc (Fp.f32.value a) (Fp.f32.value b)).1 = (match fc with | .ne => true | .un => true | _ => false) ∧
     ((fpCond fc (Fp.f32.value a) (Fp.f32.value b)).2 = fNV ↔
       ((Fp.f32.value a).isSnan = true ∨ (Fp.f32.value b).isSnan = true ∨ fc = .lt ∨ fc = .ge ∨ fc = .gt ∨ fc = .le)) ∧
     (fpSelect .f32 wantMax a b).1 =
       (if (Fp.f32.value a).isNan then (if (Fp.f32.value b).isNan then 0x7FC00000 else b) else a))

/-- R44, R45: a register reads a result of distance 1 at once; one of a greater distance is in flight until it lands,
and the register keeps its value until then. R45: the later of two writes to a register stays from the moment it
lands, whatever the distances of the two. R44: a result in flight is always ahead of its context: it has instructions
left to wait for. A context at reset has none, and issuing and writing keep it so. R48, R269: while STATUS.HZD is set,
an instruction that reads a register with a result in flight takes HAZARD, with that register in TVAL, and with the
restart progress passed on to it where there is some (R55), and none of its own effect; while it is clear, none does.
A write of `g0` or `p0`, though ignored, counts as a result in flight (DESIGN CHOICE, notes/assumptions/155.md). The
end of a task that owes a reply reads the registers of the reply. R60: `g0` reads 0 and `p0` all ones, and they take
no write. -/
def Obligations.ResultDistances : Prop :=
  (∀ (c : Ctx) (n d : Nat) (x : Word) (f : BitVec 5), c.Timely →
     ((c.result 1 (.g n x) f).regs.g.get 0 n = if n = 0 then c.regs.g.get 0 0 else x) ∧
     (c.result 1 (.g n x) f).hold.inFlight (.g n) = false ∧
     (2 ≤ d → (c.result d (.g n x) f).regs = c.regs ∧
       (c.result d (.g n x) f).hold.inFlight (.g n) = true) ∧
     (c.hold.flights = [] → n ≠ 0 →
       ((c.result 3 (.g n x) f).begun.begun.hold.inFlight (.g n) = true ∧
        (c.result 3 (.g n x) f).begun.begun.regs.g.get 0 n = c.regs.g.get 0 n ∧
        (c.result 3 (.g n x) f).begun.begun.begun.hold.inFlight (.g n) = false ∧
        (c.result 3 (.g n x) f).begun.begun.begun.regs.g.get 0 n = x))) ∧
  (∀ (c : Ctx) (n d d' : Nat) (x y : Word) (f f' : BitVec 5), c.Timely → n ≠ 0 →
     ∀ k, (d' ≤ k ∨ d' ≤ 1) → let c' := (c.result d (.g n x) f).result d' (.g n y) f'
       (Nat.repeat Ctx.begun k c').regs.g.get 0 n = y) ∧
  ((∀ w : Who, (State.reset.ctx w).Timely) ∧
   ∀ (c : Ctx) (d : Nat) (x : RegWrite) (f : BitVec 5),
     c.begun.Timely ∧ c.landAll.Timely ∧ (c.Timely → (c.result d x f).Timely)) ∧
  ((∀ (i : Instr) (s : State),
      let w := s.focus
      (∀ r, w.returnsAt i = false → (i.supervisorOnly = true → s.pl w ≠ 0) → s.hazard w i = some r →
        r ∈ s.readsOf w i ∧ (s.own.ctx w).hold.inFlight r = true ∧
        exec i s = .next (s.own.trapSync w 0x08 (tvalAt (s.ctx w).hold.progress (hazardTval r)))) ∧
      ((s.ctx w).status.hzd = true → (∃ r ∈ s.readsOf w i, (s.own.ctx w).hold.inFlight r = true) → (s.hazard w i).isSome = true) ∧
      ((s.ctx w).status.hzd = false → s.hazard w i = none) ∧
      (∀ r, (s.ctx w).reply = some r → r.sent = false → r.nr = false → s.readsOf w .hret = [.g 1, .g 2, .g 3, .g 4] ∧
        ((s.ctx w).status.intrap = false → s.readsOf w .hexit = [.g 1, .g 2, .g 3, .g 4]))) ∧
   (∀ (s : State) (w : Who) (c : Ctx) (d : Nat) (x : Word) (f : BitVec 5),
      s.g w 0 = 0 ∧ s.p w 0 = BitVec.allOnes 64 ∧ (c.result d (.g 0 x) f).landAll.regs.g.get 0 0 = c.landAll.regs.g.get 0 0 ∧
      (c.result d (.p 0 x) f).landAll.regs.p.get allOnes 0 = c.landAll.regs.p.get allOnes 0))

/-- The frame of the forms whose one effect is a result in a register: integer, scalar FP, and vector forms that touch
no memory. Memory, every other core and context, and in the context every other register, the guards, handles and
table bindings, trap registers, STATUS apart from FFLAGS, pending traps and remote operations stay; PC and loops go on
as R53 says; an integer form sets no flag. Upsets that a shadow check meets are spent (R321). -/
def Obligations.RegisterFormFrame : Prop :=
  ∀ (i : Instr) (s t : State) (r : RegName), i.resultReg = some r → Ready i s → exec i s = .next t →
    let w := s.focus
    let c := s.ctx w
    let c' := t.ctx w
    let next := c.loopEnd (c.pc + BitVec.ofNat 64 (Sys2Proof.sizeOf i))
    t.memory = s.memory ∧ OnlyCore s t w.core ∧
    (∃ u, t.core w.core = { (s.core w.core).setCtx w.slot c' with marks := { (s.core w.core).marks with upsets := u } }) ∧
    (∀ n, r ≠ .g n → c'.regs.g.get 0 n = c.begun.regs.g.get 0 n) ∧
    (∀ n, r ≠ .v n → c'.regs.v.get 0 n = c.begun.regs.v.get 0 n) ∧
    (∀ n, r ≠ .p n → c'.regs.p.get allOnes n = c.begun.regs.p.get allOnes n) ∧
    c'.regs.q = c.regs.q ∧ c'.regs.h = c.regs.h ∧ c'.regs.tb = c.regs.tb ∧ c'.trap = c.trap ∧ c'.live = c.live ∧
    c'.status = { c.status with fflags := c'.status.fflags } ∧
    (i.isInteger = true → c'.status.fflags = c.begun.status.fflags) ∧
    c'.hold.pending = c.hold.pending ∧ c'.remote = c.remote ∧ c'.held = c.held ∧ c'.reply = c.reply ∧
    c'.pc = next.pc ∧ c'.lc0 = next.lc0 ∧ c'.lc1 = next.lc1

/-- R49, R366, R415, R432, R433, R434, R501: branches, `jr`, and the forms that only go on, clear or set a guard, or
yield. A guard slot that is changed reads as before for one cycle more, and then as it was set. -/
def Obligations.BranchesAndGuards : Prop :=
  ∀ (s : State) (cc : IntCond) (mc : MaskCond) (a b p q : Nat) (off : Int),
    let w := s.focus
    let o := s.own
    let pc := (o.ctx w).pc
    let dest := o.setPc w (pc + BitVec.ofInt 64 (8 * off))
    let m := o.p w p
    Does (.bcmp cc a b off) s (if intHolds cc (o.g w a) (o.g w b) then dest else o.advance w (.bcmp cc a b off)) ∧
    Does (.bpred .any p off) s (if m ≠ 0 then dest else o.advance w (.bpred .any p off)) ∧
    Does (.bpred .all p off) s (if m = BitVec.allOnes 64 then dest else o.advance w (.bpred .all p off)) ∧
    Does (.bpred .none p off) s (if m = 0 then dest else o.advance w (.bpred .none p off)) ∧
    Does (.bpred .nall p off) s (if m ≠ BitVec.allOnes 64 then dest else o.advance w (.bpred .nall p off)) ∧
    Does (.br off) s dest ∧
    ((o.g w a).toNat % 8 = 0 → Does (.jr a) s (o.setPc w (o.g w a))) ∧
    ((o.g w a).toNat % 8 ≠ 0 → Does (.jr a) s (o.trapSync w cMisaligned (o.g w a))) ∧
    Does .nop s (o.advance w .nop) ∧
    Does .yield s ((o.modHold w (fun h => { h with yields := 7 })).advance w .yield) ∧
    Does (.qclr q) s ((o.setGuard w q .pending).advance w (.qclr q)) ∧
    Does (.qset q a) s ((o.setGuard w q (if o.g w a = 0 then .no else .yes)).advance w (.qset q a)) ∧
    (∀ x k,
      let z : State := { o.setGuard w q x with clock := o.clock + k }
      (2 ≤ k → z.q w q = x) ∧
      (k < 2 → (o.ctx w).hold.guards = [] → z.q w q = (o.ctx w).regs.q.get .no q))

/-- R53: the loop-end check at a sequential successor, inner loop first; a taken branch makes none. -/
def Obligations.LoopEndCheck : Prop :=
  (∀ (s : State) (w : Who) (i : Instr) (target : Word),
     (s.advance w i).ctx w = (s.ctx w).loopEnd ((s.ctx w).pc + BitVec.ofNat 64 (Sys2Proof.sizeOf i)) ∧
     (s.setPc w target).ctx w = { s.ctx w with pc := target }) ∧
  ∀ (c : Ctx) (next : Word),
    let hit := fun (l : Loop) => l.active = true ∧ next = l.last
    let e := c.loopEnd next
    (hit c.lc1 → c.lc1.count ≠ 0 → e = { c with lc1 := { c.lc1 with count := c.lc1.count - 1 }, pc := c.lc1.first }) ∧
    (¬ hit c.lc1 → hit c.lc0 → c.lc0.count ≠ 0 →
      e = { c with lc0 := { c.lc0 with count := c.lc0.count - 1 }, pc := c.lc0.first }) ∧
    (¬ hit c.lc1 → hit c.lc0 → c.lc0.count = 0 → e = { c with lc0 := { c.lc0 with active := false }, pc := next }) ∧
    (hit c.lc1 → c.lc1.count = 0 → e.lc1.active = false ∧
      (hit c.lc0 → c.lc0.count ≠ 0 → e.pc = c.lc0.first ∧ e.lc0.count = c.lc0.count - 1) ∧
      (hit c.lc0 → c.lc0.count = 0 → e.pc = next ∧ e.lc0.active = false) ∧
      (¬ hit c.lc0 → e.pc = next ∧ e.lc0 = c.lc0)) ∧
    (¬ hit c.lc1 → ¬ hit c.lc0 → e = { c with pc := next })

/-- R52, R72, R417, R423: `loop` opens a loop over the code up to its end, or passes it when the count is 0; `lbrk`
closes a loop, an outer one with its inner one. LS and LE hold bits [56:3] of their addresses. -/
def Obligations.LoopsOpenAndClose : Prop :=
  ∀ (s : State) (n k : Nat) (off : Int),
    let w := s.focus
    let o := s.own
    let x := o.ctx w
    let count := o.g w k
    let last := x.pc + BitVec.ofInt 64 (8 * off)
    let next := x.pc + 8
    let l : Loop := { count := (count - 1).setWidth 32, active := true, first := next &&& 0x1FFFFFFFFFFFFF8,
                      last := last &&& 0x1FFFFFFFFFFFFF8 }
    (n ≤ 1 → count ≤ 0xFFFFFFFF#64 → next < last → (x.loop n).active = false →
      (n = 0 → x.lc1.active = false) → (n = 1 → x.lc0.active = true → last ≤ x.lc0.last) →
      (count = 0 → Does (.loop n k off) s (o.setPc w last)) ∧
      (count ≠ 0 → Does (.loop n k off) s
        ((o.modCtx w (fun y => if n = 0 then { y with lc0 := l } else { y with lc1 := l })).advance w (.loop n k off)))) ∧
    ((x.loop n).active = true → n ≤ 1 →
      ∃ t, Does (.lbrk n) s t ∧ (t.ctx w).pc = (x.loop n).last ∧ (t.ctx w).lc1.active = false ∧
        (n = 0 → (t.ctx w).lc0.active = false) ∧ (n = 1 → (t.ctx w).lc0 = x.lc0) ∧ OnlyCtx o t w) ∧
    ((x.loop n).active = false → Does (.lbrk n) s (o.trapSync w cIllegalOperand (BitVec.ofNat 64 n)))

/-- R58, R375, R442: a call links, pushes the return address on the shadow stack and jumps; a return whose link equals
the top pops it and jumps there. R58: a call on a full shadow stack, and a return from an empty one, into an inline
frame or to another link, take CONTROL_INTEGRITY with the TVAL of the rule. -/
def Obligations.CallsAndReturns : Prop :=
  (∀ (s : State) (a : Nat) (off : Int) (at_ : Nat),
     let w := s.focus
     let o := s.own
     let x := o.ctx w
     let next := x.pc + 8
     let push : Req := { kind := .store, who := w, gen := x.hold.gen, va := x.trap.ssp, key := spKey w.core at_,
                         bytes := natLE 8 next.toNat }
     let pushed := (o.sendReq push).modTrap w (fun t => { t with ssp := t.ssp + 8 })
     (x.trap.ssp ≠ x.trap.sslim → x.trap.ssp.toNat = ownAperture + at_ → at_ < 0x80000 →
       Does (.call off) s ((pushed.setG w 31 next).setPc w (x.pc + BitVec.ofInt 64 (8 * off))) ∧
       ((o.g w a).toNat % 8 = 0 → Does (.callr a) s ((pushed.setG w 31 next).setPc w (o.g w a)))) ∧
     (∀ (u : State) (top : Word), o.shadowEmpty w = false → ShadowTop o u w top → top = o.g w 31 → top.toNat % 8 = 0 →
       Does .ret s ((u.modTrap w (fun t => { t with ssp := t.ssp - 8 })).setPc w (o.g w 31)))) ∧
  (∀ (s : State) (off : Int),
     let w := s.focus
     let o := s.own
     let x := o.ctx w
     (x.trap.ssp = x.trap.sslim → Does (.call off) s (o.trapSync w cControlIntegrity (x.trap.ssp ||| 0x4000000000000000))) ∧
     (x.trap.ssp = x.trap.sslim - 0x200 → Does .ret s (o.trapSync w cControlIntegrity (x.trap.ssp ||| 0x8000000000000000))) ∧
     (∀ (u : State) (top : Word), o.shadowEmpty w = false → ShadowTop o u w top →
       (top.getLsbD 0 = true → Does .ret s (u.trapSync w cControlIntegrity (top ||| 0xC000000000000000))) ∧
       (top.getLsbD 0 = false → top ≠ o.g w 31 → Does .ret s (u.trapSync w cControlIntegrity top))))

/-- R30, R36, R402, R411: `fork` queues the other arm as a task while the deque has room, and runs it inline behind a
full one; `hstart` starts the lowest free helper and gives its number, or 0, behind its context's writes to the own
scratchpad, for which it waits. R31, R36, R37, R38, R58, R409, R412, R413, R414: the end of a task frees its context,
an inline arm goes on behind its `fork`, a shipped handler replies, the control context waits for the end of the part;
`idle` goes on when something is there. A `join` of a helper, or of an inline arm of the control context, goes on if
it lowers its word to zero and finds it full, and ends its arm otherwise; `join.w`, and a `join` of the control
context itself, lowers the word, and goes on or waits until it is full; restarted, it only waits. -/
def Obligations.TasksStartAndEnd : Prop :=
  (∀ (s : State) (ns : Bool) (j d at_ : Nat) (off : Int),
     let w := s.focus
     let o := s.own
     let x := o.ctx w
     let i := Instr.fork ns j off
     let task : TaskRecord := { pc := x.pc + BitVec.ofInt 64 (8 * off), args := [1, 2, 3, 4].map (o.g w),
                                stackless := ns, join := o.g w j, pl := x.status.pl }
     let push : Req := { kind := .store, who := w, gen := x.hold.gen, va := x.trap.ssp, key := spKey w.core at_,
                         bytes := natLE 8 ((x.pc + 8) ||| 1).toNat }
     ((o.core w.core).part.deque.length < 32 → Does i s
       ((o.modPart w.core (fun p => { p with
           deque := p.deque ++ [task], steal := { p.steal with waiting := false } })).advance w i)) ∧
     (32 ≤ (o.core w.core).part.deque.length → x.trap.ssp ≠ x.trap.sslim → x.trap.ssp.toNat = ownAperture + at_ →
       at_ < 0x80000 → Does i s
         ((((o.sendReq push).modTrap w (fun t => { t with ssp := t.ssp + 8 })).setG w 5 task.join).setPc w task.pc)) ∧
     (o.freeHelper w.core = none →
       Does (.hstart d off) s ((o.result w 3 (.g d 0)).advance w (.hstart d off))) ∧
     (∀ k, o.freeHelper w.core = some k →
       let mine := fun (r : Req) => isSp r.key && decide (r.who = w)
       let u := o.performWhere w.core mine
       (u.buffers w.core mine = true → Interlocks (.hstart d off) s (s.performWhere w.core mine)) ∧
       (u.buffers w.core mine = false → Does (.hstart d off) s (((u.startTask ⟨w.core, k⟩
         { task with args := [1, 2, 3, 4].map (u.g w), stackless := false, join := 0,
                     pc := (u.ctx w).pc + BitVec.ofInt 64 (8 * off), pl := u.pl w }).result w 3
         (.g d (BitVec.ofNat 64 k))).advance w (.hstart d off)))) ∧
     (∀ k, o.freeHelper w.core = some k → 1 ≤ k ∧ k ≤ 10 ∧ (o.ctx ⟨w.core, k⟩).live = false ∧
       ∀ m, 1 ≤ m → m < k → (o.ctx ⟨w.core, m⟩).live = true)) ∧
  (∀ (s : State) (a : Nat) (off : Int),
     let w := s.focus
     let o := s.own
     let x := o.ctx w
     let here := (x.pc, o.g w a)
     let j := if x.hold.joinAt = some here then o else o.modHold w (fun h => { h with joinAt := none })
     (∀ (z : State) (top : Word), z.endTask w none = z.freeContext w ∧
       z.endTask w (some top) = (z.modTrap w (fun t => { t with ssp := t.ssp - 8 })).setPc w (top &&& ~~~1)) ∧
     (x.status.intrap = false → x.reply = none → w.slot = 0 → Does .hexit s (o.inHand w .hexit)) ∧
     (∀ u frame, x.status.intrap = false → x.reply = none → w.slot ≠ 0 → FrameIs o u w frame →
       Does .hexit s (u.endTask w frame)) ∧
     (∀ u v r frame, x.status.intrap = false → x.reply = some r → w.isHandler = false → FrameIs o u w frame →
       Releases u v w .domain → Does .hexit s (v.endReply w r frame)) ∧
     (x.status.intrap = true → Does .hexit s (o.kill w)) ∧
     (((o.core w.core).part.mail.anyPresent = true ∨ x.hold.anyPending = true) → Does .idle s (o.advance w .idle)) ∧
     ((o.core w.core).part.mail.anyPresent = false → x.hold.anyPending = false → Does .idle s (o.inHand w .idle)) ∧
     (∀ (e u v : State) (key : Nat),
       ((w.slot ≠ 0 ∧ e = j) ∨ (w.slot = 0 ∧ ∃ top, FrameIs j e w (some top))) →
       Releases e u w (e.taskScope w.core) → JoinsAt u v w (o.g w a) key →
       let z := v.modHold w (fun h => { h with joinAt := none })
       (z.word key = 1 → z.memory.isFull key = true → Does (.join false a off) s ((z.lower key).joinOn w off)) ∧
       (∀ q frame, ¬ (z.word key = 1 ∧ z.memory.isFull key = true) → FrameIs z q w frame →
         let y := q.lower key
         Does (.join false a off) s ((if y.word key = 0 then (y.setFull key true).serveWords key else y).endTask w frame))) ∧
     (∀ (b : Bool) (e u v : State) (key : Nat),
       let watch := fun (z : State) => if z.memory.isFull key then z.joinOn w off
         else (z.modHold w (fun h => { h with hand := some (.join b a off), joinAt := some here })).modCore (keyCore key)
           (fun c => { c with words := c.words ++ [{ key, who := w, instr := .join b a off, va := o.g w a }] })
       ((b = true ∧ e = j) ∨ (b = false ∧ w.slot = 0 ∧ FrameIs j e w none)) →
       ((e.ctx w).hold.joinAt ≠ some here → Releases e u w (e.taskScope w.core) → JoinsAt u v w (o.g w a) key →
         let y := v.lower key
         Does (.join b a off) s (watch ((y.setFull key (decide (y.word key = 0))).serveWords key))) ∧
       ((e.ctx w).hold.joinAt = some here → Reaches e v w { write := true } .remote (o.g w a) 8 key →
         Does (.join b a off) s (watch v))))

/-- R177, R313, R316: taking a trap on a context saves EPC, TCAUSE, TVAL and the privilege, sets INTRAP, goes to TVEC
at supervisor privilege, or to the firmware vector where TVEC is 0 or the context ran at firmware privilege. The
results in flight have landed, an access that the context waited with is given up, and storage and the other contexts
stay. R314, R318: a trap whose trapping instruction is the first one at the trap entry kills the context. -/
def Obligations.TrapEntry : Prop :=
  (∀ (s : State) (w : Who) (cause : Nat) (tval epc : Word) (at_ : Option Word),
     w.isHandler = false → (∀ a, at_ = some a → a ≠ s.trapEntry w) →
     let c := s.ctx w
     let t := s.enterTrap w cause tval epc at_
     let c' := t.ctx w
     let fw := c.status.pl = 2 ∨ (s.core w.core).part.regs.tvec = 0
     c'.trap.epc = epc &&& 0x1FFFFFFFFFFFFF8 ∧ c'.trap.tcause = BitVec.ofNat 64 cause ∧ c'.trap.tval = tval ∧
     c'.status.ppl = c.status.pl ∧ c'.status.intrap = true ∧ c'.status.hzd = c.status.hzd ∧
     (fw → c'.status.pl = 2 ∧ c'.pc = s.firmwareVector) ∧
     (¬ fw → c'.status.pl = 1 ∧ c'.pc = (s.core w.core).part.regs.tvec) ∧
     c'.hold.flights = [] ∧ c'.regs = c.landAll.regs ∧ c'.lc0 = c.lc0 ∧ c'.lc1 = c.lc1 ∧
     c'.trap.ssp = c.trap.ssp ∧ c'.trap.sslim = c.trap.sslim ∧ c'.trap.scratch = c.trap.scratch ∧
     t.memory = s.memory ∧ t.cores = ((s.giveUp w).setCtx w c').cores ∧ (∀ v, v ≠ w → t.ctx v = s.ctx v) ∧ t.clusters = s.clusters ∧ t.fabric = s.fabric ∧
     t.dx = s.dx ∧ t.mod = s.mod) ∧
  (∀ (s : State) (w : Who) (cause : Nat) (tval : Word), w.isHandler = false → (s.ctx w).pc = s.trapEntry w →
     s.trapSync w cause tval = s.kill w ∧
     (w.slot ≠ 0 → w.slot < 11 → ((s.trapSync w cause tval).ctx w).live = false))

/-- R315, R455: `sret` in trap service returns to EPC at the privilege of PPL and ends trap service; outside it, it
takes ILLEGAL_OPERAND; where PPL is above its own privilege, it takes PRIVILEGE before that. -/
def Obligations.SretReturns : Prop :=
  ∀ (s : State),
    let w := s.focus
    let c := s.own.ctx w
    (c.status.intrap = true → c.status.ppl ≤ c.status.pl →
      ∃ t, Does .sret s t ∧ (t.ctx w).pc = c.trap.epc ∧ (t.ctx w).status.pl = c.status.ppl ∧
        (t.ctx w).status.intrap = false ∧ (t.ctx w).status.fflags = c.status.fflags ∧ (t.ctx w).regs = c.regs ∧
        (t.ctx w).trap.epc = c.trap.epc ∧ (t.ctx w).trap.tcause = c.trap.tcause ∧ t.memory = s.memory) ∧
    (c.status.intrap = false → c.status.ppl ≤ c.status.pl → Does .sret s (s.own.trapSync w cIllegalOperand 0)) ∧
    (c.status.pl < c.status.ppl → Does .sret s (s.own.trapSync w cPrivilege (c.status.ppl.setWidth 64)))

/-- R316, R373, R472: `trap` and `brk` take SYSCALL and DEBUG with their code in TVAL and, in EPC, the address that
follows the loop-end check. R96: a form that needs supervisor privilege takes PRIVILEGE at user privilege, with none
of its effect. -/
def Obligations.SystemCallsAndPrivilege : Prop :=
  (∀ (s : State) (code : Nat), s.focus.isHandler = false → (s.own.ctx s.focus).pc ≠ s.own.trapEntry s.focus →
     let w := s.focus
     let o := s.own
     let after := ((o.advance w (.trap code)).ctx w).pc
     (∃ t, Does (.trap code) s t ∧ (t.ctx w).trap.tcause = 0x0F ∧ (t.ctx w).trap.tval = BitVec.ofNat 64 code ∧
       (t.ctx w).trap.epc = after &&& 0x1FFFFFFFFFFFFF8 ∧ (t.ctx w).pc = o.trapEntry w ∧
       (t.ctx w).status.intrap = true) ∧
     (∃ t, Does (.brk code) s t ∧ (t.ctx w).trap.tcause = 0x10 ∧ (t.ctx w).trap.tval = BitVec.ofNat 64 code ∧
       (t.ctx w).trap.epc = after &&& 0x1FFFFFFFFFFFFF8 ∧ (t.ctx w).pc = o.trapEntry w ∧
       (t.ctx w).status.intrap = true)) ∧
  (∀ (i : Instr) (s : State), i.supervisorOnly = true → s.pl s.focus = 0 → s.focus.isHandler = false →
     exec i s = .next (s.trapSync s.focus 0x03 (illegalTval 9 (opcSubOf i).1 (opcSubOf i).2 0)))

/-- R111, R474, R476, R477, R478, R483, R496: each integer form works on every element of the view, wrapping modulo
the element's width, with distance 2 and no flag. -/
def Obligations.VectorIntegerElements : Prop :=
  ∀ (s : State) (t : ElemType) (rm : Rounding) (d a b c : Nat), t.fp = none →
    let n := t.bits
    let at_ := fun (r e : Nat) => elemAt n (s.own.v s.focus r) e
    let num := fun (r e : Nat) => elemInt t (at_ r e)
    let gives := fun (i : Instr) (f : Nat → Int) =>
      ∃ x : VWord, (∀ e < viewSize n, elemAt n x e = wrapTo n (f e)) ∧ Results i s 2 (.v d x) 0
    gives (.vadd t rm d a b) (fun e => at_ a e + at_ b e) ∧
    gives (.vsub t rm d a b) (fun e => (at_ a e : Int) - at_ b e) ∧
    gives (.vmul t rm d a b) (fun e => at_ a e * at_ b e) ∧
    gives (.vabs t d a) (fun e => (signOf n (at_ a e)).natAbs) ∧
    gives (.vneg t d a) (fun e => - signOf n (at_ a e)) ∧
    gives (.vmax t d a b) (fun e => max (num a e) (num b e)) ∧
    gives (.vmin t d a b) (fun e => min (num a e) (num b e)) ∧
    gives (.vclamp t d a b c) (fun e => min (max (num a e) (num b e)) (num c e)) ∧
    gives (.vshl t d a b) (fun e => at_ a e * 2 ^ (at_ b e % n)) ∧
    gives (.vshr t d a b) (fun e => num a e / 2 ^ (at_ b e % n))

/-- R91, R116, R117, R118, R119, R474, R476, R477, R478, R483, R484, R487: each FP form works on every element of the
view, ORs the flags of its elements, and has distance 4, or 1 where a substitute computes a lane (R326); a comparison
takes elements 0 to 63, with distance 2. A sum, difference, product and fused product of FP32, FP16 and BF16 elements
is the exact one rounded once. No upset strikes. -/
def Obligations.VectorFpElements : Prop :=
  ∀ (s : State) (t : ElemType) (f : Fp) (rm : Rounding) (fc : FpCond) (d a b c : Nat), t.fp = some f →
    (s.own.core s.focus.core).marks.upsets = [] →
    let n := f.width
    let at_ := fun (r e : Nat) => elemAt n (s.own.v s.focus r) e
    let distance := fun (lanes dist : Nat) =>
      if (List.range lanes).any (fun k => s.own.quarantined s.focus.core (k + 1)) then 1 else dist
    let dist := distance (2048 / n * n / 32) 4
    let gives := fun (i : Instr) (r : Nat → Rounded) =>
      ∃ (x : VWord) (fl : BitVec 5), (∀ e < viewSize n, elemAt n x e = (r e).1 % 2 ^ n) ∧
        fl = (List.range (viewSize n)).foldl (fun fl e => fl ||| (r e).2) 0 ∧ Results i s dist (.v d x) fl
    gives (.vadd t rm d a b) (fun e => fpAdd f rm (at_ a e) (at_ b e)) ∧
    gives (.vsub t rm d a b) (fun e => fpSub f rm (at_ a e) (at_ b e)) ∧
    gives (.vmul t rm d a b) (fun e => fpMul f rm (at_ a e) (at_ b e)) ∧
    gives (.vfma t rm d a b c) (fun e => fpFma f rm (at_ a e) (at_ b e) (at_ c e)) ∧
    gives (.vmax t d a b) (fun e => fpSelect f true (at_ a e) (at_ b e)) ∧
    gives (.vmin t d a b) (fun e => fpSelect f false (at_ a e) (at_ b e)) ∧
    gives (.vabs t d a) (fun e => absElem f (at_ a e)) ∧
    gives (.vneg t d a) (fun e => negElem f (at_ a e)) ∧
    gives (.vclamp t d a b c) (fun e =>
      let m := fpSelect f true (at_ a e) (at_ b e)
      let r := fpSelect f false m.1 (at_ c e)
      (r.1, r.2 ||| m.2)) ∧
    (let holds := fun (e : Nat) => fpCond fc (f.value (at_ a e)) (f.value (at_ b e))
     ∃ x : Word, (∀ e < 64, x.getLsbD e = (holds e).1) ∧
      Results (.vcmp t (.fp fc) d a b) s (distance (64 * n / 32) 2) (.p d x)
        ((List.range 64).foldl (fun fl e => fl ||| (holds e).2) 0)) ∧
    ∀ g ∈ [Fp.f32, .f16, .bf16], RoundsOnce g

/-- R479, R482, R484, R492, R493, R495: bitwise forms, moves, broadcasts, permutations, mask counts, selection and
integer comparisons, lane by lane. -/
def Obligations.VectorMovesAndMasks : Prop :=
  ∀ (s : State) (t : ElemType) (cc : IntCond) (d a b p n k : Nat), n < 64 → k < 64 →
    let w := s.focus
    let v := s.own.v w
    let m := s.own.p w p
    let lanes := fun (i : Instr) (dist : Nat) (f : Nat → Nat) =>
      ∃ x : VWord, (∀ e < 64, lane x e = f e) ∧ Results i s dist (.v d x) 0
    Results (.vand d a b) s 2 (.v d (v a &&& v b)) 0 ∧
    Results (.vor d a b) s 2 (.v d (v a ||| v b)) 0 ∧
    Results (.vxor d a b) s 2 (.v d (v a ^^^ v b)) 0 ∧
    Results (.vmov d a) s 2 (.v d (v a)) 0 ∧
    (∃ x : VWord, (∀ e < viewSize t.bits, elemAt t.bits x e = (s.own.g w a).toNat % 2 ^ t.bits) ∧
      Results (.vbc t d a) s 3 (.v d x) 0) ∧
    Results (.vext d a k) s 3 (.g d (BitVec.ofNat 64 (lane (v a) k))) 0 ∧
    lanes (.vins d a k) 3 (fun e => if e = k then (s.own.g w a).toNat % 2 ^ 32 else lane (v d) e) ∧
    lanes (.vperm d a b) 3 (fun e => lane (v a) (lane (v b) e % 64)) ∧
    lanes (.vrot d a n) 3 (fun e => lane (v a) ((e + n) % 64)) ∧
    lanes (.vsel d a b p) 2 (fun e => if m.getLsbD e then lane (v a) e else lane (v b) e) ∧
    Results (.vpcnt d p) s 2 (.g d (BitVec.ofNat 64 ((List.range 64).filter (fun e => m.getLsbD e)).length)) 0 ∧
    (∃ x : Nat, x ≤ 64 ∧ (∀ e < x, m.getLsbD e = false) ∧ (x < 64 → m.getLsbD x = true) ∧
      Results (.vpfirst d p) s 2 (.g d (BitVec.ofNat 64 x)) 0) ∧
    (let wide := fun (e : Nat) =>
       if cc ∈ [IntCond.ltu, .geu, .gtu, .leu] then BitVec.ofNat 64 e else BitVec.ofInt 64 (signOf t.bits e)
     t.fp = none → ∃ x : Word, (∀ e < 64, x.getLsbD e =
        intHolds cc (wide (elemAt t.bits (v a) e)) (wide (elemAt t.bits (v b) e))) ∧
      Results (.vcmp t (.int cc) d a b) s 2 (.p d x) 0)

/-- R120, R121, R131, R132, R133, R481, R485, R486, R494: conversions, dot products, reductions, scans and scaled
forms, with the pure result of each form. No upset strikes. R123, R481, R485: elements 0 to 63 of a conversion and of
the scaled forms, with the flags of all: an integer saturates to an integer without a flag; `vdqnt` multiplies by its
block's scale, exactly; `vqnt` and `vbaq` divide by it and round once, and a divisor of 0 or NaN gives +0 or the
canonical NaN, with NV. R120, R121: a conversion of a NaN, an infinity or a number beyond the largest to a narrow
format, and one to an integer type: an integer that fits comes out as it is, a half goes to the even neighbour or is
cut off, and what lies outside gives the nearest bound with NV. R131: a dot product is the exact sum of its products,
rounded once; without products it is +0. The exact sum of finite terms is theirs, whatever their exponents; a NaN or
opposite infinities make it a NaN. R132, R133, R494: an integer reduction is the sum modulo 2^32, the least or the
greatest of the 64 lanes, and an FP one is the tree of six levels over neighbouring pairs; a scan combines lane by
lane from lane 0, which it copies. -/
def Obligations.VectorConversionsAndReductions : Prop :=
  (∀ (s u : State) (t dst src : ElemType) (nsat : Bool) (rm : Rounding) (op : RedOp) (rt : RedType) (d a b c n : Nat)
       (ws : List Nat),
     (s.own.core s.focus.core).marks.upsets = [] → (u.core s.focus.core).marks.upsets = [] →
     let w := s.focus
     let v := s.own.v w
     let gives := fun (i : Instr) (o : FpOut) => Results i s (s.own.fpDistance w.core o.units 4) o.write o.flags
     let scaled := fun (i : Instr) (o : FpOut) =>
       Does i s ((u.result w (u.fpDistance w.core o.units 4) o.write o.flags).advance w i)
     gives (.vcvt dst nsat rm src d a) (vcvtOut dst nsat rm src d a v) ∧
     gives (.vdot t rm d a b n) (vdotOut t rm d a b n v) ∧
     gives (.vred op rt d a) (vredOut op rt d a v) ∧
     gives (.vscan op rt d a) (vscanOut op rt d a v) ∧
     (ScalesAs s.own u w (s.own.g w b) ((blocks t + 6) / 7) ws →
       scaled (.vdqnt t d a b) (vdqntOut t d a (u.v w) ws) ∧
       scaled (.vqnt t nsat rm d a b) (vqntOut t nsat rm d a (u.v w) ws)) ∧
     (ScalesAs s.own u w (s.own.g w c) ((3 * blocks t + 6) / 7) ws →
       scaled (.vbaq t nsat rm d a b c) (vbaqOut t nsat rm d a b (u.v w) ws))) ∧
  (∀ (t dst src : ElemType) (nsat : Bool) (rm : Rounding) (d a b : Nat) (v : Nat → VWord) (ws : List Nat),
     let scale := fun (k : Nat) => scaleValue (ws.getD (k / 7) 0 / 2 ^ (9 * (k % 7)) % 512)
     let size := if t.bits = 4 then 8 else 32
     let val := fun (r e : Nat) => t.val (elemAt t.bits (v r) e)
     let lanes := fun (o : FpOut) (n : Nat) (r : Nat → Rounded) =>
       (∃ x : VWord, o.write = .v d x ∧ ∀ e < 64, elemAt n x e = (r e).1 % 2 ^ n) ∧
       o.flags = (List.range 64).foldl (fun fl e => fl ||| (r e).2) 0 ∧
       o.units = (List.range (64 * n / 32)).map (fun k => (k + 1, k))
     let quotient := fun (x s : Val) => match s with
       | .fin _ (m + 1) e => convertTo t rm nsat x (m + 1) e
       | _ => (if t = .e4m3 then 0x7F else if t = .e5m2 then 0x7E else 0, 0x10#5)
     lanes (vcvtOut dst nsat rm src d a v) dst.bits (fun e =>
       let x := elemAt src.bits (v a) e
       if src.fp.isNone && dst.fp.isNone then (wrapTo dst.bits (min (max (elemInt src x) dst.range.1) dst.range.2), 0)
       else convertTo dst rm nsat (src.val x)) ∧
     lanes (vdqntOut t d a v ws) 32 (fun e =>
       let p := mulExact (val a e) (scale (e / size))
       roundVal .f32 .rne p.1 p.2) ∧
     lanes (vqntOut t nsat rm d a v ws) t.bits (fun e => quotient (Fp.f32.value (lane (v a) e)) (scale (e / size))) ∧
     lanes (vbaqOut t nsat rm d a b v ws) t.bits (fun e =>
       let x := mulExact (val a e) (scale (e / size))
       let y := mulExact (val b e) (scale (64 / size + e / size))
       let sum := addExact rm x.1 y.1
       let q := quotient sum.1 (scale (2 * (64 / size) + e / size))
       (q.1, q.2 ||| if x.2 || y.2 || sum.2 then 0x10 else 0))) ∧
  (∀ (t : ElemType) (rm : Rounding) (nsat neg : Bool) (m e : Nat),
     let sign := fun (w : Nat) => if neg then 2 ^ (w - 1) else 0
     let num := fun (x : Nat) => if neg then -(x : Int) else (x : Int)
     let lo := t.range.1
     let hi := t.range.2
     let bounded := fun (x : Int) (fl : BitVec 5) =>
       if x < lo then (wrapTo t.bits lo, 0x10#5) else if hi < x then (wrapTo t.bits hi, 0x10) else (wrapTo t.bits x, fl)
     (∀ snan, convertTo .e4m3 rm nsat (.nan snan) = (0x7F, if snan then 0x10 else 0) ∧
       convertTo .e5m2 rm nsat (.nan snan) = (0x7E, if snan then 0x10 else 0) ∧
       convertTo .e2m1 rm nsat (.nan snan) = (0, 0x10)) ∧
     convertTo .e4m3 rm false (.inf neg) = (sign 8 + 0x7E, 0x10) ∧ convertTo .e4m3 rm true (.inf neg) = (0x7F, 0x10) ∧
     convertTo .e5m2 rm false (.inf neg) = (sign 8 + 0x7B, 0x10) ∧ convertTo .e5m2 rm true (.inf neg) = (sign 8 + 0x7C, 0) ∧
     convertTo .e2m1 rm false (.inf neg) = (sign 4 + 7, 0x10) ∧
     convertTo .e4m3 .rne nsat (.fin neg 460 0) = (sign 8 + 0x7E, 0x01) ∧
     convertTo .e4m3 .rne false (.fin neg 470 0) = (sign 8 + 0x7E, 0x05) ∧
     convertTo .e4m3 .rne true (.fin neg 470 0) = (0x7F, 0x05) ∧
     convertTo .e2m1 .rne false (.fin neg 7 0) = (sign 4 + 7, 0x05) ∧
     (t.fp = none →
       (∀ snan, convertTo t rm nsat (.nan snan) = (0, 0x10)) ∧
       convertTo t rm nsat (.inf neg) = (wrapTo t.bits (if neg then lo else hi), 0x10) ∧
       convertTo t rm nsat (.fin neg m e) = bounded (num (m * 2 ^ e)) 0 ∧
       convertTo t .rne nsat (.fin neg (2 * m + 1) (-1)) = bounded (num (if m % 2 = 1 then m + 1 else m)) 0x01 ∧
       convertTo t .rtz nsat (.fin neg (2 * m + 1) (-1)) = bounded (num m) 0x01)) ∧
  ((∀ (t : ElemType) (f : Fp) (rm : Rounding) (d a b n : Nat) (v : Nat → VWord), t.fp = some f →
     let p := (List.range n).map (fun k => mulExact (f.value (elemAt f.width (v a) k)) (f.value (elemAt f.width (v b) k)))
     let sum := sumExact rm (p.map (·.1))
     let r := roundVal .f32 rm sum.1 (sum.2 || p.any (·.2))
     let o := vdotOut t rm d a b n v
     o.write = .g d (BitVec.ofNat 64 r.1) ∧ o.flags = r.2 ∧ o.units = [(1, 0)] ∧ (n = 0 → o.write = .g d 0 ∧ o.flags = 0)) ∧
   (∀ (rm : Rounding) (l : List (Bool × Nat × Int)) (lo : Int), lo ≤ 0 → (∀ x ∈ l, lo ≤ x.2.2) →
     let value := fun (x : Bool × Nat × Int) =>
       if x.1 then -(((x.2.1 * 2 ^ (x.2.2 - lo).toNat : Nat)) : Int) else ((x.2.1 * 2 ^ (x.2.2 - lo).toNat : Nat) : Int)
     ∃ y : Bool × Nat × Int, lo ≤ y.2.2 ∧ value y = (l.map value).sum ∧
       sumExact rm (l.map (fun x => Val.fin x.1 x.2.1 x.2.2)) = (.fin y.1 y.2.1 y.2.2, false)) ∧
   (∀ (rm : Rounding) (l : List Val),
     ((l.any Val.isNan = true ∨ (Val.inf true ∈ l ∧ Val.inf false ∈ l)) → (sumExact rm l).1 = .nan false) ∧
     ((sumExact rm l).2 = true ↔ (l.any Val.isSnan = true ∨ (Val.inf true ∈ l ∧ Val.inf false ∈ l))))) ∧
  (∀ (d a : Nat) (v : Nat → VWord) (op : RedOp) (rt : RedType),
     let l := (List.range 64).map (fun k => lane (v a) k)
     let least := fun (f : Nat → Int) (x : Nat) => x ∈ l ∧ ∀ y ∈ l, f x ≤ f y
     let wide := fun (x : Nat) => BitVec.ofInt 64 (signOf 32 x)
     let join := fun (x y : Nat) => match rt, op with
       | .f32, .add => fpAdd .f32 .rne x y
       | .f32, .min => fpSelect .f32 false x y
       | .f32, .max => fpSelect .f32 true x y
       | _, .add => ((x + y) % 2 ^ 32, 0)
       | .i32, .min => (if signOf 32 y < signOf 32 x then y else x, 0)
       | .i32, .max => (if signOf 32 x < signOf 32 y then y else x, 0)
       | .u32, .min => (min x y, 0)
       | .u32, .max => (max x y, 0)
     let level := fun (f : Nat → Rounded) (k : Nat) =>
       let r := join (f (2 * k)).1 (f (2 * k + 1)).1
       ((r.1, r.2 ||| (f (2 * k)).2 ||| (f (2 * k + 1)).2) : Rounded)
     let top := Nat.repeat level 6 (fun k => (lane (v a) k, 0)) 0
     let s := vscanOut op rt d a v
     (vredOut .add .u32 d a v).write = .g d (BitVec.ofNat 64 (l.sum % 2 ^ 32)) ∧
     (vredOut .add .i32 d a v).write = .g d (wide (l.sum % 2 ^ 32)) ∧
     (∃ x, least (fun x => (x : Int)) x ∧ (vredOut .min .u32 d a v).write = .g d (BitVec.ofNat 64 x)) ∧
     (∃ x, least (fun x => -(x : Int)) x ∧ (vredOut .max .u32 d a v).write = .g d (BitVec.ofNat 64 x)) ∧
     (∃ x, least (signOf 32) x ∧ (vredOut .min .i32 d a v).write = .g d (wide x)) ∧
     (∃ x, least (fun x => -signOf 32 x) x ∧ (vredOut .max .i32 d a v).write = .g d (wide x)) ∧
     (rt ≠ .f32 → (vredOut op rt d a v).flags = 0 ∧ (vredOut op rt d a v).units = [] ∧ s.flags = 0) ∧
     (rt = .f32 → (vredOut op rt d a v).write = .g d (BitVec.ofNat 64 top.1) ∧ (vredOut op rt d a v).flags = top.2 ∧
       (vredOut op rt d a v).units = [(1, 0)]) ∧
     (∃ x : VWord, s.write = .v d x ∧ lane x 0 = lane (v a) 0 ∧
       (∀ k < 63, lane x (k + 1) = (join (lane x k) (lane (v a) (k + 1))).1) ∧
       s.flags = (List.range 63).foldl (fun fl k => fl ||| (join (lane x k) (lane (v a) (k + 1))).2) 0) ∧
     s.units = (List.range 64).map (fun k => (k + 1, k)))

/-- R488, R490, R491: vector loads and stores of whole registers, and strided and gathered loads and scattered stores
over the own scratchpad: each element comes from, or is sent to, its own address, which a store may write (R59). That
the bytes of a load are read at one moment, and that a store sends one request for each word or sector, is the model's
reading (DEDUCED, notes/assumptions/21.md). -/
def Obligations.VectorMemoryForms : Prop :=
  ∀ (s : State) (t : ElemType) (d a b c : Nat) (off : Int),
    let w := s.focus
    let o := s.own
    let n := t.bits / 8
    let va := o.g w a + BitVec.ofInt 64 off
    (∀ (u : State) (x : Nat), LoadsAs o u w va 256 x →
      Does (.vld d a off) s ((u.result w 1 (.v d (BitVec.ofNat 2048 x))).advance w (.vld d a off))) ∧
    (∀ (u : State) (key : Nat), va.toNat % 256 = 0 → Reaches o u w { write := true } .direct va 256 key →
      let q := unitSize key
      let bytes := natLE 256 (o.v w b).toNat
      Does (.vst a off b) s ((forEach (upTo (256 / q)) u (fun j s => s.sendReq {
        kind := .store, who := w, gen := (s.ctx w).hold.gen, va := va + BitVec.ofNat 64 (j * q), key := key + j * q
        bytes := (bytes.drop (j * q)).take q })).advance w (.vst a off b))) ∧
    (∀ (at_ : Nat → Nat), (t.bits = 8 ∨ t.bits = 16 ∨ t.bits = 32) →
      (∀ k < 64, QuietScratch o w (o.g w a + BitVec.ofNat 64 k * o.g w b) n (at_ k)) →
      ∃ u, Does (.vlds t d a b) s u ∧ u.memory = s.memory ∧
        ∀ k < 64, elemAt t.bits ((u.ctx w).regs.v.get 0 d) k = leNat (s.memory.read (spKey w.core (at_ k)) n)) ∧
    (∀ (at_ : Nat → Nat), (t.bits = 8 ∨ t.bits = 16 ∨ t.bits = 32) →
      let from_ := (s.ctx w).hold.progress.getD 0
      (∀ k < 64, from_ ≤ k → QuietScratch o w (laneVa (o.g w a) (o.v w b) k) n (at_ k)) →
      (∃ u, Does (.vgat t d a b) s u ∧ u.memory = s.memory ∧
        ∀ k < 64, elemAt t.bits ((u.ctx w).regs.v.get 0 d) k =
          if from_ ≤ k then leNat (s.memory.read (spKey w.core (at_ k)) n) else elemAt t.bits (o.vIssued w d) k) ∧
      ((∀ k < 64, from_ ≤ k → Writable o w n (at_ k)) → ∃ u, Does (.vsca t a b c) s u ∧ u.memory = s.memory ∧
        (u.core w.core).requests = ((List.range 64).drop from_).map (fun k =>
          ({ kind := .store, who := w, gen := (o.ctx w).hold.gen, va := laneVa (o.g w a) (o.v w b) k,
             key := spKey w.core (at_ k), bytes := natLE n (elemAt t.bits (o.v w c) k),
             job := (o.core w.core).jobId, no := s.tick } : Req))))

/-- R2, R419, R457, R281: a load delivers the bytes at its address, extended; a store leaves the context as a buffered
request and writes nothing yet; a row request leaves likewise (R169, R438). R349, R378: an atomic gives the old value,
extended, and has written what its operation makes of it; `cas` has written its new value only where the old one
matched. -/
def Obligations.ScalarMemoryForms : Prop :=
  (∀ (s u : State) (wd : Width) (signed : Bool) (d a b x key : Nat) (off : Int),
     let w := s.focus
     let o := s.own
     let va := o.g w a + BitVec.ofInt 64 off
     let row := fun (k : ReqKind) => u.sendReq { kind := k, who := w, gen := (u.ctx w).hold.gen, va := va, key := key }
     (LoadsAs o u w va wd.bytes x → Does (.ld wd signed d a off) s
       ((u.setG w d (if signed then BitVec.ofInt 64 (signOf (8 * wd.bytes) x) else BitVec.ofNat 64 x)).advance w
         (.ld wd signed d a off))) ∧
     (StoresAs o u w va (natLE wd.bytes (o.g w b).toNat) → Does (.st wd a off b) s (u.advance w (.st wd a off b))) ∧
     (Reaches o u w {} .row va 1 key →
       Does (.ract a off) s ((row .activate).advance w (.ract a off)) ∧
       Does (.rpre a off) s ((row .precharge).advance w (.rpre a off)))) ∧
  (∀ (s u : State) (op : AmoOp) (wd : AtomWidth) (d a b c old : Nat),
     let w := s.focus
     let o := s.own
     let n := wd.bytes
     let x := (o.g w b).toNat % 2 ^ (8 * n)
     let y := (o.g w c).toNat % 2 ^ (8 * n)
     (UpdatesAs o u w (o.g w a) n (fun v => some (amoResult op (8 * n) v x)) old →
       Does (.amo op wd d a b) s ((u.setG w d (extend wd.signed n old)).advance w (.amo op wd d a b))) ∧
     (UpdatesAs o u w (o.g w a) n (fun v => if v = x then some y else none) old →
       Does (.cas wd d a b c) s ((u.setG w d (extend wd.signed n old)).advance w (.cas wd d a b c))))

/-- R59, R139, R140, R148: the own-scratchpad range of the aperture reaches the core's scratchpad at the same offset,
for direct and full/empty accesses, read or written; a write at user privilege to a shadow-stack area takes PRIVILEGE.
R141, R164: the bytes a load delivers and the request a store sends, in the own scratchpad; no byte of memory changes
when either issues. R147, R349: an atomic on a word of the own scratchpad finds the bytes there, writes the new value
over them and leaves every other byte alone. -/
def Obligations.ScratchpadAccesses : Prop :=
  (∀ (s : State) (w : Who) (va : Word) (n off : Nat) (wr : Bool) (r : Reach), OwnScratch s w va n off → 0 < n →
     (r = .direct ∨ r = .fullEmpty) →
     ((wr = true → Writable s w n off) →
       Reaches s (s.reached w va) w { write := wr } r va n (spKey w.core off) ∧
       (s.reached w va).memory = s.memory ∧ (s.reached w va).ctx w = s.ctx w) ∧
     (wr = true → ¬ Writable s w n off → ∀ k progress,
       s.reachVa w { write := wr } r va n k progress = .done ((s.arrived w va).trapSync w 0x03 (tvalAt progress va)))) ∧
  (∀ (s : State) (w : Who) (va : Word) (n off : Nat) (bytes : List Byte), 0 < n → bytes.length = n →
     QuietScratch s w va n off →
     (∃ u, LoadsAs s u w va n (leNat (s.memory.read (spKey w.core off) n)) ∧ u.memory = s.memory ∧ u.ctx w = s.ctx w) ∧
     (Writable s w n off → ∃ u, StoresAs s u w va bytes ∧ u.memory = s.memory ∧ u.ctx w = s.ctx w ∧
       (u.core w.core).requests = [{
         kind := .store, who := w, gen := (s.ctx w).hold.gen, va := va, key := spKey w.core off, bytes := bytes
         job := (s.core w.core).jobId, no := s.tick }])) ∧
  (∀ (s : State) (w : Who) (va : Word) (n off : Nat) (f : Nat → Option Nat), (n = 4 ∨ n = 8) → QuietScratch s w va n off →
     Writable s w n off → s.memory.wf = true →
     let key := spKey w.core off
     let old := leNat (s.memory.read key n)
     ∃ u, UpdatesAs s u w va n f old ∧
       (∀ x, f old = some x → leNat (u.memory.read key n) = x % 2 ^ (8 * n)) ∧
       (∀ a, (f old = none ∨ a < key ∨ key + n ≤ a) → u.memory.byte a = s.memory.byte a) ∧ u.memory.full = s.memory.full)

/-- R97, R141, R142: a direct load, store or atomic, of a scalar or a whole vector register, or a full/empty
operation, whose address is not a multiple of its size takes MISALIGNED with the address in TVAL, before anything else
of the access. -/
def Obligations.MisalignedAccessTraps : Prop :=
  ∀ (s : State) (wd : Width) (aw : AtomWidth) (signed : Bool) (op : AmoOp) (d a b c : Nat) (off : Int),
    let w := s.focus
    let o := s.own
    let va := o.g w a + BitVec.ofInt 64 off
    (va.toNat % wd.bytes ≠ 0 →
      Does (.ld wd signed d a off) s (o.trapSync w 0x04 va) ∧ Does (.st wd a off b) s (o.trapSync w 0x04 va)) ∧
    ((o.g w a).toNat % aw.bytes ≠ 0 →
      Does (.amo op aw d a b) s (o.trapSync w 0x04 (o.g w a)) ∧ Does (.cas aw d a b c) s (o.trapSync w 0x04 (o.g w a))) ∧
    (va.toNat % 8 ≠ 0 →
      Does (.feset a off) s (o.trapSync w 0x04 va) ∧ Does (.feclr a off) s (o.trapSync w 0x04 va) ∧
      Does (.ldf d a off) s (o.trapSync w 0x04 va) ∧ Does (.ldfe d a off) s (o.trapSync w 0x04 va) ∧
      Does (.stf a off b) s (o.trapSync w 0x04 va) ∧ Does (.stef a off b) s (o.trapSync w 0x04 va)) ∧
    (va.toNat % 256 ≠ 0 →
      Does (.vld d a off) s (o.trapSync w 0x04 va) ∧ Does (.vst a off b) s (o.trapSync w 0x04 va))

/-- R145, R146, R284, R398, R420, R459: full/empty forms. `feset`, `feclr` and `stf` leave as requests for their word,
`stf` with the address space and the operations before it, by which its release is looked at when it is performed, and
for which its context does not wait; `ldf`, `ldfe` and `stef` join the word's queue, which is then served, behind
earlier writes of their context to the word. R284: a release of regions waits for the direct writes to them that its
context had issued before it, and for its remote operations on them; that every remote operation without an address of
its own (a call without a reply) counts where any region is bound is the model's reading (notes/assumptions/25.md),
and that an `stf` waits in its buffer for what it covers is too (notes/assumptions/142.md). R145, R146, R284, R288,
R420: a waiting request is served when its word's bit lets it, a `stef` once the writes to the regions bound to its
word are performed: `ldf` and `ldfe` take the value of a full word into their register, `ldfe` and leaves it empty;
`stef` writes an empty one and leaves it full; each ends its context's wait. A request of the other kind does not wait
behind one whose word is not as it needs it. -/
def Obligations.FullEmptyForms : Prop :=
  (∀ (s u : State) (d a b key : Nat) (off : Int) (regions : List (Nat × Nat)) (e : Before),
     let w := s.focus
     let o := s.own
     let va := o.g w a + BitVec.ofInt 64 off
     va.toNat % 8 = 0 →
     let bit := fun (k : ReqKind) => u.sendReq { kind := k, who := w, gen := (u.ctx w).hold.gen, va := va, key := key }
     let joins := fun (need : Need) (i : Instr) (x : Word) =>
       let y := u.serveEarlier w key 8
       (y.earlierWaits w key 8 = false → Does i s (((y.inHand w i).modCore (keyCore key) (fun c =>
         { c with words := c.words ++ [{ key, who := w, instr := i, va := va, value := x }] })).serveWords key)) ∧
       (y.earlierWaits w key 8 = true → Interlocks i s ((s.keepFor w need va).serveEarlier w key 8))
     (Reaches o u w { write := true } .fullEmpty va 8 key →
       Does (.feset a off) s ((bit .setFull).advance w (.feset a off)) ∧
       Does (.feclr a off) s ((bit .setEmpty).advance w (.feclr a off)) ∧
       Does (.stf a off b) s ((u.sendReq {
         kind := .storeFull, who := w, gen := (u.ctx w).hold.gen, va := va, key := key
         bytes := natLE 8 (u.g w b).toNat, asid := u.asid w.core, opMark := (u.ctx w).hold.opNext }).advance w (.stf a off b)) ∧
       joins { write := true } (.stef a off b) (u.g w b)) ∧
     (Reaches o u w {} .fullEmpty va 8 key → joins {} (.ldf d a off) 0 ∧ joins {} (.ldfe d a off) 0) ∧
     (s.owesWrites w regions e = true ↔ regions ≠ [] ∧
       ((∃ c ∈ s.cores, ∃ q ∈ c.2.requests ++ c.2.vaultRequests, q.who = w ∧ q.no < e.step ∧
           ∃ r ∈ regions, r.1 < q.va.toNat + q.size ∧ q.va.toNat < r.2) ∨
         (∃ x ∈ (s.ctx w).remote, x.id < e.op ∧ x.send = false ∧
           (x.len = 0 ∨ ∃ r ∈ regions, r.1 < x.va + x.len ∧ x.va < r.2))))) ∧
  (∀ (s : State) (f : FeWait) (d a b : Nat) (off : Int),
      let full := s.memory.isFull f.key
      ((f.instr = .ldf d a off ∨ f.instr = .ldfe d a off) → full = false → s.serveWait f = none) ∧
      let owes := s.owesWrites f.who (s.wordRegions (s.asid f.who.core) f.key) { step := s.tick, op := (s.ctx f.who).hold.opNext }
      (f.instr = .stef a off b → (full = true ∨ owes = true) → s.serveWait f = none) ∧
      (∀ (l : List FeWait) (x : FeWait), x.key = f.key → (x.instr = .ldf d a off ∨ x.instr = .ldfe d a off) →
        f.instr = .stef a off b → nextWait (x :: f :: l) f.key false = some f ∧ nextWait (f :: x :: l) f.key false = some f ∧
        nextWait (f :: x :: []) f.key true = some x ∧ nextWait (x :: f :: []) f.key true = some x) ∧
      (f.instr = .ldf d a off → full = true → s.poisoned f.key = false → ∃ t, s.serveWait f = some t ∧
        t.memory = s.memory ∧ (d ≠ 0 → (t.ctx f.who).regs.g.get 0 d = s.word f.key) ∧ (t.ctx f.who).hold.hand = none) ∧
      (f.instr = .ldfe d a off → full = true → s.poisoned f.key = false → s.memory.wf = true → ∃ t, s.serveWait f = some t ∧
        t.memory.isFull f.key = false ∧ t.memory.bytes = s.memory.bytes ∧
        (d ≠ 0 → (t.ctx f.who).regs.g.get 0 d = s.word f.key) ∧ (t.ctx f.who).hold.hand = none) ∧
      (f.instr = .stef a off b → full = false → owes = false → isSp f.key = true → f.key % 8 = 0 → s.memory.wf = true →
        ∃ t, s.serveWait f = some t ∧ t.memory.isFull f.key = true ∧ t.word f.key = f.value ∧
        (∀ k, (k < f.key ∨ f.key + 8 ≤ k) → t.memory.byte k = s.memory.byte k) ∧ (t.ctx f.who).hold.hand = none))

/-- R165, R168, R281: performing a buffered store replaces the bytes it carries, clears the poison of every unit it
covers wholly, and leaves every other byte alone; a store to part of a poisoned unit has no effect. R144, R168, R176,
R281, R284: a buffered access that nothing of its word or bank is ahead of is performed and leaves its buffer; an
`stf` stays while a write to the regions bound to its word now that it covers is on its way
(notes/assumptions/142.md); a request to a bank at work stays, and is counted as a stall once for each piece of that
work; one that came to its bank behind an access which waits there stays too. -/
def Obligations.StoresArePerformed : Prop :=
  (∀ (s : State) (key : Nat) (bytes : List Byte), isSp key = true → key % 8 + bytes.length ≤ 8 → 0 < bytes.length →
     s.memory.wf = true →
     ((s.memory.marked key = true ∧ bytes.length < 8) → s.store key bytes = none) ∧
     ((s.memory.marked key = false ∨ bytes.length = 8) → ∃ t, s.store key bytes = some t ∧
       t.memory.read key bytes.length = bytes ∧ t.memory.marked key = false ∧
       (∀ a, (a < key ∨ key + bytes.length ≤ a) → t.memory.byte a = s.memory.byte a) ∧
       t = { s with memory := t.memory } ∧ t.memory.full = s.memory.full)) ∧
  (∀ (s : State) (core : Nat) (r : Req) (rest : List Req), s.agentOn = true →
     let off := keyOff r.key
     let worked := fun (l : List Nat) => (s.worksAt core off).filter (fun x => decide (x.1 ∉ l))
     ((s.core core).requests = r :: rest →
       (s.isBlocked r [] = false → exec (.scratchpadAccess core 0 .clean) s =
         .next ((s.modCore core (fun c => { c with requests := rest })).performReq r)) ∧
       (s.isBlocked r [] = true → exec (.scratchpadAccess core 0 .clean) s = .next s) ∧
       (s.isBlocked r [] = true ↔ r.kind = .storeFull ∧
         s.owesWrites r.who (s.wordRegions r.asid r.key) { step := r.no, op := r.opMark } = true)) ∧
     ((s.core core).vaultRequests = r :: rest →
       ((s.bank core (bankOf off)).waiting = [] → s.bankBusy core off = false → exec (.vaultRequestServe core 0 .clean) s =
         .next ((s.modCore core (fun c => { c with vaultRequests := rest })).performReq r)) ∧
       ((s.bank core (bankOf off)).waiting = [] → s.bankBusy core off = true →
         ∃ t, exec (.vaultRequestServe core 0 .clean) s = .next t ∧ t.memory = s.memory ∧
           (t.core core).vaultRequests = { r with counted := r.counted ++ (worked r.counted).map (·.1) } :: rest ∧
           (t.core core).part.regs.vevCount = (worked r.counted).foldl (fun x p => bumpVev x p.2) (s.core core).part.regs.vevCount) ∧
       (∀ y ∈ (s.bank core (bankOf off)).waiting, y.since < r.since → s.stillWaits y.client = true → r.kind ≠ .activate →
         ∃ t, exec (.vaultRequestServe core 0 .clean) s = .next t ∧ t.memory = s.memory ∧
           (t.core core).vaultRequests = { r with counted := r.counted ++ (worked r.counted).map (·.1) } :: rest)))

/-- R144, R166, R168, R180, R281: an access of a vault whose bank is at work, or to which another came before, waits
and keeps its place; when its turn has come, and the earlier requests to the bank are performed, it goes ahead and
finds its row open or opens it. A full activation count raises the alert, closes the row and sets the bank to refresh
the rows next to it (R181). Where a refresh has fallen due a whole vector register may be cut off (R174,
notes/assumptions/6.md). R3, R173, R174, R179, R180: a refresh that has fallen due on the DRAM clock closes the row of
an idle bank and puts it to work; the next is due tREFI later for the first bank of a layer, and for another within a
tREFI at its quarter of that from the first; its end leaves the bank idle, its row's activation count 0, and the next
row in turn; behind one targeted refresh the other begins; a layer measured at 95 °C starts to throttle, and a
throttled one stops at 90 °C. -/
def Obligations.BanksAndRows : Prop :=
  (∀ (s : State) (core off : Nat) (src : Source),
     let b := bankOf off
     let n := (s.core core).vault.counts.get 0 (b * 2048 + rowOf off)
     let t := s.touchRow core off src
     ((s.bank core b).row = some (rowOf off) → t = s) ∧
     ((s.bank core b).row ≠ some (rowOf off) → n + 1 < 4096 →
       (t.bank core b).row = some (rowOf off) ∧ (t.core core).vault.counts.get 0 (b * 2048 + rowOf off) = n + 1 ∧
       t.memory = s.memory) ∧
     ((s.bank core b).row ≠ some (rowOf off) → 4096 ≤ n + 1 →
       (t.bank core b).row = none ∧ (t.bank core b).busy = .targeted ((s.bank core b).neighbours (rowOf off)) ∧
       (t.core core).vault.counts.get 0 (b * 2048 + rowOf off) = 0 ∧ (t.core core).marks.actValid = true ∧
       (t.core core).marks.actAlert = alertRecord src b (rowOf off) ∧ t.memory = s.memory) ∧
     (∀ (w : Who) (need : Need) (va : Word) (n : Nat) (k : State → Effect), core < 0x7FF → off < 0x10000000 →
       let key := coreKey core off
       let src := directSource w 2
       let turn := s.turnAt core b (.ctx w)
       let u := s.serveBank core b turn
       let stays := s.atBank w need va key n k =
         .wait (fun s0 => (s0.keepFor w need va).waitBank (.ctx w) core off src.charged n)
       (s.behindOther core b (.ctx w) turn = true → stays) ∧ (s.bankBusy core off n = true → stays) ∧
       (u.bankBusy core off n = true → stays) ∧
       ((∃ r ∈ (u.core core).vaultRequests, isVault r.key = true ∧ bankOf (keyOff r.key) = b ∧ r.since < turn) → stays) ∧
       (s.behindOther core b (.ctx w) turn = false → s.bankBusy core off n = false → u.bankBusy core off n = false →
         (∀ r ∈ (u.core core).vaultRequests, isVault r.key = true → bankOf (keyOff r.key) = b → turn ≤ r.since) →
         (n ≤ 64 ∨ s.dram < s.bankDue core b) →
         s.atBank w need va key n k = k ((u.leaveBank core off (.ctx w)).touchRow core off src)))) ∧
  (∀ (s : State) (core bank layer place t : Nat) (rest : List Nat), s.agentOn = true →
     (bank < 48 → (s.bank core bank).busy = .idle → s.bankDue core bank ≤ s.dram →
       (∃ u, exec (.refreshDue core bank) s = .next u ∧ (u.bank core bank).busy ≠ .idle ∧ (u.bank core bank).row = none) ∧
       ((s.part core).loads = [] → s.soloHead core 2 = none → exec (.refreshDue core bank) s = .next (s.beginRefresh core bank)) ∧
       ((s.beginRefresh core bank).bank core bank).busy = .refresh ∧ ((s.beginRefresh core bank).bank core bank).row = none) ∧
     (s.dram < s.bankDue core bank → exec (.refreshDue core bank) s = .next s) ∧
     (let n := s.trefi core (layerOfBank bank)
       let due := (s.beginRefresh core bank).bankDue core bank
       n = (if s.layerTemp core (layerOfBank bank) ≤ 85 then 7800 else 3900) ∧ (s.beginRefresh core bank).memory = s.memory ∧
       (bank % 4 = 0 → due = s.bankDue core bank + n) ∧
       (bank % 4 ≠ 0 → s.bankDue core bank < due ∧ due ≤ s.bankDue core bank + n ∧
         due % n = (s.bankDue core (bank - bank % 4) + bank % 4 * (n / 4)) % n)) ∧
     ((s.bank core bank).busy = .refresh → ∃ u, exec (.refreshEnd core bank) s = .next u ∧
       (u.bank core bank).busy = .idle ∧ (u.bank core bank).next = ((s.bank core bank).next + 1) % 2048 ∧
       (u.core core).vault.counts.get 0 (bank * 2048 + (s.bank core bank).next) = 0 ∧ OnlyCore s u core) ∧
     ((s.bank core bank).busy = .targeted (place :: rest) → ∃ u, exec (.refreshEnd core bank) s = .next u ∧
       (u.bank core bank).busy = (if rest = [] then .idle else .targeted rest) ∧
       (∀ row, (s.bank core bank).rowAt place = some row → (u.core core).vault.counts.get 0 (bank * 2048 + row) = 0)) ∧
     (layer < 12 → (s.core core).vault.throttled = [] →
       ∃ u, exec (.tempMeasure core (List.replicate 12 t)) s = .next u ∧ u.layerTemp core layer = t ∧
         (layer ∈ (u.core core).vault.throttled ↔ 95 ≤ t)) ∧
     (layer < 12 → (s.core core).vault.throttled = [layer] →
       ∃ u, exec (.tempMeasure core (List.replicate 12 t)) s = .next u ∧ u.layerTemp core layer = t ∧
         (layer ∈ (u.core core).vault.throttled ↔ 90 < t)))

/-- R34, R47, R203, R209: the matrix, tile and plane commands `cbcfg`, `cbrel`, `mdrain`, `mdrainr`, `mld`, `mma`,
`mrecv`, `msa`, `mz`, `mz pb`, `tst`, `ap.clr`, `ap.cmp`, `ap.cnt`, `ap.first`, `ap.ld`, `ap.max`, `ap.mcode`,
`ap.seq`, `ap.st`, `ap.tg` and `ap.wr` enter their queue with the operands read at issue; a form that writes a
register interlocks. R34, R197, R209: entering a queue appends the command with the queue's next number, which rises
by one; a joint command enters the tile-load and the matrix queue with one number in each. Nothing else of the machine
changes. -/
def Obligations.PlainCommandsEnterTheirQueue : Prop :=
  (∀ (i : Instr) (s : State), i.plainCommand = true → s.own.room s.focus i → Enters i s (s.issuing i) (s.issued i)) ∧
  (∀ (s : State) (core q : Nat) (c : Cmd),
     let t := s.enqueue core q c
     (c.instr.isJoint = false → (t.queue core q).entries = (s.queue core q).entries ++ [.cmd c] ∧
       (t.queue core q).next = (s.queue core q).next + 1 ∧ ∀ p, p ≠ q → t.queue core p = s.queue core p) ∧
     (c.instr.isJoint = true →
       (t.queue core 0).entries = (s.queue core 0).entries ++
         [.cmd { c with seq := (s.queue core 0).next, joint := some (s.queue core 1).next }] ∧
       (t.queue core 1).entries = (s.queue core 1).entries ++
         [.cmd { c with seq := (s.queue core 1).next, joint := some (s.queue core 0).next }] ∧
       (t.queue core 0).next = (s.queue core 0).next + 1 ∧ (t.queue core 1).next = (s.queue core 1).next + 1 ∧
       ∀ p, p ≠ 0 → p ≠ 1 → t.queue core p = s.queue core p) ∧
     OnlyCore s t core ∧
     t.core core = { s.core core with part := { (s.core core).part with queues := (t.core core).part.queues } })

/-- R193, R218, R226: what the other commands of these classes check at issue. `ap.rd`, `ap.wrr` and `ap.sweep` refuse
a row or count above its limit, with the operand in TVAL (notes/assumptions/152.md, the model's choice); a tile load
reserves a slot of its ring, or waits for one without an interlock; a table query needs a bound table that fits it.
R34, R51, R168, R283: an engine command waits, without an interlock, while its queue is full; one that reads storage
of the own core interlocks while an earlier write of its context there waits for a bank; one that writes a register of
its context, with a guard slot that is pending, is ILLEGAL_OPERAND with the slot in TVAL; that it traps so before its
operands are looked at is the model's choice (notes/assumptions/132.md). -/
def Obligations.CheckedCommandsEnterTheirQueue : Prop :=
  (∀ (s : State) (t : ElemType) (x : Extend) (op : Bool) (n d a b c off w soff k ct win pitch rows cols : Nat) (e : Eng),
     let core := s.focus.core
     let ctx := s.focus
     let o := s.own
     let row := o.g ctx a
     let rd := Instr.apRd d a e
     let wrr := Instr.apWrr a b e
     let sweep := Instr.apSweep n a b off w soff k ct c win e
     let ld := Instr.tld t c a pitch rows cols e
     let u := s.issuing ld
     let table := u.tb ctx a
     let st := u.stream core c
     (o.room ctx rd → row.toNat ≤ 4095 → Enters rd s o (s.issued rd)) ∧
     (o.room ctx rd → 4095 < row.toNat → Does rd s (o.trapSync ctx 0x0B row)) ∧
     (o.room ctx wrr → row.toNat ≤ 4095 → Enters wrr s o (s.issued wrr)) ∧
     (o.room ctx wrr → 4095 < row.toNat → Does wrr s (o.trapSync ctx 0x0B row)) ∧
     (o.room ctx sweep → (o.g ctx b).toNat ≤ 65535 → Enters sweep s u (s.issued sweep)) ∧
     (o.room ctx sweep → 65535 < (o.g ctx b).toNat → Does sweep s (u.trapSync ctx 0x0B (o.g ctx b))) ∧
     (o.room ctx ld → u.configuring core c = false → st.ring = true →
       Enters ld s (u.setStream core c { st with resv := st.resv + 1 }) (s.issued ld)) ∧
     (o.room ctx ld → u.configuring core c = true → Interlocks ld s s) ∧
     (o.configuring core c = false → (o.stream core c).ring = true → (o.stream core c).nslots ≤ (o.stream core c).resv → Does ld s s) ∧
     (o.room ctx ld → u.configuring core c = false → st.ring = false → Does ld s (u.trapSync ctx 0x0B (BitVec.ofNat 64 c))) ∧
     (∀ q ∈ [Instr.tqDot op d a b e, .tqFnDir x d a b e, .tqFnSeg d a b e, .tqLk x d a b e, .tqPair op x d a b c e],
       o.room ctx q →
       (tbBound table = true → tableFits q table = true →
         Enters q s u { s.issued q with ops := [table], done := (s.ctx ctx).hold.progress.getD 0 }) ∧
       ((tbBound table = false ∨ tableFits q table = false) → Does q s (u.trapSync ctx 0x0B table)))) ∧
  (∀ (i : Instr) (s : State),
     let w := s.focus
     (i.eng.isSome = true → (s.own.queueFull w.core i.queueOf = true ∨ (i.isJoint = true ∧ s.own.queueFull w.core 0 = true)) →
       Does i s s) ∧
     (i.eng.isSome = true → s.own.hasRoom w i = true → (∀ g, i.ownsRegister = true → i.guard = some g → s.own.q w g.slot ≠ .pending) →
       readsOwn i = true → (s.own.flushOwn w).ownWaits w = true → Interlocks i s (s.flushOwn w)) ∧
     (∀ g, i.ownsRegister = true → i.guard = some g → s.own.hasRoom w i = true → s.own.q w g.slot = .pending →
       Does i s (s.own.trapSync w 0x0B (BitVec.ofNat 64 g.slot))))

/-- R61, R217: `tq.bind` of a table that lies in one span of the own Gazetteer region writes its table register:
bound, entry width, entries and offset; a table outside it is ILLEGAL_OPERAND or NONLOCAL by R140. R219, R221 to R223:
what the queries deliver where the latch holds every entry they read: `tq.pair` looks up the pair of its operands' low
bits, `tq.dot` sums the entries of eight code pairs of every lane, `tq.fn.dir` looks up the top bits of a lane, and
`tq.fn.seg` gives the value of a lane's segment with its slope times the rest, rounded once. R214, R215: where the
latch holds another row, a query fills it when its turn at the bank comes, and the bank is left closed. -/
def Obligations.TablesAndQueries : Prop :=
  (∀ (s u v : State) (d a b ew off last : Nat) (l : Loc) (cause : Nat),
     let w := s.focus
     let o := s.own
     let va := o.g w a
     let n := (o.g w b).toNat
     let size := (n * ew + 7) / 8
     va.toNat % 64 = 0 → 1 ≤ n → n ≤ 0x1000000 → ew ∈ [4, 8, 16, 32] →
     (w.core < 0x7FF → Locates o u w {} va (.vault w.core off) → isGaz off = true →
       Locates u v w {} (va + BitVec.ofNat 64 (size - 1)) (.vault w.core last) → isGaz last = true →
       (last = off + (size - 1) → ∃ t, Does (.tqBind d a b ew) s t ∧ OnlyCtx v t w ∧
         let r := t.tb w d
         tbBound r = true ∧ tbWidth r = ew ∧ tbEntries r = n ∧ tbOffset r = off - 0x0B800000) ∧
       (last ≠ off + (size - 1) → Does (.tqBind d a b ew) s (v.trapSync w 0x0B va))) ∧
     (Locates o u w {} va l → l ≠ .nowhere → gazOffset w.core w.isHandler l.key = .error cause →
       Does (.tqBind d a b ew) s (u.trapSync w cause va))) ∧
  (∀ (s u : State) (core d ta vb vc row kappa : Nat) (x : Extend) (p8 sg : Bool) (c : Cmd) (e : Eng),
     let me : Who := ⟨core, c.slot⟩
     let tb := c.op1 0
     let n := tbEntries tb
     let latch := (s.core core).latch
     let bit := fun (k : Nat) => entryBit tb k
     let entry := fun (k : Nat) => leNat ((latch.bytes.drop (bit k % 16384 / 8)).take 4) / 2 ^ (bit k % 8) % 2 ^ tbWidth tb
     let there := fun (k : Nat) => k < n ∧ bit k / 16384 = row ∧ bit k % 16384 / 256 ∉ latch.poison
     let delivers := fun (P : Nat → Nat) =>
       ∃ t : State, exec (.engineCommandEnd core 3) s = .next (t.endCommand core 3 c 0 0) ∧ t.memory = s.memory ∧
         (t.core core).latch = latch ∧ ∀ k < 64, lane ((t.ctx me).regs.v.get 0 d) k = P k
     s.queueOn core 3 = true → s.soloHead core 3 = some c → c.ready = true → c.running = true → c.vals = [] → c.done = 0 →
     s.owns core c = true → latch.row = some row →
     (c.instr = .tqPair p8 x d ta vb vc e →
       let w := if p8 then 8 else 4
       let idx := fun (k : Nat) => lane (c.vop 0) k % 2 ^ w * 2 ^ w + lane (c.vop 1) k % 2 ^ w
       (∀ k < 64, there (idx k)) → delivers (fun k => widen x (tbWidth tb) (entry (idx k)))) ∧
     (c.instr = .tqDot sg d ta vb e →
       let idx := fun (k j : Nat) => lane (c.vop 0) k / 2 ^ (4 * j) % 16 * 16 + lane (c.vop 1) k / 2 ^ (4 * j) % 16
       (∀ k < 64, ∀ j < 8, there (idx k j)) →
       delivers (fun k => ((List.range 8).map (fun j => widen (if sg then .s else .u) (tbWidth tb) (entry (idx k j)))).sum % 2 ^ 32)) ∧
     (c.instr = .tqFnDir x d ta vb e → n = 2 ^ kappa → kappa ≤ 24 →
       let idx := fun (k : Nat) => lane (c.vop 0) k / 2 ^ (32 - kappa)
       (∀ k < 64, there (idx k)) → delivers (fun k => widen x (tbWidth tb) (entry (idx k)))) ∧
     (c.instr = .tqFnSeg d ta vb e → (tbWidth tb = 16 ∨ tbWidth tb = 32) →
       let seg := fun (k : Nat) => lane (c.vop 0) k / 2 ^ 20
       let f32 := fun (m : Nat) =>
         let code := entry m * (if tbWidth tb = 16 then 2 ^ 16 else 1)
         if (Fp.f32.value code).isNan then 0x7FC00000 else code
       (∀ k < 64, there (2 * seg k) ∧ there (2 * seg k + 1)) →
       delivers (fun k =>
         let rest := lane (c.vop 0) k % 2 ^ 20
         if rest = 0 then f32 (2 * seg k)
         else (roundVal .f32 .rne (addExact .rne (Fp.f32.value (f32 (2 * seg k)))
           (mulExact (Fp.f32.value (f32 (2 * seg k + 1))) (.fin false rest (-20))).1).1 false).1)) ∧
     (∀ other, other ≠ row → let off := 0x0B800000 + 2048 * other
       core < 0x7FF → s.atPlace (.cmd core 3 c.seq.toNat) core off 2048 = some u → (u.core core).marks.beats = .clean →
       ∃ t, s.fillLatch core c other = .ok 0 t ∧ (t.core core).latch.row = some other ∧
         (t.core core).latch.bytes = u.memory.read (coreKey core off) 2048 ∧ (t.bank core (bankOf off)).row = none ∧ t.memory = u.memory))

/-- R66, R263, R264, R267, R447, R450, R451, R454: `rpc.amo`, `rpc.put` and a `sendm` to another core raise `ORC`,
except in a handler, and enter the message queue; they wait while `ORC` is full. `rpc.get` makes its mailbox PENDING.
A credit that is no membership, a mailbox that is not ABSENT and a target beyond 17 bits are ILLEGAL_OPERAND. R265,
R274, R448, R454: a call reads its payload, if it has one, and makes its four reply mailboxes PENDING, or raises `ORC`
where it asks for no reply, for which it waits while `ORC` is full; a self-send reserves a place of the overflow
queue, and is MAILBOX_OVERFLOW where none is left. R22, R261 to R265, R274, R447, R448, R450, R451, R454: a remote
command at the head of the message queue whose target is the own scratchpad, and a `sendm` to a core of the job, leave
as a message to it and give up their place in the queue. -/
def Obligations.RemoteCommandsAtIssue : Prop :=
  (∀ (s : State) (op : AmoOp) (dword signed : Bool) (form : PutForm) (wd : Width) (a b m idx : Nat)
       (hc : Option Nat) (credit : Option Word) (e : Eng),
     let w := s.focus
     let u := s.own
     let raised := fun (o : RemoteOp) => if w.isHandler then u else u.modCtx w (fun x => { x with
       remote := x.remote ++ [{ o with id := x.hold.opNext }]
       hold := { x.hold with opNext := x.hold.opNext + 1 } })
     let id := if w.isHandler then none else some (u.ctx w).hold.opNext
     let aim := u.aimOf w.core (s.own.pl w) (s.own.g w a)
     let amo := Instr.rpcAmo op dword a b e
     let put := Instr.rpcPut form a b hc e
     let get := Instr.rpcGet wd signed m a e
     let send := Instr.sendm a idx b e
     let to_ := sendTarget (s.own.g w a)
     let aimed := fun (n : Nat) => raised { id := 0, dev := aim.1, column := aim.2, va := (s.own.g w a).toNat, len := n }
     ((w.isHandler = true ∨ (u.ctx w).remote.length < 0xFFFF) →
       (s.own.room w amo → Enters amo s (aimed (if dword then 8 else 4)) { s.issued amo with op := id }) ∧
       (s.own.room w put → CreditIs u w hc credit →
         Enters put s (aimed (putBytes form)) { s.issued put with op := id, credit := credit }) ∧
       (s.own.room w send → (s.own.g w a).toNat < 2 ^ 17 → ¬ (to_.1 = u.mod.devId ∧ u.physOf to_.2 = some w.core) →
         Enters send s (raised { id := 0, dev := to_.1, column := to_.2, send := true }) { s.issued send with op := id })) ∧
     (w.isHandler = false → 0xFFFF ≤ (u.ctx w).remote.length →
       (s.own.room w amo → Interlocks amo s s) ∧ (s.own.room w put → CreditIs u w hc credit → Interlocks put s s) ∧
       (s.own.room w send → (s.own.g w a).toNat < 2 ^ 17 → ¬ (to_.1 = u.mod.devId ∧ u.physOf to_.2 = some w.core) →
         Interlocks send s s)) ∧
     (s.own.room w send → 2 ^ 17 ≤ (s.own.g w a).toNat → Does send s (u.trapSync w 0x0B (s.own.g w a))) ∧
     (∀ n, hc = some n → ((u.h w n).value = 0 ∨ (u.h w n).kind ≠ .member) → s.own.room w put →
       Does put s (u.trapSync w 0x0B (u.h w n).value)) ∧
     (s.own.room w get → ((u.mail w.core).box m).state = .absent →
       Enters get s (u.modMail w.core (fun x => x.setBox m { state := .pending })) (s.issued get)) ∧
     (s.own.room w get → ((u.mail w.core).box m).state ≠ .absent → Does get s (u.trapSync w 0x0B (BitVec.ofNat 64 m)))) ∧
  (∀ (s : State) (a idx m b len : Nat) (e : Eng),
     let w := s.focus
     let call := Instr.rpcCall false a idx m b len e
     let u := s.issuing call
     let o := s.own
     let nr := Instr.rpcCall true a idx m b len e
     let send := Instr.sendm a idx b e
     let to_ := sendTarget (s.own.g w a)
     let mail := o.mail w.core
     let vas := (upTo ((len + 7) / 8)).map (fun j => s.own.g w b + BitVec.ofNat 64 (8 * j))
     (s.own.room w call → m % 4 = 0 → (∀ j < 4, ((u.mail w.core).box (m + j)).state = .absent) →
       (len = 0 ∨ (s.own.g w b).toNat % 8 = 0) → ∀ u' ws, PayloadIs u u' w vas ws →
       ∃ v, Enters call s v { s.issued call with desc := ws } ∧ OnlyCore u' v w.core ∧ v.ctx w = u'.ctx w ∧
         (∀ j < 4, (((v.mail w.core).box (m + j)).state = .pending)) ∧
         (∀ n, (n < m ∨ m + 4 ≤ n) → (v.mail w.core).box n = (u'.mail w.core).box n)) ∧
     (s.own.room w nr → (len = 0 ∨ (s.own.g w b).toNat % 8 = 0) → w.isHandler = false →
       ∀ u' ws, PayloadIs u u' w vas ws → (u'.ctx w).remote.length < 0xFFFF →
       let aim := u'.aimOf w.core (s.own.pl w) (s.own.g w a)
       Enters nr s (u'.modCtx w (fun x => { x with
           remote := x.remote ++ [{ id := x.hold.opNext, dev := aim.1, column := aim.2, va := (s.own.g w a).toNat, len := 0 }]
           hold := { x.hold with opNext := x.hold.opNext + 1 } }))
         { s.issued nr with desc := ws, op := some (u'.ctx w).hold.opNext }) ∧
     (s.own.room w nr → (len = 0 ∨ (s.own.g w b).toNat % 8 = 0) → w.isHandler = false →
       ∀ u' ws, PayloadIs u u' w vas ws → 0xFFFF ≤ (u'.ctx w).remote.length → Interlocks nr s s) ∧
     (s.own.room w nr → (len = 0 ∨ (s.own.g w b).toNat % 8 = 0) → w.isHandler = true →
       ∀ u' ws, PayloadIs u u' w vas ws → Enters nr s u' { s.issued nr with desc := ws }) ∧
     (len = 0 → PayloadIs u u w vas []) ∧
     (s.own.room w call → m % 4 ≠ 0 → Does call s (u.trapSync w 0x0B (BitVec.ofNat 64 m))) ∧
     (s.own.room w send → (s.own.g w a).toNat < 2 ^ 17 → to_.1 = o.mod.devId → o.physOf to_.2 = some w.core →
       (16 ≤ mail.overflow.length + mail.reserved → Does send s (o.trapSync w 0x13 (BitVec.ofNat 64 idx))) ∧
       (mail.overflow.length + mail.reserved < 16 → w.isHandler = true →
         Enters send s (o.modMail w.core (fun x => { x with reserved := x.reserved + 1 })) { s.issued send with pos := some 0 }) ∧
       (mail.overflow.length + mail.reserved < 16 → 0xFFFF ≤ (o.ctx w).remote.length → w.isHandler = false → Interlocks send s s) ∧
       (mail.overflow.length + mail.reserved < 16 → (o.ctx w).remote.length < 0xFFFF → w.isHandler = false →
         ∃ v, Enters send s v { s.issued send with pos := some 0, op := some (o.ctx w).hold.opNext } ∧
           (v.mail w.core).reserved = mail.reserved + 1 ∧ (v.ctx w).remote.length = (o.ctx w).remote.length + 1))) ∧
  (∀ (s : State) (core k off n : Nat) (c : Cmd),
     let va := c.op1 0
     let sent := fun (dst lane : Nat) (body : Body) => ∃ t, exec (.engineCommandEnd core 8) s = .next t ∧
       t.fabric = s.fabric ++ [{ src := ⟨core, c.slot⟩, gen := c.gen, job := (s.core core).jobId, dst, id := s.posted + 1, lane
                                 op := c.op, va, cw := c.cw.map (fun n => (n, c.seq)), body }] ∧ t.posted = s.posted + 1 ∧
       (t.queue core 8).entries = (s.queue core 8).entries.tail ∧ t.memory = s.memory
     let own := fun (len : Nat) => va.toNat = ownAperture + off ∧ off + len ≤ 0x80000 ∧ va.toNat % len = 0 ∧
       s.logicalOf core = some n
     let lane := laneOf (s.mod.devId * 2 ^ 58 + n * 2 ^ 47 + 0x10000000 + off)
     s.queueOn core 8 = true → s.soloHead core 8 = some c → c.ready = true →
       (∀ a idx b e, c.instr = .sendm a idx b e → (sendTarget va).1 = s.mod.devId → s.mod.devId < s.mod.domain →
         s.partner? core (sendTarget va).2 = some k → sent k (idx % 4) (.send idx (c.op1 1))) ∧
       (∀ op dword a b e, c.instr = .rpcAmo op dword a b e → own (if dword then 8 else 4) →
         (c.pl ≠ 0 ∨ inShadow off (if dword then 8 else 4) = false) →
         sent core lane (.amo (spKey core off) op dword (c.op1 1))) ∧
       (∀ w signed m a e, c.instr = .rpcGet w signed m a e → own w.bytes → sent core lane (.get (spKey core off) w signed m)) ∧
       (∀ form a b hc e, c.instr = .rpcPut form a b hc e → own (putBytes form) → (c.pl ≠ 0 ∨ inShadow off (putBytes form) = false) →
         sent core lane (.put (spKey core off) (natLE (putBytes form) (c.op1 1).toNat) (decide (form = .full)) c.credit)) ∧
       (∀ nr a idx m b len e, c.instr = .rpcCall nr a idx m b len e → own 1 →
         sent core lane (.call nr idx ((upTo 4).map (fun k => c.op1 (2 + k)))
           ((c.desc.flatMap (fun w => natLE 8 w.toNat)).take len) m)))

/-- R269, R273, R280, R290, R408, R410, R452: `mpeek` and `mtake` of a present mailbox with nobody before them give
its value, `mtake` leaving it ABSENT; `rpc.fence` goes on at `ORC` 0; `rpc.reply` sends the reply of a call once;
`hret` ends the handler, or the arm of its shipped task. `gw.take` on a gateway of its link gives the own-aperture
address of the oldest block in the ring, which is then taken, and frees the one taken before; it waits while there is
none, and is ILLEGAL_OPERAND on a core that is no gateway of the link. -/
def Obligations.MailboxesAndReplies : Prop :=
  ∀ (s : State) (d m link : Nat),
    let w := s.focus
    let o := s.own
    let mail := o.mail w.core
    let box := mail.box m
    let take := Instr.gwTake d link
    let z := match (o.ctx w).hold.gates.find? (fun p => decide (p.1 = link)) with
      | some p => (o.freeRing w.core p.2).modHold w (fun h => { h with gates := h.gates.erase link })
      | none => o
    (box.state = .plain → mail.waiters = [] → mail.overflow = [] → w.slot < 11 →
      (∃ t, Does (.mpeek d m) s t ∧ (d ≠ 0 → (t.ctx w).regs.g.get 0 d = box.value) ∧ (t.ctx w).hold.hand = none ∧
        (t.mail w.core).box m = box ∧ (t.mail w.core).waiters = [] ∧ t.memory = s.memory) ∧
      (∃ t, Does (.mtake d m) s t ∧ (d ≠ 0 → (t.ctx w).regs.g.get 0 d = box.value) ∧ (t.ctx w).hold.hand = none ∧
        ((t.mail w.core).box m).state = .absent ∧ (t.mail w.core).waiters = [] ∧ t.memory = s.memory)) ∧
    ((o.ctx w).remote = [] → Does .rpcFence s (o.advance w .rpcFence)) ∧ ((o.ctx w).remote ≠ [] → Interlocks .rpcFence s s) ∧
    (∀ (u : State) (r : Reply), (o.ctx w).reply = some r → Releases o u w .domain →
      (r.sent = false → Does .rpcReply s (if w.isHandler && (u.ctx w).hold.fwEntry.isSome then u else
        ((u.sendReply w r (replyValues u w)).modCtx w (fun c => { c with reply := some { r with sent := true } })).advance w
          .rpcReply)) ∧
      (r.sent = true → Does .rpcReply s (o.trapSync w cIllegalOperand 0)) ∧
      (w.isHandler = true → Does .hret s (if (u.ctx w).hold.fwEntry.isSome then u else u.endReply w r none))) ∧
    (∀ (u v : State) (r : Reply) (frame : Option Word), (o.ctx w).reply = some r → w.isHandler = false → FrameIs o u w frame →
      Releases u v w .domain → Does .hret s (v.endReply w r frame)) ∧
    ((o.ctx w).reply = none → Does .rpcReply s (o.trapSync w 0x0B 0) ∧ Does .hret s (o.trapSync w 0x0B 0)) ∧
    (∀ (u : State) (r : Reply), u.endReply w r none =
      (((if r.sent then u else u.sendReply w r (replyValues u w)).freeEntry w.core r).sendEnded r).freeContext w) ∧
    (o.isGateway w.core link = false → Does take s (o.trapSync w 0x0B (BitVec.ofNat 64 link))) ∧
    (o.isGateway w.core link = true → w.slot < 11 → (∀ x ∈ (z.mail w.core).waiters, x.1 ≠ linkWait link) →
      ((z.core w.core).part.nextBlock link = none → Does take s
        ((z.inHand w take).modMail w.core (fun x => { x with waiters := x.waiters ++ [(linkWait link, w.slot)] }))) ∧
      (∀ e, (z.core w.core).part.nextBlock link = some e → ∃ t, Does take s t ∧
        (d ≠ 0 → (t.ctx w).regs.g.get 0 d = (z.core w.core).part.ringVa e.start) ∧ (t.ctx w).hold.hand = none ∧
        (t.ctx w).pc = ((z.advance w take).ctx w).pc ∧ (t.ctx w).hold.gates.get 0 link = e.id ∧
        (t.mail w.core).waiters = (z.mail w.core).waiters ∧ t.memory = s.memory ∧
        ∀ y ∈ (t.core w.core).part.ring, y.id = e.id → y.taken = true))

/-- R276, R279, R464: `tcopy` reads its descriptor from the own scratchpad, gives the transfer's number and enters its
channel; an issue that was interrupted keeps the words it had read (notes/assumptions/69.md, DEDUCED). `cwait` goes on
once the channel has passed a transfer, with a mask that says whether it failed. -/
def Obligations.CopyCommandsAtIssue : Prop :=
  ∀ (s : State) (ch a d p : Nat) (hc : Option Nat) (credit : Option Word) (e : Eng),
    let w := s.focus
    let i := Instr.tcopy ch a d hc e
    let u := s.issuing i
    let progress := (s.ctx w).hold.progress
    let kept := if progress.isSome then (u.ctx w).hold.copyWords else []
    let va := s.own.g w a
    (∀ (v v' : State) (m m' : Store Word), s.own.room w i → va.toNat % 8 = 0 →
      CreditIs u w hc credit → DescIs u v w va (progress.getD 0) [(0, 0), (0, 1), (0, 2), (0, 3)] kept m →
      1 ≤ descDims m → descDims m ≤ 12 →
      DescIs v v' w va (progress.getD 0) ((upTo (descDims m)).flatMap (fun i => [(i, 4 + i / 2), (i, 10 + 2 * i), (i, 11 + 2 * i)]))
        m m' →
      descBad m' = false → descSkew m' = none →
      Enters i s ((v'.modHold w (fun h => { h with copyWords := [], issuing := false })).setG w d
          (BitVec.ofNat 64 (s.own.queue w.core (4 + ch)).next.toNat))
        { s.issued i with desc := (upTo 34).map (descWord m'), credit := credit }) ∧
    (let r := (s.own.core w.core).part.regs
     let id := (s.own.g w a).setWidth 32
     let gap := (r.cdone.get 0 ch - id).toNat
     let f := r.cfail.get {} ch
     1 ≤ gap → gap ≤ 0x80000000 →
      Results (.cwait p ch a) s 1
        (.p p (if f.valid = true ∧ (id - f.id).toNat < 0x80000000 then BitVec.allOnes 64 else 0)) 0)

/-- R216, R288, R289, R294, R295, R371: an acquire empties the latch; a release waits for what its scope covers; a
barrier enters every queue it names; a drain goes on when no command it saw may still write its path; `bind` and
`bind.fe` add a region of 64-byte granules once; `unbind` removes a base. -/
def Obligations.FencesAndBindings : Prop :=
  ∀ (s u : State) (sc : Scope) (path : DrainPath) (mask h a b c : Nat),
    let w := s.focus
    let o := s.own
    Does (.fence .acq sc) s ((o.emptyLatch w.core).advance w (.fence .acq sc)) ∧
    (Releases o u w sc →
      Does (.fence .rel sc) s (u.advance w (.fence .rel sc)) ∧
      Does (.fence .full sc) s ((u.emptyLatch w.core).advance w (.fence .full sc))) ∧
    (((upTo 9).filter (fun q => mask.testBit q)).any (o.queueFull w.core) = true → Does (.qfence mask) s s) ∧
    (((upTo 9).filter (fun q => mask.testBit q)).any (o.queueFull w.core) = false →
     ∃ t, Does (.qfence mask) s t ∧ (t.core w.core).part.barriers = (o.core w.core).part.barriers + 1 ∧
      ∀ q < 9, (t.queue w.core q).entries = (o.queue w.core q).entries ++
        (if mask.testBit q then [.barrier (o.core w.core).part.barriers mask] else [])) ∧
    (let stores := fun (r : Req) => decide (path = .table) && isVault r.key && decide (keyCore r.key = w.core) && isGaz (keyOff r.key)
     let seen := (o.ctx w).hold.drain.getD (writingQueues.flatMap (fun q => (o.queue w.core q).cmds.map (fun c => (q, c.seq))))
     let t := o.flush w stores
     let t' := t.modHold w (fun h => { h with drain := none })
     (o.undrained w.core path seen = false → t.flushed w stores = true →
       Does (.drain path) s ((if path = .table then t'.emptyLatch w.core else t').advance w (.drain path))) ∧
     ((o.undrained w.core path seen = true ∨ t.flushed w stores = false) →
       Interlocks (.drain path) s ((s.flush w stores).modHold w (fun h => { h with drain := some seen })))) ∧
    (let base := (o.g w b).toNat / 64 * 64
     let lim := ((o.g w b).toNat + (o.g w c).toNat + 63) / 64 * 64
     1 ≤ (o.g w c).toNat → (o.g w c).toNat ≤ 2 ^ 48 → (o.g w b).toNat + (o.g w c).toNat ≤ 2 ^ 57 →
     (∀ rid hd x, Member o u w h rid hd x →
       (4 ≤ x.regions.length → Does (.bind h b c) s (u.trapSync w 0x0B (u.g w b))) ∧
       (x.regions.length < 4 → (base, lim) ∈ x.regions → Does (.bind h b c) s (u.advance w (.bind h b c))) ∧
       (x.regions.length < 4 → (base, lim) ∉ x.regions → Does (.bind h b c) s
         ((u.setGroup rid { x with regions := x.regions ++ [(base, lim)] }).advance w (.bind h b c)))) ∧
     (∀ key, (o.g w a).toNat % 8 = 0 → Reaches o u w {} .fullEmpty (o.g w a) 8 key →
       let e := (u.asid w.core, key, base, lim)
       let l := (u.unit (clusterOf (keyCore key))).words
       (64 ≤ l.length → Does (.bindFe a b c) s (u.trapSync w 0x0B (u.g w b))) ∧
       (l.length < 64 → e ∈ l → Does (.bindFe a b c) s (u.advance w (.bindFe a b c))) ∧
       (l.length < 64 → e ∉ l → Does (.bindFe a b c) s
         ((u.modUnit (clusterOf (keyCore key)) (fun x => { x with words := x.words ++ [e] })).advance w (.bindFe a b c))))) ∧
    ((o.g w a).toNat < 2 ^ 57 → ∃ t, Does (.unbind a) s t ∧ t.cores = (o.advance w (.unbind a)).cores ∧
      t.memory = s.memory ∧ ∀ p ∈ t.units, ∀ e ∈ p.2.words, ¬ (e.1 = o.asid w.core ∧ e.2.2.1 = (o.g w a).toNat / 64 * 64))

/-- R248 to R250: `grp.new` takes a free record of the name's home unit with the context as its one member; a name in
use fails with reason 2; a join of an unknown name fails too, and one of a full record with reason 3; a first join of
a record in GATHER makes the context one more of its members, and one of an open record a joiner of the next phase,
and the form waits; a join whose boundary has passed makes the context a member; a leave gives the handle register
back. The model's own: a bad name fails before a handle register that is MEMBER is looked at and before a missing
record (DESIGN CHOICE, notes/assumptions/133.md), a handle register that is JOINING elsewhere is overwritten (DESIGN
CHOICE, notes/assumptions/134.md), and a join in trap service counts the joiner as paused (DEDUCED,
notes/assumptions/54.md). -/
def Obligations.GroupMembership : Prop :=
  ∀ (s : State) (d p a quorum h : Nat),
    let w := s.focus
    let o := s.own
    let name := o.g w a
    let asid := o.asid w.core
    let unit_ := homeOf name
    let u := o.unitFirst w.core unit_
    let fails := fun (i : Instr) (reason : Nat) =>
      Does i s (((u.setH w d {}).result w 1 (.p p (BitVec.ofNat 64 (1 + 2 ^ reason)))).advance w i)
    (nameOk name = true → (o.h w d).kind ≠ .member →
      ((u.findName asid name).isSome = true → fails (.grpNew d p a quorum) 2) ∧
      (u.findName asid name = none → (∃ k < 256, (u.group (unit_ * 256 + k)).live = false) →
        ∃ t k, Does (.grpNew d p a quorum) s t ∧ k < 256 ∧ (u.group (unit_ * 256 + k)).live = false ∧
          let x := t.group (unit_ * 256 + k)
          x.live = true ∧ x.name = name.toNat ∧ x.asid = asid ∧ x.m = 1 ∧ x.quorum = quorum ∧ x.epoch ≠ 0 ∧
          x.isOpen = decide (quorum ≤ 1) ∧ (t.h w d).kind = .member ∧ (t.h w d).arrived = false ∧
          (t.h w d).value = handleOf (unit_ * 256 + k) x.epoch ∧ (p ≠ 0 → (t.ctx w).regs.p.get allOnes p = 0)) ∧
      (u.findName asid name = none → fails (.grpJoin d p a) 2) ∧
      (∀ rid, u.findName asid name = some rid →
        let x := u.group rid
        let value := handleOf rid x.epoch
        (o.h w d).kind = .joining → (o.h w d).value = value → x.phase ≠ (o.h w d).ap →
        Does (.grpJoin d p a) s (((u.setH w d { value := value, kind := .member, no := (o.h w d).no }).result w 1 (.p p 0)).advance w
          (.grpJoin d p a))) ∧
      (∀ rid, u.findName asid name = some rid →
        let x := u.group rid
        let value := handleOf rid x.epoch
        let paused := if (o.ctx w).status.intrap then x.paused + 1 else x.paused
        let v := s.unitFirst w.core unit_
        ((o.h w d).kind = .none ∨ (o.h w d).value ≠ value) →
        (16383 ≤ x.m + x.joinq → fails (.grpJoin d p a) 3) ∧
        (x.m + x.joinq < 16383 → x.isOpen = true → Interlocks (.grpJoin d p a) s
          ((v.setGroup rid { x with joinq := x.joinq + 1, paused := paused }).setH w d
            { value := value, kind := .joining, ap := x.phase, no := s.tick })) ∧
        (x.m + x.joinq < 16383 → x.isOpen = false → Interlocks (.grpJoin d p a) s
          ((v.setH w d { value := value, kind := .gathered, no := s.tick }).update rid { x with m := x.m + 1, paused := paused })))) ∧
    (nameOk name = false → Does (.grpNew d p a quorum) s (o.trapSync w 0x0B name) ∧
      Does (.grpJoin d p a) s (o.trapSync w 0x0B name)) ∧
    (∀ (v : State) (rid : Nat) (hd : Handle) (x : Group), Member o v w h rid hd x → (v.ctx w).status.intrap = false →
      Does (.grpLeave h) s (((v.setH w h {}).update rid
        (if x.isOpen = false then { x with m := x.m - 1 }
         else if hd.arrived then { x with leaveq := x.leaveq + 1 }
         else { x with a := x.a + 1, leaveq := x.leaveq + 1 })).advance w (.grpLeave h)))

/-- R253, R255, R256, R257, R259: arrivals with and without a contribution, expectations, results, status, waits and
watchdogs of a member. R254: `grp.arrd` sets MS.ARRIVED and leaves the arrival with the core until every copy that the
context has issued is complete. -/
def Obligations.GroupArrivalsAndWaits : Prop :=
  (∀ (s u v : State) (op : RedOp) (rt : RedType) (vop : VoteOp) (d h b rid : Nat) (hd : Handle) (x : Group),
     let w := s.focus
     let o := s.own
     let arrives := fun (i : Instr) (k : Contribution) (val : Word) =>
       (∀ y, x.arrive k val = some y → x.isOpen = true →
         Does i s (((v.setH w h { hd with arrived := true, ap := x.phase }).update rid y).advance w i)) ∧
       (x.isOpen = false →
         Does i s ((v.setGroup rid { x with heldArrivals := x.heldArrivals ++ [⟨w, (v.core w.core).jobId, h, false, k, val, hd.no, v.coversNow w⟩] }).inHand w i))
     Member o u w h rid hd x →
     (hd.arrived = false → ReleasesObject u v w x.regions →
       arrives (.grpArr h) .none 0 ∧ arrives (.grpRed op rt h b) (.red op rt) (o.g w b) ∧
       arrives (.grpVote vop h b) (.vote vop) (o.g w b)) ∧
     (hd.arrived = true → Does (.grpArr h) s (u.trapSync w 0x0B hd.value)) ∧
     (x.exp + (o.g w b).toNat ≤ 2 ^ 48 - 1 →
       Does (.grpExp h b) s ((u.update rid { x with exp := x.exp + (o.g w b).toNat }).advance w (.grpExp h b))) ∧
     Does (.grpRes d h) s ((u.setG w d x.res).advance w (.grpRes d h)) ∧
     Does (.grpStat d h) s ((u.setG w d (statWord x hd.arrived)).advance w (.grpStat d h)) ∧
     ((o.g w b).toNat < 2 ^ 32 →
       Does (.grpWdog h b) s ((u.setGroup rid { x with wdogT := (o.g w b).toNat, wdogRun := 0 }).advance w (.grpWdog h b))) ∧
     (hd.arrived = true → u.arrivalHeld w h hd = false → x.phase ≠ hd.ap →
       Does (.grpWait h) s (((u.setH w h { hd with arrived := false }).emptyLatch w.core).advance w (.grpWait h))) ∧
     (hd.arrived = true → x.phase = hd.ap → x.fired = true →
       Does (.grpWait h) s (u.trapSync w 0x0D (BitVec.ofNat 64 (rid * 2 ^ 32 + x.phase.toNat)))) ∧
     (hd.arrived = false → Does (.grpWait h) s (u.trapSync w 0x0B hd.value))) ∧
  (∀ (s : State) (h : Nat),
     let w := s.focus
     let o := s.own
     let x := o.h w h
     (x.value ≠ 0 → x.kind = .member → x.arrived = false →
       Does (.grpArrd h) s (((o.setH w h { x with arrived := true }).modCtx w (fun c =>
         { c with held := c.held ++ [{ h := h, handle := x.value, waits := o.copiesOf w, no := x.no, covers := o.coversNow w }] })).advance w (.grpArrd h))) ∧
     (∀ ch seq, (ch, seq) ∈ o.copiesOf w ↔ ch < 4 ∧ ∃ c ∈ (o.queue w.core (4 + ch)).cmds, c.slot = w.slot ∧ c.seq = seq) ∧
     ((x.value = 0 ∨ x.kind ≠ .member ∨ x.arrived = true) → Does (.grpArrd h) s (o.trapSync w 0x0B x.value)))

/-- R252: a phase of an open record completes exactly when every member of it has arrived and the expected bytes are
credited; the next phase then counts the joiners, less the leavers. -/
def Obligations.PhaseCompletion : Prop :=
  ∀ (x : Group), x.live = true → x.isOpen = true →
    ((x.a = x.m0 ∧ x.exp ≤ x.got) →
      x.complete.phase = x.phase + 1 ∧ x.complete.res = phaseResult x.kind x.acc ∧ x.complete.a = 0 ∧
      x.complete.m = x.m + x.joinq - x.leaveq ∧ x.complete.m0 = x.complete.m ∧ x.complete.got = x.got - x.exp ∧
      x.complete.exp = 0 ∧ x.complete.kind = .none ∧ x.complete.wdogRun = 0 ∧
      x.complete.lstatus = (if x.depnow then 8 else 0)) ∧
    (¬ (x.a = x.m0 ∧ x.exp ≤ x.got) → x.complete = x)

/-- R4, R44, R63, R461: a read delivers, with distance 4, the register as it stands, but for the fields above the
reader's privilege, which read zero; a register that has no other field is PRIVILEGE at user privilege with its number
in TVAL. R3, R63 to R66, R70, R72, R77, R175: what the registers of a context and of its core read as. VREF_NEXT.DUE
is what is left of the time until the bank's refresh, in cycles of the present core clock, and 0 for a refresh that is
overdue in the model (DESIGN CHOICE, notes/assumptions/6.md). -/
def Obligations.SystemRegisterReads : Prop :=
  (∀ (s : State) (d : Nat) (r : SysReg),
     let w := s.focus
     let o := s.own
     (o.pl w ≠ 0 → Results (.sysr d r) s 4 (.g d (o.regWord w r)) 0) ∧
     (o.pl w = 0 → r ∈ [SysReg.epc, .tcause, .tval, .tvec, .ssp, .sslim, .scratch, .cdrainLimit, .cfr, .cfrPc, .arbwin,
         .vevMask, .vevCount, .apmpc, .apsweep, .fbufStat, .scanStat, .scanSig, .ringBase, .ringSize, .htabBase] →
       Does (.sysr d r) s (o.trapSync w 0x03 (BitVec.ofNat 64 r.number))) ∧
     (o.pl w = 0 → r ∈ [SysReg.coreId, .physId, .ctxId, .clusterId, .clCores, .devId, .jobId, .asid, .ts, .cycle, .orc,
         .vrefNext, .vtemp, .lc 0, .lc 1, .ls 0, .ls 1, .le 0, .le 1] →
       Results (.sysr d r) s 4 (.g d (o.regWord w r)) 0) ∧
     (o.pl w = 0 → Results (.sysr d .status) s 4 (.g d (o.regWord w .status &&& ~~~0x8C00#64)) 0) ∧
     (o.pl w = 0 → ∀ n, Does (.sysr d (.suspect n)) s (o.trapSync w 0x03 (BitVec.ofNat 64 (SysReg.suspect n).number)) ∧
       Results (.sysr d (.cdone n)) s 4 (.g d (o.regWord w (.cdone n))) 0 ∧
       Results (.sysr d (.cfail n)) s 4 (.g d (o.regWord w (.cfail n))) 0) ∧
     (o.pl w = 0 → Results (.sysr d .actAlertSrc) s 4 (.g d (o.regWord w .actAlertSrc &&& 0x7FFFFFFFFFFFFFFF)) 0)) ∧
  (∀ (s : State) (w : Who),
     let c := s.ctx w
     let p := (s.core w.core).part.regs
     s.regWord w .epc = c.trap.epc ∧ s.regWord w .tcause = c.trap.tcause ∧ s.regWord w .tval = c.trap.tval ∧
     s.regWord w .scratch = c.trap.scratch ∧ s.regWord w .ssp = c.trap.ssp ∧ s.regWord w .sslim = c.trap.sslim ∧
     s.regWord w .tvec = p.tvec ∧ s.regWord w .orc = BitVec.ofNat 64 c.remote.length ∧
     s.regWord w .ctxId = BitVec.ofNat 64 w.slot ∧ s.regWord w .physId = BitVec.ofNat 64 w.core ∧
     s.regWord w .cycle = BitVec.ofNat 64 (s.clock - (s.core w.core).marks.cycle) ∧
     (∀ sel < 48, c.trap.vrefSel.toNat = sel →
       (s.regWord w .vrefNext).extractLsb' 0 32 = BitVec.ofNat 32 (s.coreCycles (s.bankDue w.core sel - s.dram))) ∧
     (∀ n, s.coreCycles n = (n * s.mod.mhz + 1999) / 2000) ∧
     s.regWord w .ringBase = p.ringBase ∧ s.regWord w .ringSize = p.ringSize ∧ s.regWord w .htabBase = p.htabBase ∧
     (s.regWord w (.lc 0)).extractLsb' 0 32 = c.lc0.count ∧ (s.regWord w (.lc 0)).getLsbD 32 = c.lc0.active ∧
     s.regWord w (.ls 1) = c.lc1.first ∧ s.regWord w (.le 1) = c.lc1.last ∧
     (s.regWord w .status).extractLsb' 8 2 = c.status.pl ∧ (s.regWord w .status).extractLsb' 10 2 = c.status.ppl ∧
     (s.regWord w .status).getLsbD 0 = c.status.intrap ∧ (s.regWord w .status).getLsbD 15 = c.status.hzd ∧
     (s.regWord w .status).getLsbD 14 = s.mod.dbg ∧
     (c.hold.flights = [] → (s.regWord w .status).extractLsb' 16 5 = c.status.fflags))

/-- R5, R64, R65, R69, R71, R72, R74, R117, R462: at supervisor or firmware privilege a write takes the writable bits
of its register: the trap registers, vector, masks and windows; STATUS; the loop registers; the event counters; the
VALID and DROPPED bits that a written 1 clears. R4, R63, R462: at user privilege a `sysw` that would change a field
above it takes PRIVILEGE with the register's number in TVAL, and no field is written: the supervisor's registers, PPL,
HZD while debug is authorised, the VALID and DROPPED bits of others' records, suspect scores and the ring. One that
would not change such a field goes on, and so do FFLAGS, the loop registers, a CFAIL record and the selector of
VREF_NEXT. At every privilege a write of a read-only register is ignored. R4, R73, R75, R77, R243, R326: suspect
scores are the written bytes; a ring register takes an aligned place that fits while the ring is empty, and any other
value is ILLEGAL_OPERAND; a plane progress register takes a write unless it is VALID while the plane runs, and ignores
it then, at user privilege too. Behind a write the ring's tail is at its base (DESIGN CHOICE,
notes/assumptions/32.md). -/
def Obligations.SystemRegisterWrites : Prop :=
  (∀ (s : State) (a n : Nat),
     let w := s.focus
     let o := s.own
     let x := o.g w a
     let trap := fun (r : SysReg) (f : TrapRegs → TrapRegs) => Does (.sysw a r) s ((o.modTrap w f).advance w (.sysw a r))
     let part := fun (r : SysReg) (f : PartRegs → PartRegs) => Does (.sysw a r) s ((o.modRegs w.core f).advance w (.sysw a r))
     o.pl w ≠ 0 →
     trap .epc (fun t => { t with epc := x &&& 0x1FFFFFFFFFFFFF8 }) ∧ trap .tcause (fun t => { t with tcause := x &&& 0xFF }) ∧
     trap .tval (fun t => { t with tval := x }) ∧ trap .scratch (fun t => { t with scratch := x }) ∧
     trap .ssp (fun t => { t with ssp := x &&& ~~~7#64 }) ∧ trap .sslim (fun t => { t with sslim := x &&& ~~~7#64 }) ∧
     part .tvec (fun p => { p with tvec := x &&& 0x1FFFFFFFFFFFFE0 }) ∧
     part .vevMask (fun p => { p with vevMask := x &&& 0x1F }) ∧ part .arbwin (fun p => { p with arbwin := x &&& 0xFFFF }) ∧
     part .cdrainLimit (fun p => { p with cdrainLimit := x &&& 0xFFFFFFFF }) ∧
     trap .vrefNext (fun t => { t with vrefSel := x.extractLsb' 48 6 }) ∧
     (∃ t, Does (.syswStatus a) s t ∧ (t.ctx w).status.ppl = x.extractLsb' 10 2 ∧
       (t.ctx w).status.fflags = x.extractLsb' 16 5 ∧ (t.ctx w).status.pl = (o.ctx w).status.pl ∧
       (t.ctx w).status.intrap = (o.ctx w).status.intrap ∧
       (t.ctx w).status.hzd = (if o.mod.dbg then x.getLsbD 15 else (o.ctx w).status.hzd) ∧
       (∀ f ∈ (t.ctx w).hold.flights, f.flags = 0) ∧ (∀ f ∈ (t.ctx w).hold.divergence, f.flags = 0)) ∧
     Does (.syswLoop a (.lc 0)) s ((o.modCtx w (fun c => { c with
       lc0 := { c.lc0 with active := x.getLsbD 32, count := x.setWidth 32 } })).advance w (.syswLoop a (.lc 0))) ∧
     Does (.syswLoop a (.le 1)) s ((o.modCtx w (fun c => { c with
       lc1 := { c.lc1 with last := x &&& 0x1FFFFFFFFFFFFF8 } })).advance w (.syswLoop a (.le 1))) ∧
     (∃ t, Does (.syswVevCount a) s t ∧ (t.core w.core).part.regs.vevCount = x &&& 0x0FFFFFFFFFFFFFFF) ∧
     (∃ t, Does (.syswCfail a n) s t ∧ (t.core w.core).part.regs.cfail.get {} n =
       (if x.getLsbD 32 then {} else (o.core w.core).part.regs.cfail.get {} n)) ∧
     (∃ t, Does (.syswFbufStat a) s t ∧
       (x.getLsbD 63 = true → (t.cluster (clusterOf w.core)).dropped = false ∧ (t.cluster (clusterOf w.core)).dropCount = 0) ∧
       (x.getLsbD 63 = false → t.clusters = o.clusters)) ∧
     (∃ t, Does (.syswActAlertSrc a) s t ∧
       (t.core w.core).marks.actValid = (if x.getLsbD 63 then false else (o.core w.core).marks.actValid))) ∧
  (∀ (s : State) (a n : Nat) (r : SysReg),
     let w := s.focus
     let o := s.own
     let x := o.g w a
     let traps := fun (i : Instr) (number : Nat) => Does i s (o.trapSync w 0x03 (BitVec.ofNat 64 number))
     (r ∈ [SysReg.coreId, .physId, .ctxId, .clusterId, .clCores, .devId, .jobId, .asid, .ts, .cycle, .orc, .cdone n, .cfr, .cfrPc,
         .vtemp, .scanStat, .scanSig] → Does (.sysw a r) s (o.advance w (.sysw a r))) ∧
     (o.pl w = 0 →
       (∀ e ∈ [(SysReg.epc, 0x1FFFFFFFFFFFFF8#64, 0x011), (.tcause, 0xFF, 0x012), (.tval, BitVec.allOnes 64, 0x013),
           (.tvec, 0x1FFFFFFFFFFFFE0, 0x014), (.ssp, ~~~7#64, 0x015), (.sslim, ~~~7#64, 0x016), (.scratch, BitVec.allOnes 64, 0x017),
           (.cdrainLimit, 0xFFFFFFFF, 0x029), (.arbwin, 0xFFFF, 0x030), (.vevMask, 0x1F, 0x031)],
         (x &&& e.2.1 ≠ o.regWord w e.1 &&& e.2.1 → traps (.sysw a e.1) e.2.2) ∧
         (x &&& e.2.1 = o.regWord w e.1 &&& e.2.1 → ∃ t, Does (.sysw a e.1) s t ∧ t.regWord w e.1 = x &&& e.2.1)) ∧
       (let st := (o.ctx w).status;
         ((x.extractLsb' 10 2 ≠ st.ppl ∨ (o.mod.dbg = true ∧ x.getLsbD 15 ≠ st.hzd)) → traps (.syswStatus a) 0x010) ∧
         (x.extractLsb' 10 2 = st.ppl → (o.mod.dbg = true → x.getLsbD 15 = st.hzd) → ∃ t, Does (.syswStatus a) s t ∧
           (t.ctx w).status = { st with fflags := x.extractLsb' 16 5 } ∧ (∀ f ∈ (t.ctx w).hold.flights, f.flags = 0))) ∧
       (x.getLsbD 32 = true → ∃ t, Does (.syswCfail a n) s t ∧ (t.core w.core).part.regs.cfail.get {} n = {}) ∧
       Does (.sysw a .vrefNext) s ((o.modTrap w (fun t => { t with vrefSel := x.extractLsb' 48 6 })).advance w (.sysw a .vrefNext)) ∧
       Does (.syswLoop a (.lc 1)) s ((o.modCtx w (fun c => { c with
         lc1 := { c.lc1 with active := x.getLsbD 32, count := x.setWidth 32 } })).advance w (.syswLoop a (.lc 1))) ∧
       (x &&& 0x0FFFFFFFFFFFFFFF ≠ o.regWord w .vevCount &&& 0x0FFFFFFFFFFFFFFF → traps (.syswVevCount a) 0x032) ∧
       (x.getLsbD 63 = true → traps (.syswFbufStat a) 0x060 ∧ traps (.syswActAlertSrc a) 0x035) ∧
       (x.getLsbD 63 = false → Does (.syswFbufStat a) s (o.advance w (.syswFbufStat a)) ∧
         Does (.syswActAlertSrc a) s (o.advance w (.syswActAlertSrc a))) ∧
       ((∃ j < 8, 8 * n + j ≤ 96 ∧ x.toNat / 2 ^ (8 * j) % 256 ≠ o.score w.core (8 * n + j)) → traps (.syswSuspect a n) (0x070 + n)) ∧
       (∀ e ∈ [(SysReg.ringBase, 0x7FFC0#64, 0x090), (.ringSize, 0x7FFC0, 0x091), (.htabBase, BitVec.allOnes 64, 0x092)],
         x &&& e.2.1 ≠ o.regWord w e.1 &&& e.2.1 → traps (.syswRing a e.1) e.2.2) ∧
       ((o.planeRuns w.core = false ∨ (o.regWord w .apmpc).getLsbD 31 = false) →
         x &&& 0x801FFFFF ≠ o.regWord w .apmpc &&& 0x801FFFFF → traps (.syswPlaneProgress a .apmpc) 0x050) ∧
       ((o.planeRuns w.core = false ∨ (o.regWord w .apsweep).getLsbD 63 = false) →
         x &&& 0xE000FFFF0FFFF800 ≠ o.regWord w .apsweep &&& 0xE000FFFF0FFFF800 → traps (.syswPlaneProgress a .apsweep) 0x051))) ∧
  (∀ (s : State) (a n j : Nat),
     let w := s.focus
     let o := s.own
     let x := o.g w a
     let p := (o.core w.core).part
     let ring := fun (r : SysReg) (f : PartRegs → PartRegs) => Does (.syswRing a r) s
       (((o.modRegs w.core f).modPart w.core (fun q => { q with ringAt := 0 })).advance w (.syswRing a r))
     (o.pl w ≠ 0 →
       (∃ t, Does (.syswSuspect a n) s t ∧ (j < 8 → 8 * n + j ≤ 96 → t.score w.core (8 * n + j) = x.toNat / 2 ^ (8 * j) % 256)) ∧
       (p.ring = [] → ringFits x.toNat p.regs.ringSize.toNat = true → ring .ringBase (fun q => { q with ringBase := x })) ∧
       (p.ring = [] → ringFits p.regs.ringBase.toNat x.toNat = true → ring .ringSize (fun q => { q with ringSize := x })) ∧
       ((p.ring ≠ [] ∨ x.toNat % 64 ≠ 0 ∨ 0x80000 < x.toNat) →
         Does (.syswRing a .ringBase) s (o.trapSync w 0x0B x) ∧ Does (.syswRing a .ringSize) s (o.trapSync w 0x0B x)) ∧
       (x.toNat % 1024 = 0 → 0x0B150000 ≤ x.toNat → x.toNat ≤ 0x0B153C00 → Does (.syswRing a .htabBase) s
         ((o.modRegs w.core (fun q => { q with htabBase := x })).advance w (.syswRing a .htabBase))) ∧
       ((o.planeRuns w.core = false ∨ (o.regWord w .apmpc).getLsbD 31 = false) →
         ∃ t, Does (.syswPlaneProgress a .apmpc) s t ∧ (t.core w.core).part.plane.apmpc = x &&& 0x801FFFFF)) ∧
     (o.planeRuns w.core = true → (o.regWord w .apmpc).getLsbD 31 = true →
       Does (.syswPlaneProgress a .apmpc) s (o.advance w (.syswPlaneProgress a .apmpc))) ∧
     (o.planeRuns w.core = true → (o.regWord w .apsweep).getLsbD 63 = true →
       Does (.syswPlaneProgress a .apsweep) s (o.advance w (.syswPlaneProgress a .apsweep))))

/-- R320, R326, R385, R393, R436: the event latch is read and cleared; the fault buffer gives its oldest entry, or 0;
a unit is quarantined; the queue that a fault held goes on, a faulted load gives up its place, and the next fault is
recorded, while a trap that is still pending keeps its cause. R327, R439: `redo` without a record is ILLEGAL_OPERAND;
with records it settles them: none is left, and memory, EPC and the handles stay. A record of one diverged unit is
settled by a third execution on the unit's partner: the main result is written where the third is close to it, the
third where that is close to the shadow, and nothing otherwise or over a later-issued write; the unit's score rises,
and its partner's too where nothing agrees, or nothing is executed without a partner; TVAL holds the outcome, and
whether a score reached 128. -/
def Obligations.EventsFaultsAndQuarantine : Prop :=
  (∀ (s : State) (d a : Nat),
     let w := s.focus
     let o := s.own
     let k := clusterOf w.core
     let ev := (o.core w.core).marks.events
     let regs := (o.core w.core).part.regs
     (ev ≠ 0 → Does (.evwait d) s
       (((o.modMarks w.core (fun m => { m with events := 0 })).setG w d (ev.setWidth 64)).advance w (.evwait d))) ∧
     ((o.cluster k).fbuf = [] → Results (.fbufPop d) s 4 (.g d 0) 0) ∧
     (∀ e rest, (o.cluster k).fbuf = e :: rest → Does (.fbufPop d) s
       (((o.modCluster k (fun c => { c with fbuf := rest })).result w 4 (.g d e)).advance w (.fbufPop d))) ∧
     ((o.g w a).toNat ≤ 96 → Does (.qrt a) s ((o.setScore w.core (o.g w a).toNat 255).advance w (.qrt a))) ∧
     ((o.setScore w.core (o.g w a).toNat 255).quarantined w.core (o.g w a).toNat = true) ∧
     (96 < (o.g w a).toNat → Does (.qrt a) s (o.trapSync w 0x0B (o.g w a))) ∧
     (regs.cfr = none → Does .cqResume s (o.advance w .cqResume)) ∧
     (∀ f, regs.cfr = some f → regs.faults = [] → ∃ t, Does .cqResume s t ∧
       (f.joint = false → (t.queue w.core f.queue).held = false) ∧
       (f.joint = true → (t.queue w.core 0).held = false ∧ (t.queue w.core 1).held = false) ∧
       (t.core w.core).part.regs.cfr = none ∧ (t.core w.core).part.regs.cfrLast = f.word ∧
       (∀ n, f.stream = some n → ((t.core w.core).part.streams.get {} n).resv = (((o.core w.core).part.streams.get {} n).resv - 1)) ∧
       (f.stream = none → (t.core w.core).part.streams = (o.core w.core).part.streams) ∧
       t.memory = s.memory ∧ (t.ctx w).pc = ((o.advance w .cqResume).ctx w).pc) ∧
     (∀ f g rest, regs.cfr = some f → regs.faults = g :: rest → g.joint = false → g.slot < 11 → ∃ t, Does .cqResume s t ∧
       (t.core w.core).part.regs.cfr = some g ∧ (t.core w.core).part.regs.cfrPc = g.pc ∧
       (t.core w.core).part.regs.faults = rest ∧ (t.queue w.core g.queue).held = true ∧
       (o.lives ⟨w.core, g.slot⟩ g.gen = true → (t.ctx ⟨w.core, g.slot⟩).hold.pending.command =
         some (((o.ctx ⟨w.core, g.slot⟩).hold.pending.command).getD (g.cause, g.tval))))) ∧
  (∀ (s : State),
     let w := s.focus
     let o := s.own
     let l := (o.ctx w).hold.divergence
     (l = [] → Does .redo s (o.trapSync w 0x0B 0)) ∧
     (l ≠ [] → ∃ t, Does .redo s t ∧ (t.ctx w).hold.divergence = [] ∧ t.memory = s.memory ∧
       (t.ctx w).trap.epc = (o.ctx w).trap.epc ∧ (t.ctx w).regs.h = (o.ctx w).regs.h) ∧
     (∀ (r : DivRecord) (n lane : Nat) (shadow : BitVec 32) (out : FpOut),
       l = [r] → r.units = [⟨n, lane, shadow⟩] → (o.core w.core).marks.upsets = [] →
       r.instr.fpOut (o.g w) (o.v w) r.scales = some out → o.partner w.core n ≠ some n →
       let third := out.write.lane lane
       let near := fun (x : Nat) => !out.fmt.laneDiverges third x
       let p := o.partner w.core n
       let outcome := if p = none then 3 else if near (r.write.lane lane) then 1 else if near shadow.toNat then 2 else 3
       let raised := fun (k : Nat) => decide (k = n) || (decide (outcome = 3) && decide (p = some k))
       let result := if outcome = 2 then r.write.setLane lane third else r.write
       let high := (upTo 97).any (fun k => raised k && decide (o.score w.core k < 128) && decide (128 ≤ o.score w.core k + 16))
       n ≤ 96 → ∃ t, Does .redo s t ∧
         (∀ k, t.score w.core k = if raised k then min 255 (o.score w.core k + 16) else o.score w.core k) ∧
         (t.ctx w).trap.tval.extractLsb' 61 2 = BitVec.ofNat 2 outcome ∧ (t.ctx w).trap.tval.getLsbD 60 = high ∧
         (∀ k < 60, (t.ctx w).trap.tval.getLsbD k = (o.ctx w).trap.tval.getLsbD k) ∧
         (t.ctx w).regs = (if outcome = 3 ∨ r.overtaken then (o.ctx w).regs else (o.ctx w).regs.put result) ∧
         (t.ctx w).status.fflags = (if outcome = 3 then (o.ctx w).status.fflags else (o.ctx w).status.fflags ||| r.flags)))

/-- R158, R159, R466, R467: `tlb.inv.all` leaves no cached translation in any core or cluster, `tlb.inv.asid` none of
an address space, `tlb.inv.ranges` none of its ranges and `tlb.inv.page` no page of the own address space that holds
the address; `tlb.replay` walks every parked request of the cluster afresh, and leaves the others. R150 to R154, R156,
R157: once the ranges of its address space are read, a walk that reads an absent page parks and is recorded for
supervisor software; one that reads a present page is cached; a range over the address wins, and no page is read. A
range table is read for an address space that a core of the cluster uses, and the cluster holds no more than 64
ranges. -/
def Obligations.TranslationCaches : Prop :=
  (∀ (s : State) (a : Nat),
     let w := s.focus
     let x := s.own.g w a
     let own := s.own.asid w.core
     (∃ t, Does (.tlbInv a .all) s t ∧
       (∀ p ∈ t.cores, p.2.l1Pages = [] ∧ p.2.l1Ranges = []) ∧
       (∀ p ∈ t.clusters, p.2.pages = [] ∧ p.2.ranges = [] ∧ p.2.read = []) ∧ t.memory = s.memory) ∧
     (x.toNat < 2 ^ 16 →
       (∃ t, Does (.tlbInv a .asid) s t ∧ t.memory = s.memory ∧
         (∀ p ∈ t.cores, ∀ m ∈ p.2.l1Pages ++ p.2.l1Ranges, m.asid ≠ x.setWidth 16) ∧
         (∀ p ∈ t.clusters, (∀ m ∈ p.2.pages ++ p.2.ranges, m.asid ≠ x.setWidth 16) ∧ x.setWidth 16 ∉ p.2.read)) ∧
       (∃ t, Does (.tlbInv a .ranges) s t ∧ t.memory = s.memory ∧
         (∀ p ∈ t.cores, ∀ m ∈ p.2.l1Ranges, m.asid ≠ x.setWidth 16) ∧
         (∀ p ∈ t.clusters, (∀ m ∈ p.2.ranges, m.asid ≠ x.setWidth 16) ∧ x.setWidth 16 ∉ p.2.read))) ∧
     (x.toNat < 2 ^ 57 → ∃ t, Does (.tlbInv a .page) s t ∧ t.memory = s.memory ∧
       (∀ p ∈ t.cores, ∀ m ∈ p.2.l1Pages, m.asid = own → m.covers own x.toNat = false) ∧
       (∀ p ∈ t.clusters, ∀ m ∈ p.2.pages, m.asid = own → m.covers own x.toNat = false)) ∧
     (2 ^ 57 ≤ x.toNat → Does (.tlbInv a .page) s (s.own.trapSync w 0x0B x) ∧ Does (.tlbInv a .asid) s (s.own.trapSync w 0x0B x) ∧
       Does (.tlbInv a .ranges) s (s.own.trapSync w 0x0B x)) ∧
     (∃ t, Does .tlbReplay s t ∧ t.memory = s.memory ∧
       (∀ y ∈ (t.cluster (clusterOf w.core)).walks, ∀ size page, y.state ≠ .parked size page) ∧
       (t.cluster (clusterOf w.core)).walks.length = (s.own.cluster (clusterOf w.core)).walks.length ∧
       (∀ y ∈ (s.own.cluster (clusterOf w.core)).walks, (∀ size page, y.state ≠ .parked size page) →
         y ∈ (t.cluster (clusterOf w.core)).walks) ∧
       (∀ y ∈ (s.own.cluster (clusterOf w.core)).walks, ∀ size page, y.state = .parked size page →
         ∃ z ∈ (t.cluster (clusterOf w.core)).walks, z.client = y.client ∧ z.va = y.va ∧ z.page = some (size, page) ∧
           ∃ root, z.state = .walking 4 root))) ∧
  (∀ (s : State) (cluster n asid size page : Nat) (x : Walk) (m : Mapping),
     let c := s.cluster cluster
     (c.walks[n]? = some x → (∃ l t, x.state = .walking l t) → x.page = none →
       (x.asid ∉ c.read → exec (.pageWalkEnd cluster n) s = .next s) ∧
       (x.asid ∈ c.read → bestRange c.ranges x.asid x.va = some m →
         ∃ t, exec (.pageWalkEnd cluster n) s = .next t ∧ (t.cluster cluster).pages = c.pages ∧
           (t.cluster cluster).walks[n]? = some { x with state := .done (some m) }) ∧
       (x.asid ∈ c.read → bestRange c.ranges x.asid x.va = none →
         ((s.walkLevel x).state = .done (some m) → c.pages.length < 2048 → m ∉ c.pages → m ∉ c.ranges →
           ∃ t, exec (.pageWalkEnd cluster n) s = .next t ∧ (t.cluster cluster).pages = c.pages ++ [m]) ∧
         ((s.walkLevel x).state = .parked size page → c.fbuf = [] →
           ∃ t, exec (.pageWalkEnd cluster n) s = .next t ∧ (t.cluster cluster).fbuf = [faultEntry size x.asid page] ∧
             ∀ k ∈ coresOfCluster cluster, (t.core k).marks.events.getLsbD 0 = true))) ∧
     (BitVec.ofNat 16 asid ∉ c.read → s.mod.powered = true →
       (∃ k ∈ coresOfCluster cluster, (s.core k).run.isSome = true ∧ (s.core k).asid = BitVec.ofNat 16 asid) →
       ∃ t, exec (.rangeTableRead cluster asid) s = .next t ∧ BitVec.ofNat 16 asid ∈ (t.cluster cluster).read ∧
         t.memory = s.memory ∧ t.cores = s.cores ∧
         ((∀ m ∈ c.ranges, m.asid ∈ c.read) → (t.cluster cluster).ranges.length ≤ 64)))

/-- R138, R149, R155: what a translation answers outside the mapped range: no page table is TRANSLATION; the firmware
window reaches any column at firmware privilege and is TRANSLATION below it; the rest above is TRANSLATION. -/
def Obligations.TranslationWindows : Prop :=
  ∀ (s : State) (cl : Client) (core va : Nat) (asid : BitVec 16) (pl : BitVec 2) (need : Need),
    (va < 0x1C0 * 2 ^ 48 → (s.dx.asids.get {} asid.toNat).ptroot = none →
      s.translate cl core asid pl need va = .fault 0x05) ∧
    (0x1C0 * 2 ^ 48 ≤ va → va < 0x1E0 * 2 ^ 48 → pl = 2 → s.translate cl core asid pl need va =
      .ok (s.mod.devId * 2 ^ 58 + va / 2 ^ 42 % 2 ^ 11 * 2 ^ 47 + va % 2 ^ 42)) ∧
    (0x1C0 * 2 ^ 48 ≤ va → va < 0x1E0 * 2 ^ 48 → pl ≠ 2 → s.translate cl core asid pl need va = .fault 0x05) ∧
    (0x1E0 * 2 ^ 48 ≤ va → va / 2 ^ 32 ≠ 0x1FFFFFF → s.translate cl core asid pl need va = .fault 0x05) ∧
    (∀ (m : Mapping), va < 0x1C0 * 2 ^ 48 → (s.dx.asids.get {} asid.toNat).ptroot.isSome = true →
      asid ∈ (s.cluster (clusterOf core)).read → s.cached core asid va = some m →
      s.translate cl core asid pl need va =
        if m.permits need (decide (pl = 0)) then .ok (m.target + (va - m.base)) else .fault 0x05)

/-- R76, R328, R329, R453: a scan of an idle core of the cluster starts; its end gives its state and signature and
frees the target for dispatch again if it passed; an abort stops it with state 4. -/
def Obligations.Scans : Prop :=
  ∀ (s : State) (a d target cluster issuer : Nat) (sig : Word) (stop : Bool),
    let w := s.focus
    let o := s.own
    let here := clusterOf w.core
    (∀ k, (o.g w a).toNat / 24 = here → o.physOf (o.g w a).toNat = some k → k ≠ w.core → (o.core k).run = none →
      (o.core k).saved = none → (o.core k).marks.underScan = false → o.taken (o.g w a).toNat = false →
      (o.cluster here).scan = none →
      ∃ t, Does (.scanRun a) s t ∧ (t.core k).marks.underScan = true ∧ (t.core w.core).marks.scanState = 1 ∧
        (t.core w.core).marks.scanTarget = (o.g w a).toNat ∧ (t.cluster here).scan = some (w.core, k, false)) ∧
    ((o.g w a).toNat / 24 ≠ here → Does (.scanRun a) s (o.trapSync w 0x0B (o.g w a))) ∧
    (∃ t, Does .scanAbort s t ∧ t.cores = (o.advance w .scanAbort).cores ∧
      (∀ x b, (o.cluster here).scan = some (w.core, x, b) → (t.cluster here).scan = some (w.core, x, true)) ∧
      (∀ v x b, v ≠ w.core → (o.cluster here).scan = some (v, x, b) → (t.cluster here).scan = some (v, x, b))) ∧
    ((o.core w.core).marks.scanState ≠ 1 → Does (.scanSig d) s ((o.setG w d (o.scanWord w.core)).advance w (.scanSig d))) ∧
    ((s.cluster cluster).scan = some (issuer, target, stop) → s.mod.powered = true → issuer ≠ target →
      (∃ t, exec (.scanEnd cluster sig) s = .next t ∧ (t.cluster cluster).scan = none ∧
        (t.core issuer).marks.scanState = (if sig = s.expectedSig target then 2 else 3) ∧
        (t.core issuer).marks.scanSig = sig ∧ (t.core target).marks.underScan = false ∧
        (t.core target).marks.scanFailed = decide (sig ≠ s.expectedSig target)) ∧
      (stop = true → ∃ t, exec (.scanAbortStop cluster) s = .next t ∧ (t.cluster cluster).scan = none ∧
        (t.core issuer).marks.scanState = 4 ∧ (t.core target).marks.underScan = false))

/-- R12, R330, R384: a request to replace an idle core goes to the DX while its context waits; performed, the logical
slot is unmapped, or maps to the cluster's spare, which is then in use, and the context goes on behind it. A request
of a cluster for which another is under way waits; a core that is not idle, or is unmapped, or a spare in use is
ILLEGAL_OPERAND. An evacuation whose self-test passes brings the removed vault's general and Gazetteer regions to the
spare's, with their poison marks, and what it cannot reach there is poisoned; one whose self-test fails raises
UNCORRECTABLE and changes no mapping. Where nothing is evacuated, a core that fails its self-test serves its
neighbours' Welts no longer. -/
def Obligations.CoreMapChanges : Prop :=
  ∀ (s : State) (a b : Nat) (k n gen : Nat) (evac unmap : Bool) (v : Who),
    let w := s.focus
    let o := s.own
    let x := (o.g w a).toNat
    let y := o.g w b
    let spare := physAt (n / 24) (s.dx.spareOf (n / 24))
    let request := fun (evac unmap : Bool) => ({ who := v, gen := gen, core := n, evac := evac, unmap := unmap } : Moving)
    (x ≤ 1151 → y.toNat < 4 → o.logicalOf w.core ≠ some x →
      ((∃ m ∈ o.dx.moving, m.core / 24 = x / 24) → Interlocks (.cmap a b) s s) ∧
      ((∀ m ∈ o.dx.moving, m.core / 24 ≠ x / 24) →
        (o.physOf x = none → Does (.cmap a b) s (o.trapSync w 0x0B (o.g w a))) ∧
        (o.physOf x = some k →
          (((o.core k).run.isSome = true ∨ (o.core k).saved.isSome = true ∨ (o.core k).marks.underScan = true ∨ o.taken x = true) →
            Does (.cmap a b) s (o.trapSync w 0x0B (o.g w a))) ∧
          ((o.core k).run = none → (o.core k).saved = none → (o.core k).marks.underScan = false → o.taken x = false →
            ((y.getLsbD 1 = false → x / 24 ∉ o.dx.spareUsed) → ¬ (y.getLsbD 0 = true ∧ y.getLsbD 1 = true) →
              Does (.cmap a b) s (({ o with dx := { o.dx with moving := o.dx.moving ++ [({
                who := w, gen := (o.ctx w).hold.gen, core := x, evac := y.getLsbD 0, unmap := y.getLsbD 1 } : Moving)] } }).inHand w (.cmap a b))) ∧
            (y.getLsbD 1 = false → x / 24 ∈ o.dx.spareUsed → Does (.cmap a b) s (o.trapSync w 0x0B y)))))) ∧
    ((1151 < x ∨ 4 ≤ y.toNat ∨ o.logicalOf w.core = some x) → Does (.cmap a b) s (o.trapSync w 0x0B (o.g w a))) ∧
    (s.dx.moving = [request false unmap] → s.physOf n = some k → n < 1152 →
      (∃ t, exec (.cmapPerform v.core true) s = .next t ∧
        t.physOf n = (if unmap then none else some spare) ∧
        (unmap = false → n / 24 ∈ t.dx.spareUsed) ∧ t.dx.keys.get 0 n = 0 ∧ t.dx.moving = [] ∧
        (s.lives v gen = true → (s.ctx v).hold.hand = some (.cmap a b) → (t.ctx v).hold.hand = none) ∧
        (s.lives v gen = true → (s.ctx v).hold.hand = some (.cmap a b) → s.dx.jobs = [] →
          (∀ p ∈ s.cores, p.2.part.mail.waiters = []) → v.core ≠ k → v.core ≠ spare → t.ctx v = (s.finish v (.cmap a b)).ctx v)) ∧
      (∃ t, exec (.cmapPerform v.core false) s = .next t ∧ t.physOf n = (if unmap then none else some spare) ∧
        (t.core k).vault.dead = true ∧ t.dx.moving = [])) ∧
    (s.dx.moving = [request true false] → s.physOf n = some k → n < 1152 → k < 0x7FF → k ≠ spare → s.memory.wf = true →
      s.dx.jobs = [] → (∀ p ∈ s.cores, p.2.part.mail.waiters = []) →
      ∃ t, exec (.cmapPerform v.core true) s = .next t ∧ t.physOf n = some spare ∧ n / 24 ∈ t.dx.spareUsed ∧
        ∀ off, evacuated off = true → s.sectorReached spare off = true →
          (s.sectorReached k off = true → t.memory.byte (coreKey spare off) = s.memory.byte (coreKey k off) ∧
            t.memory.marked (coreKey spare off) = s.memory.marked (coreKey k off)) ∧
          (s.sectorReached k off = false → t.memory.marked (coreKey spare off) = true)) ∧
    (s.dx.moving = [request true false] → s.physOf n = some k → (s.ctx v).hold.hand = some (.cmap a b) → v.slot < 11 →
      s.lives v gen = true → (s.ctx v).pc ≠ s.trapEntry v →
      ∃ t, exec (.cmapPerform v.core false) s = .next t ∧ t.dx.map = s.dx.map ∧ t.dx.spareUsed = s.dx.spareUsed ∧
        t.dx.moving = [] ∧ (t.ctx v).trap.tcause = 0x0A ∧ (t.ctx v).trap.tval = BitVec.ofNat 64 k)

/-- R301, R416: a submission of a descriptor in the own scratchpad reaches the DX once the context's writes are
performed; where nothing of the core is outstanding that is at once; a count above 2,047 and a descriptor that is not
128-byte aligned are refused. A write that waits at its bank holds the form up (R283). The model's own: the DX
performs the request and replies within the step (notes/assumptions/87.md), and the job's slice is MAXSLICE as it
stood when the job was queued (notes/assumptions/79.md). R299, R302, R303, R305: a waiting job whose deadline has come
is due; a running part whose slice is over is marked; an eligible job that finds its cores is started on them. Of two
eligible jobs, in whichever order they stand, the DX takes that with the earlier effective deadline first, at a tie
that of the lower tier, then the earlier one, then that of the lower queue; the other one is left waiting where it
then finds no cores. -/
def Obligations.JobSubmissionAndDispatch : Prop :=
  (∀ (s u v x : State) (a b pa off : Nat),
     let w := s.focus
     let o := s.own
     let va := o.g w a
     let words := fun (t : State) => (upTo 16).map (fun k => t.word (spKey w.core off + 8 * k))
     let sized := fun (t : State) => withField ((words t).getD 4 0) 20 11 (o.g w b).toNat
     let word4 := fun (t : State) => match (t.core w.core).run with
       | some r => if t.isUser w then
           withField (withField (sized t) 0 16 (t.asid w.core).toNat) 16 2 (max ((sized t).toNat / 2 ^ 16 % 4) r.tier) else sized t
       | none => sized t
     let submitted := fun (t y : State) => (y.jobArrival (((words t).set 3 0).set 4 (word4 t)) (48 + clusterOf w.core % 16)
       (y.core w.core).jobId).advance w (.jsub a b)
     (2048 ≤ (o.g w b).toNat → Does (.jsub a b) s (o.trapSync w 0x0B (o.g w b))) ∧
     ((o.g w b).toNat < 2048 → va.toNat % 128 ≠ 0 → Does (.jsub a b) s (o.trapSync w 0x04 va)) ∧
     ((o.g w b).toNat < 2048 → va.toNat % 128 = 0 → (∀ k, o.physical w {} va k = k pa u) →
       u.locate pa = .scratch w.core off →
       ((u.flushOwn w).ownWaits w = true → Interlocks (.jsub a b) s (s.flushOwn w)) ∧
       ((u.flushOwn w).ownWaits w = false → (∀ k, (u.flushOwn w).checkPoison w va (spKey w.core off) 128 k = k v) →
         (words v).getD 3 0 = 0 → Releases v x w .device → Does (.jsub a b) s (submitted v x))) ∧
     ((o.g w b).toNat < 2048 → va.toNat % 128 = 0 → OwnScratch o w va 128 off →
       (∀ p ∈ o.cores, p.2.requests = [] ∧ p.2.vaultRequests = []) → (o.core w.core).marks.stripe = .clean →
       (o.ctx w).remote = [] → (∀ j < 128, o.memory.marked (spKey w.core (off + j)) = false) → (words o).getD 3 0 = 0 →
       Does (.jsub a b) s (submitted o (o.arrived w va)))) ∧
  (∀ (s : State) (j b : Job) (core : Nat) (cores : List Nat),
     (s.dx.jobs = [j] → j.edl ≤ s.ts → ∃ t, exec (.jobDue j.id.toNat) s = .next t ∧ t.dx.jobs = [{ j with due := true }]) ∧
     (∀ r, (s.core core).run = some r → s.jobOf core = some j → j.slice ≤ s.ts - r.since + 20000 →
       ∃ t, exec (.maxsliceReached core) s = .next t ∧ (t.core core).run = some { r with sliced := true } ∧
         OnlyCore s t core) ∧
     (s.mod.powered = true → 7 ≤ s.mod.step → s.dx.jobs = [j] → j.started = false → j.closing = none →
       j.count ≤ s.available → s.pick j false = some cores → cores.length = j.count →
       ∃ t x, exec .dxDispatch s = .next t ∧ x ∈ t.dx.jobs ∧ x.id = j.id ∧ x.started = true ∧ x.parts = cores) ∧
     (s.mod.powered = true → 7 ≤ s.mod.step → (s.dx.jobs = [j, b] ∨ s.dx.jobs = [b, j]) → j.id ≠ b.id →
       (j.edl < b.edl ∨ (j.edl = b.edl ∧ (j.tier < b.tier ∨ (j.tier = b.tier ∧ (j.enq < b.enq ∨
         (j.enq = b.enq ∧ j.queue < b.queue)))))) →
       (∀ x ∈ [j, b], x.started = false ∧ x.closing = none ∧ x.count ≤ s.available) → s.pick j false = some cores →
       ∃ t x, exec .dxDispatch s = .next t ∧ x ∈ t.dx.jobs ∧ x.id = j.id ∧ x.started = true ∧ x.parts = cores ∧
         ((s.startJob j cores).pick b false = none → ∃ y ∈ t.dx.jobs, y.id = b.id ∧ y.started = false)))

/-- R28, R106, R304, R307: a launched part: its control context is live at the entry at user privilege with argument,
index and count in `g1` to `g3` and its stack in `g29`; the core takes job and address space; the scratchpad holds the
bytes of the object's `sp` sections, which the model takes from its configuration by address space and entry (DESIGN
CHOICE, notes/assumptions/76.md), and zeros elsewhere, every word empty and clean; the core's registers are as reset,
SUSPECT, ACT_ALERT_SRC and SCAN_STAT among them (notes/assumptions/121.md). The vaults and the other cores stay. -/
def Obligations.PartLaunch : Prop :=
  ∀ (s : State) (j : Job) (index n core : Nat), (s.core core).requests = [] → (s.core core).vaultRequests = [] →
    core < 0x7FF →
    let t := s.launchPart j index n core
    let c := t.ctx ⟨core, 0⟩
    c.live = true ∧ c.pc = j.entry ∧ c.status.pl = 0 ∧ c.status.intrap = false ∧ c.status.fflags = 0 ∧
    c.regs.g.get 0 1 = j.arg ∧ c.regs.g.get 0 2 = BitVec.ofNat 64 index ∧ c.regs.g.get 0 3 = BitVec.ofNat 64 j.count ∧
    c.regs.g.get 0 29 = stackTop 0 ∧ (∀ k, k ∉ [1, 2, 3, 5, 29] → c.regs.g.get 0 k = 0) ∧
    c.trap.ssp = shadowBase 0 ∧ c.trap.sslim = shadowBase 0 + 0x200 ∧
    (∀ k, 1 ≤ k → k ≤ 18 → (t.ctx ⟨core, k⟩).live = false) ∧
    (∃ r, (t.core core).run = some r ∧ r.job = j.id ∧ r.index = index ∧ r.since = s.ts) ∧
    (t.core core).jobId = j.id ∧ (t.core core).asid = j.asid ∧
    (t.core core).part.regs.tvec = (s.dx.asids.get {} j.asid.toNat).tvec0 ∧
    (t.core core).marks.suspects = [] ∧ (t.core core).marks.actValid = false ∧ (t.core core).marks.scanState = 0 ∧
    (∀ q, (t.queue core q).entries = []) ∧
    (∀ a < 0x80000, t.memory.isFull (spKey core a) = false ∧ t.memory.marked (spKey core a) = false ∧
      (s.memory.wf = true → t.memory.byte (spKey core a) =
        (((Config.spSections j.asid j.entry).reverse.find? (fun p => decide (p.1 % 2 ^ 19 = a))).map (·.2)).getD 0)) ∧
    (∀ k, k ≠ core → t.core k = s.core k) ∧
    (∀ key, isSp key = false → t.memory.byte key = s.memory.byte key)

/-- R308 to R312, R387, R388: a called pre-emption stops issue; a stopped core with nothing outstanding begins its
save, once every direct write of its contexts is performed (notes/assumptions/90.md, DEDUCED); the save leaves the
core free with the part in its image, which the model keeps beside the save area (notes/assumptions/89.md); a restore
brings its contexts, queues, streams, tiles, planes, registers and scratchpad back. The context whose `ctx.save` or
`ctx.rest` asked for it goes on behind its form then. R387, R388: `ctx.save` of another core whose part runs, and
`ctx.rest` of one that holds a saved part, call for it and wait for the step that releases them; any other operand is
ILLEGAL_OPERAND. -/
def Obligations.PreemptionAndRestore : Prop :=
  (∀ (s : State) (core n gen : Nat) (v : Who) (r : Running) (im : Image) (ts : Nat),
     let released := ({ s.ctx v with hold := { (s.ctx v).hold with hand := none } }).loopEnd ((s.ctx v).pc + 8)
     ((s.core core).preemption = .called → (s.core core).run = some r →
       ∃ t, exec (.preemptInterrupt core) s = .next t ∧ (t.core core).preemption = .stopping ∧ (t.core core).run = some r) ∧
     ((s.core core).preemption = .stopping → s.mayBeginSave core = true →
       (∀ k < 19, (s.flushCore core).flushed ⟨core, k⟩ (fun _ => true) = true) →
       ∃ t, exec (.saveBegin core) s = .next t ∧ (t.core core).preemption = .saving t.ts ∧ (t.core core).words = []) ∧
     ((s.core core).preemption = .saving ts → (s.core core).run = some r → s.logicalOf core = some n →
       (s.core core).saved = none → (s.queue core 1).head = none →
       ((s.core core).requester = none →
         ∃ t x, exec (.copyDrainExpiry core) s = .next t ∧ (t.core core).saved = some x ∧ x.run = r ∧ x.ts = ts ∧ x.logical = n ∧
           x.words = s.memory.spBytes core ∧ x.part.streams = (s.core core).part.streams ∧ x.part.slots = (s.core core).part.slots ∧
           x.part.accs = (s.core core).part.accs ∧ x.part.plane = (s.core core).part.plane ∧ x.held = false ∧
           ((s.queue core 3).head = none → x.part.ctxs = (s.core core).part.ctxs) ∧
           (∀ k < 19, (t.ctx ⟨core, k⟩).live = false) ∧ (t.core core).run = none ∧ (t.core core).preemption = .none) ∧
       ((s.core core).requester = some (v, gen) → v.core ≠ core → s.lives v gen = true →
         ∃ t x, exec (.copyDrainExpiry core) s = .next t ∧ (t.core core).saved = some x ∧ x.held = true ∧
           (t.core core).run = none ∧ (t.core core).requester = none ∧ t.ctx v = released)) ∧
     ((s.core core).saved = some im → s.mod.powered = true → 7 ≤ s.mod.step → (s.core core).run = none →
       (s.core core).preemption = .none → s.taken im.logical = false → s.physOf im.logical = some core →
       (im.held = true → (s.core core).requester = none → exec (.restore core) s = .next s) ∧
       ((im.held = false ∨ (s.core core).requester.isSome = true) → exec (.restore core) s = .next (s.restorePart core im)) ∧
       ((s.core core).spill = [] → (∀ ch < 4, ∀ c, (im.part.queues.get {} (4 + ch)).head = some c → c.squashed = false) →
         (∀ p ∈ im.part.accs, p.2.refused = []) → (∀ v' gen', (s.core core).requester = some (v', gen') → v'.core ≠ core) →
         let t := s.restorePart core im
         let x := (t.core core).part
         let y := im.part
         (t.core core).saved = none ∧ (t.core core).jobId = im.run.job ∧ (t.core core).asid = im.run.asid ∧
         (∃ r', (t.core core).run = some r' ∧ r'.job = im.run.job ∧ r'.since = s.ts) ∧
         (∀ k < 11, let c := y.ctxs.get (Ctx.fresh k) k
           (t.ctx ⟨core, k⟩).live = c.live ∧ (t.ctx ⟨core, k⟩).pc = c.pc ∧ (t.ctx ⟨core, k⟩).regs = c.regs ∧
           (t.ctx ⟨core, k⟩).trap = c.trap ∧ (t.ctx ⟨core, k⟩).status.pl = c.status.pl ∧
           (t.ctx ⟨core, k⟩).status.hzd = (c.status.hzd && s.mod.dbg)) ∧
         (∀ q, q ≠ 2 → x.queues.get {} q = y.queues.get {} q) ∧
         (x.queues.get {} 2).entries = (y.queues.get {} 2).entries.map Entry.resume ∧
         x.loads = y.loads ∧ x.streams = y.streams ∧ x.slots = y.slots ∧ x.accs = y.accs ∧ x.pb = y.pb ∧ x.plane = y.plane ∧
         x.mail = y.mail ∧ x.ring = y.ring ∧ x.deque = y.deque ∧ x.regs = y.regs ∧
         (core < 0x7FF → s.memory.wf = true → Store.rising im.words = true → (∀ p ∈ im.words, p.1 < 0x80000) →
           ∀ a < 0x80000, t.memory.byte (spKey core a) = im.words.get 0 a) ∧
         ((s.core core).requester = some (v, gen) → s.lives v gen = true → (t.core core).requester = none ∧ t.ctx v = released)))) ∧
  (∀ (s : State) (a k : Nat) (r : Running) (im : Image),
     let w := s.focus
     let o := s.own
     let x := o.g w a
     let c := o.core k
     let gen := (o.ctx w).hold.gen
     (x.toNat ≤ 1151 → o.logicalOf w.core ≠ some x.toNat → o.physOf x.toNat = some k → c.preemption = .none →
       c.requester = none →
       (c.run = some r → r.preempting = false → c.saved = none → c.marks.underScan = false →
         Does (.ctxSave a) s
           ((o.modCore k (fun c => { c with preemption := .called, requester := some (w, gen) })).inHand w (.ctxSave a))) ∧
       (c.run = none → c.saved = some im → im.held = true →
         Does (.ctxRest a) s ((o.modCore k (fun c => { c with requester := some (w, gen) })).inHand w (.ctxRest a)))) ∧
     (x.toNat ≤ 1151 → o.physOf x.toNat = some k → (c.preemption ≠ .none ∨ c.requester.isSome = true) →
       Does (.ctxSave a) s (o.trapSync w 0x0B x) ∧ Does (.ctxRest a) s (o.trapSync w 0x0B x)) ∧
     (x.toNat ≤ 1151 → o.physOf x.toNat = some k → (c.run = none ∨ c.saved.isSome = true) →
       Does (.ctxSave a) s (o.trapSync w 0x0B x)) ∧
     (x.toNat ≤ 1151 → o.physOf x.toNat = some k → (c.run.isSome = true ∨ c.saved = none) →
       Does (.ctxRest a) s (o.trapSync w 0x0B x)) ∧
     ((1151 < x.toNat ∨ o.logicalOf w.core = some x.toNat ∨ o.physOf x.toNat = none) →
       Does (.ctxSave a) s (o.trapSync w 0x0B x) ∧ Does (.ctxRest a) s (o.trapSync w 0x0B x)))

/-- R163, R183 to R186, R188, R189, R498: a scrub that finds a sector uncorrectable poisons it, and a row found so
twice, or failing, goes to a spare row; a lane repair is logged and in force, and the 17th retires its segment;
`welt.retire` retires a segment and goes on when it is switched over; `welt.restore` goes on at the end of the replay,
or raises UNCORRECTABLE when nothing of the log can be read; the agent performs them in order of arrival. A retired
segment is switched over before the form goes on, and a replay has something to read where the record or a part of a
copy can be read (notes/assumptions/68.md). -/
def Obligations.VaultDegradation : Prop :=
  ∀ (s : State) (core off welt layer k : Nat) (line : WeltLine) (failing : List WeltLine),
    let w := s.focus
    let o := s.own
    let v := (s.core core).vault
    let b := bankOf off
    (s.agentOn = true → core < 0x7FF → off < 0x0B140000 → s.bankBusy core off = false →
      ((s.bank core b).scrubs.get 0 (rowOf off) = 0 → s.memory.wf = true →
        ∃ t, exec (.patrolScrub core off .uncorrectable) s = .next t ∧ t.memory.marked (coreKey core (off / 32 * 32)) = true ∧
          (t.bank core b).scrubs.get 0 (rowOf off) = 1 ∧ t.memory.bytes = s.memory.bytes) ∧
      ((s.bank core b).scrubs.get 0 (rowOf off) = 1 → s.memory.wf = true → (s.bank core b).spares.length < 32 →
        ∃ t, exec (.patrolScrub core off .uncorrectable) s = .next t ∧ t.memory.marked (coreKey core (off / 32 * 32)) = true ∧
          (t.bank core b).busy = .repair ∧ (t.bank core b).row = none ∧ (t.bank core b).scrubs.get 0 (rowOf off) = 0 ∧
          (t.bank core b).spares = (s.bank core b).spares ++ [(rowOf off, (s.bank core b).spares.length)]) ∧
      ((s.bank core b).spares.length < 32 →
        ∃ t, exec (.patrolScrub core off .rowFailing) s = .next t ∧ (t.bank core b).busy = .repair ∧
          (t.bank core b).spares = (s.bank core b).spares ++ [(rowOf off, (s.bank core b).spares.length)] ∧
          (t.bank core b).scrubs.get 0 (rowOf off) = 0)) ∧
    (s.agentOn = true → line.welt < 2 → line.seg < 12 → line.line < 576 → (line.welt, line.seg) ∉ v.retired → line ∉ v.repaired →
      ∃ t, exec (.weltLaneRepair core line) s = .next t ∧
        (v.lanesUsed line.welt line.seg < 16 → (t.core core).vault.repaired = v.repaired ++ [line] ∧
          (t.core core).vault.switching = v.switching ++ [{ welt := line.welt, seg := none, work := s.nextWork core }]) ∧
        (16 ≤ v.lanesUsed line.welt line.seg → (line.welt, line.seg) ∈ (t.core core).vault.retired)) ∧
    (o.weltTurn w = true → (o.core w.core).vault.switching = [] →
      let u := (o.weltAsks w).retireSegment w.core welt layer
      ((welt, layer) ∈ (o.core w.core).vault.retired →
        Does (.weltRetire welt layer) s ((o.weltOver w).advance w (.weltRetire welt layer))) ∧
      ((welt, layer) ∉ (o.core w.core).vault.retired →
        Does (.weltRetire welt layer) s (u.inHand w (.weltRetire welt layer)) ∧ (u.core w.core).vault.serves welt layer = false ∧
        (u.core w.core).vault.switching = [{ welt, seg := some layer, work := o.nextWork w.core }])) ∧
    ((o.weltTurn w = false ∨ (o.core w.core).vault.switching ≠ []) → Interlocks (.weltRetire welt layer) s (s.weltAsks w)) ∧
    (s.agentOn = true → (∃ n, v.switching = [{ welt, seg := some layer, work := n }]) →
      s.weltOwner core (.weltRetire welt layer) = some k →
      ((s.switched core).core core).vault.switching = [] ∧ ((s.switched core).ctx ⟨core, k⟩).hold.hand = none ∧
      k ∉ ((s.switched core).core core).vault.operations ∧
      ((s.switched core).ctx ⟨core, k⟩).pc = ((s.finish ⟨core, k⟩ (.weltRetire welt layer)).ctx ⟨core, k⟩).pc) ∧
    (o.weltTurn w = true → Does .weltRestore s ((o.weltAsks w).inHand w .weltRestore)) ∧
    (o.weltTurn w = false → Interlocks .weltRestore s (s.weltAsks w)) ∧
    (w.slot ∉ v.operations → w.core = core → ((s.weltAsks w).core core).vault.operations = v.operations ++ [w.slot]) ∧
    (s.agentOn = true → s.weltOwner core .weltRestore = some k → v.switching = [] →
      let t := ((s.replayLog core failing).weltOver ⟨core, k⟩).finish ⟨core, k⟩ .weltRestore
      (s.logReads core = true ↔
        v.recordLost = false ∨ s.copyReads (ownCopy core) = true ∨ s.copyReads (otherCopy core) = true) ∧
      (s.logReads core = true → exec (.weltReplayDone core failing) s = .next t ∧ (t.ctx ⟨core, k⟩).hold.hand = none) ∧
      (s.logReads core = false → (s.ctx ⟨core, k⟩).pc ≠ s.trapEntry ⟨core, k⟩ →
        ∃ t, exec (.weltReplayDone core failing) s = .next t ∧ (t.ctx ⟨core, k⟩).trap.tcause = 0x0A ∧
          (t.core core).vault.blocked = v.blocked))

/-- R29, R30, R31, R39 to R42, R94, R268, R300, R317: the steps of the task unit, and of a context's boundary. The
pending trap of a context is taken, but not while it issues a `tcopy` (R464); a fetch that finds no instruction is its
trap; a task starts on the lowest free helper; a steal takes a victim's oldest record, which starts on a free helper
or lands on the thief's deque, once that has room (DESIGN CHOICE, notes/assumptions/112.md); the last part to end ends
its job. -/
def Obligations.TaskUnitSteps : Prop :=
  ∀ (s : State) (core slot k v : Nat) (cause : Nat) (tval : Word) (t : State) (task : TaskRecord) (rest : List TaskRecord)
      (r : Running) (j : Job) (l : List Byte) (e : Illegal),
    let w : Who := ⟨core, slot⟩
    let steal := (s.core core).part.steal
    (s.mod.powered = true → 7 ≤ s.mod.step → slot < 11 → (s.ctx w).live = true → (s.core core).marks.underScan = false →
      (s.core core).preemption = .none → (s.ctx w).hold.hand = none → (s.ctx w).hold.divergence = [] →
      (s.endWait w).nextAsync w = some (cause, tval, t) → (s.nextAsync w).isSome = true →
      exec (.asyncTrapTake core slot) s = .next (t.enterTrap w cause tval (t.ctx w).pc none)) ∧
    ((s.ctx w).hold.issuing = true → exec (.asyncTrapTake core slot) s = .next s) ∧
    (s.mayIssue w = true → (s.ctx w).hold.waiting = none → (s.ctx w).hold.fwEntry = none → s.nextAsync w = none → s.fetchBlock w true = .bytes l t →
      decodeBlock (t.ctx w).pc l = .error e → exec (.fetch core slot) s = .next (t.illegal w e)) ∧
    (s.partOn core = true → s.freeHelper core = some k → (s.core core).part.returns = [] →
      (s.core core).part.deque = rest ++ [task] →
      ∃ u, exec (.taskStart core) s = .next u ∧ (u.core core).part.deque = rest ∧ (u.ctx ⟨core, k⟩).live = true ∧
        (u.ctx ⟨core, k⟩).pc = task.pc ∧ (u.ctx ⟨core, k⟩).status.pl = task.pl ∧ u.memory = s.memory) ∧
    (s.partOn core = true → (s.core core).part.deque = [] → s.freeHelper core = some k → steal.victim = none →
      steal.waiting = false → (s.victims core).head? = some v →
      ∃ u, exec (.stealRequest core) s = .next u ∧ (u.core core).part.steal.victim = some v ∧ OnlyCore s u core) ∧
    (steal.victim = some v → steal.answer = none → s.jobOf core = some j → (j.parts[v]?).bind s.physOf = some k →
      k ≠ core → (s.core k).run = some r → r.job = j.id → s.partOn k = true → (s.core k).part.deque = task :: rest →
      ∃ u, exec (.stealAnswer core) s = .next u ∧ (u.core core).part.steal.answer = some (some task) ∧
        (u.core k).part.deque = rest) ∧
    (steal.answer = some (some task) → s.partOn core = true → s.freeHelper core = some k →
      ∃ u, exec (.stealReceive core) s = .next u ∧ (u.ctx ⟨core, k⟩).live = true ∧ (u.ctx ⟨core, k⟩).pc = task.pc ∧
        (u.core core).part.steal.victim = none) ∧
    (steal.answer = some (some task) → s.partOn core = true → s.freeHelper core = none →
      ((s.core core).part.deque.length < 32 → ∃ u, exec (.stealReceive core) s = .next u ∧
        (u.core core).part.deque = (s.core core).part.deque ++ [task] ∧ (u.core core).part.steal.victim = none ∧ OnlyCore s u core) ∧
      (32 ≤ (s.core core).part.deque.length → exec (.stealReceive core) s = .next s)) ∧
    (∃ u, exec (.stealBackoffExpiry core) s = .next u ∧ (u.core core).part.steal.waiting = false ∧ OnlyCore s u core) ∧
    (s.partOn core = true → (s.ctx ⟨core, 0⟩).hold.hand = some .hexit → (∀ m, 1 ≤ m → m ≤ 10 → (s.ctx ⟨core, m⟩).live = false) →
      (s.core core).part.deque = [] → (s.core core).part.returns = [] → s.queuesEmpty core = true →
      (s.ctx ⟨core, 0⟩).remote = [] → (∀ task, steal.answer ≠ some (some task)) → (∀ m < 11, (s.ctx ⟨core, m⟩).held = []) →
      (s.core core).run = some r → (∃ n, s.logicalOf core = some n) →
      s.dx.jobs = [j] → j.id = r.job → j.ended = [] → j.count = 1 → j.closing = none →
      (∀ p ∈ s.cores, p.2.saved = none) →
      ∃ u x, exec (.partEnd core) s = .next u ∧ (u.core core).run = none ∧ u.dx.jobs = [x] ∧ x.closing = some stOk)

/-- R34, R49, R50, R160, R201, R209, R226, R294: the head of a queue reads its guard, starts once its operands are
ready, and ends with its effect, its completion word and its place in the queue given up; joint commands and barriers
act at the heads of all their queues. The effect of a command as a whole comes at its end step (DESIGN CHOICE,
notes/assumptions/22.md): `mz` clears its accumulator, `tst` of one row stores its 64 bytes, `ap.cmp` puts the rows
that match into its tag, `tq.lk` gives each lane its entry of the latched row, `cbrel` frees the oldest slots of its
stream. R87, R209: a command that ends with a completion word leaves its place in the queue and writes the word full:
the low 16 bits of its number, OFFSET and STATUS, and no other byte. A command that takes the command-precise path
holds its queue, and its word says TRANSLATION (R160). R122, R129, R130, R200, R203 to R206: what the commands of the
matrix unit that reach storage do: `mld` loads the 1,024 elements of an accumulator; `mdrain` stores its rows in the
form of its type; `msa` adds the scaled partial sums, rounded once; `mrecv` empties its word and opens its
accumulator, or writes the word at once where it expects nothing; an `mdrainr` to a core of the job leaves, and one to
another takes TRANSLATION. An add-in adds every element, and the last one writes the word. `msa` multiplies the scales
first (DESIGN CHOICE, notes/assumptions/129.md), and `mdrain.f32` stores the bits as they are (DESIGN CHOICE,
notes/assumptions/114.md). R125, R202: an INT8 tile product adds to each element of the INT32 view the products of its
row and column over their common extent, and wraps. -/
def Obligations.EngineQueueSteps : Prop :=
  (∀ (s : State) (core q id mask : Nat) (c a : Cmd) (g : Guard) (rest : List Entry),
     let starts := fun (q : Nat) => s.queueOn core q = true ∧ s.soloHead core q = some c ∧ c.ready = true ∧ c.running = false ∧
       c.stream = none ∧ s.operandsReady core c.instr = .ready
     let runs := fun (q : Nat) => s.queueOn core q = true ∧ s.soloHead core q = some c ∧ c.ready = true ∧ c.running = true
     (s.queueOn core q = true → q < 9 → s.soloHead core q = some c → c.ready = false → c.instr.guard = some g →
       (s.guardRuns core c g = none → exec (.guardResolveAtHead core q) s = .next s) ∧
       (s.guardRuns core c g = some true → ∃ t, exec (.guardResolveAtHead core q) s = .next t ∧
         (t.queue core q).head = some { c with passed := true }) ∧
       (s.guardRuns core c g = some false → exec (.guardResolveAtHead core q) s = .next (s.discard core q c))) ∧
     (q < 8 → q ≠ 2 → starts q →
       ∃ t, exec (.engineCommandStart core q) s = .next t ∧ (t.queue core q).head = some { c with running := true }) ∧
     (∀ t, starts 2 → s.startPlane core c = .stays t →
       exec (.engineCommandStart core 2) s = .next (t.modHead core 2 (fun c => { c with running := true }))) ∧
     (runs 1 →
       exec (.engineCommandEnd core 1) s = .next (s.settle core 1 c (s.doMatrix core c)) ∧
       (∀ d e, c.instr = .mz d e → e.cw = none → ∃ t, exec (.engineCommandEnd core 1) s = .next t ∧
         (∀ k, ((t.acc core d).elems.get 0 k) = 0) ∧ (t.queue core 1).entries = (s.queue core 1).entries.tail ∧
         t.memory = s.memory)) ∧
     (∀ k off b pitch e, runs 0 → c.instr = .tst k off b pitch e →
       exec (.engineCommandEnd core 0) s = .next (s.settle core 0 c (s.doTst core c k off pitch))) ∧
     (∀ k off b pitch e o, runs 0 → c.instr = .tst k off b pitch e → e.cw = none → c.sent = 0 →
       let x := s.slot core ((s.stream core k).slotAt off)
       let key := spKey core o
       x.valid = 1 → (c.op1 0).toNat = ownAperture + o → (c.op1 0).toNat % 8 = 0 → o + 64 ≤ 0x80000 → core < 0x7FF →
       (s.logicalOf core).isSome = true → (s.core core).resolved = [] → s.memory.wf = true →
       (∀ j < 64, s.memory.marked (key + j) = false) →
       ∃ t, exec (.engineCommandEnd core 0) s = .next t ∧
         t.memory.read key 64 = natLE 64 ((x.rows.get 0 0).toNat % 2 ^ (8 * x.bytes)) ∧
         (∀ a, (a < key ∨ key + 64 ≤ a) → t.memory.byte a = s.memory.byte a) ∧
         (t.queue core 0).entries = (s.queue core 0).entries.tail) ∧
     (runs 2 → exec (.engineCommandEnd core 2) s = .next (s.settle core 2 c (s.doPlane core c))) ∧
     (∀ comb d x y e, runs 2 → c.instr = .apCmp comb d x y e → e.cw = none →
       let z := s.plane core
       ∃ t, exec (.engineCommandEnd core 2) s = .next t ∧ (t.plane core).cols = z.cols ∧
         (∀ k, k ≠ d → (t.plane core).tag k = z.tag k) ∧
         ∀ r < 4096,
           let fits := (List.range 256).all (fun b => !(c.vop 1).getLsbD b || ((z.col b).getLsbD r == (c.vop 0).getLsbD b))
           ((t.plane core).tag d).getLsbD r = match comb with
             | .set => fits
             | .and => (z.tag d).getLsbD r && fits
             | .or => (z.tag d).getLsbD r || fits
             | .andn => (z.tag d).getLsbD r && !fits) ∧
     (runs 3 → exec (.engineCommandEnd core 3) s = .next (s.settle core 3 c (s.doQuery core c))) ∧
     (∀ x d ta vb e row, runs 3 → c.instr = .tqLk x d ta vb e → e.cw = none → c.vals = [] → s.owns core c = true →
       let tb := c.op1 0
       let latch := (s.core core).latch
       let bit := fun (k : Nat) => entryBit tb (lane (c.vop 0) k)
       latch.row = some row →
       (∀ k < 64, lane (c.vop 0) k < tbEntries tb ∧ bit k / 16384 = row ∧ bit k % 16384 / 256 ∉ latch.poison) →
       ∃ y, exec (.engineCommandEnd core 3) s =
           .next ((s.result ⟨core, c.slot⟩ 1 (.v d y)).endCommand core 3 c csOk 0) ∧
         ∀ k < 64, lane y k = widen x (tbWidth tb)
           (leNat ((latch.bytes.drop (bit k % 16384 / 8)).take 4) / 2 ^ (bit k % 8) % 2 ^ tbWidth tb)) ∧
     (s.queueOn core 8 = true → s.soloHead core 8 = some c → c.ready = true →
       exec (.engineCommandEnd core 8) s = .next (s.settle core 8 c (s.doRpc core c))) ∧
     (s.queueOn core 0 = true → s.queueOn core 1 = true → (s.queue core 0).head = some a → (s.queue core 1).head = some c →
       c.instr.isJoint = true → a.joint = some c.seq → c.instr.guard = none →
       exec (.jointCommandPerform core) s = .next (s.settle core 1 c (s.doJoint core c.instr)) ∧
       (∀ k n e, c.instr = .cbrel k n e → e.cw = none → 0 < n →
         let x := s.stream core k
         n ≤ x.nslots → n ≤ x.comm → ∃ t, exec (.jointCommandPerform core) s = .next t ∧
           t.stream core k = { x with
             head := (x.head + n) % x.nslots, comm := x.comm - n, resv := x.resv - n, assigned := x.assigned - n } ∧
           (t.queue core 0).entries = (s.queue core 0).entries.tail ∧
           (t.queue core 1).entries = (s.queue core 1).entries.tail)) ∧
     (s.queueOn core 3 = true → (s.queue core 3).entries = .barrier id 8 :: rest →
       ∃ t, exec (.qfenceBarrierPerform core 3) s = .next t ∧ (t.queue core 3).entries = rest)) ∧
  (∀ (s : State) (core q n status offset cause : Nat) (tval : Word) (c : Cmd),
     c.cw = some n → c.instr.isJoint = false → c.instr.ownsRegister = false → (s.core core).words = [] → s.memory.wf = true →
     core < 0x7FF → n < 0x10000 → status < 2 ^ 16 →
     let key := spKey core (8 * n)
     let writes := fun (t : State) (status offset : Nat) =>
       t.memory.isFull key = true ∧ (t.word key).extractLsb' 48 16 = c.seq.setWidth 16 ∧
         (t.word key).extractLsb' 16 32 = BitVec.ofNat 32 offset ∧ (t.word key).extractLsb' 0 16 = BitVec.ofNat 16 status ∧
         (∀ a, (a < key ∨ key + 8 ≤ a) → t.memory.byte a = s.memory.byte a) ∧
         (t.queue core q).entries = (s.queue core q).entries.tail
     writes (s.endCommand core q c status offset) status offset ∧
     (q ≤ 2 → let t := s.settle core q c (.fault s cause tval offset)
       writes t 4 offset ∧ (t.queue core q).held = true ∧
         ((s.core core).part.regs.cfr = none → (t.core core).part.regs.cfr = some {
           queue := q, slot := c.slot, gen := c.gen, cause, seq := c.seq, pc := c.pc, tval, stream := c.stream }))) ∧
  ((∀ (s : State) (core d n pitch rows cols a b k o o' : Nat) (t : ElemType) (i32 : Bool) (c : Cmd) (e : Eng),
     let runs := s.queueOn core 1 = true ∧ s.soloHead core 1 = some c ∧ c.ready = true ∧ c.running = true
     let va := c.op1 0
     let gives := fun (size : Nat) (P : State → Prop) =>
       ∃ u, exec (.engineCommandEnd core 1) s = .next (u.endCommand core 1 c 0 size) ∧ P u
     let others := fun (u : State) => ∀ m, m ≠ d → u.acc core m = s.acc core m
     let word := fun (o : Nat) => (s.word (spKey core o)).toNat
     runs → OwnBase s core va o →
     (let step := if pitch = 0 then 128 else 16 * pitch;
       c.instr = .mld d a pitch e → c.buf = [] → va.toNat % 64 = 0 → (∀ r < 32, OwnFree s core (o + r * step) 128) →
       gives 4096 (fun u => u.memory = s.memory ∧ others u ∧ ∀ r < 32, ∀ j < 32,
         (u.acc core d).elem r j = leNat (s.memory.read (spKey core (o + r * step + 4 * j)) 4))) ∧
     (let n := cols * t.bits / 8
       let step := if pitch = 0 then 32 * t.bits / 8 else 16 * pitch
       let key := fun (r : Nat) => spKey core (o + r * step)
       let out := fun (x : Nat) => match t with
         | .f32 | .i32 => x
         | .i8 | .i4 => wrapTo t.bits (max (-2 ^ (t.bits - 1)) (min (2 ^ (t.bits - 1) - 1) (signOf 32 x)))
         | _ => (convertTo t .rne false (Fp.f32.value x)).1 % 2 ^ t.bits;
       c.instr = .mdrain t d a pitch rows cols e → t ∈ [.f32, .f16, .bf16, .e4m3, .e5m2, .e2m1, .i32, .i8, .i4] → c.sent = 0 →
       va.toNat % 16 = 0 → cols ≤ 32 → cols * t.bits % 8 = 0 → (n ≤ step ∨ rows ≤ 1) → (∀ r < rows, OwnFree s core (o + r * step) n) →
       gives (rows * n) (fun u => (u.part core).accs = (s.part core).accs ∧
         (∀ r < rows, ∀ j < cols, leNat (u.memory.read (key r) n) / 2 ^ (t.bits * j) % 2 ^ t.bits = out ((s.acc core d).elem r j)) ∧
         ∀ x, (∀ r < rows, x < key r ∨ key r + n ≤ x) → u.memory.byte x = s.memory.byte x)) ∧
     (c.instr = .msa d a b k e → OwnBase s core (c.op1 1) o' → o % 8 = 0 → o' % 8 = 0 → OwnFree s core o 296 → OwnFree s core o' 296 →
       (s.core core).marks.upsets = [] →
       let scale := fun (o k : Nat) => scaleValue (word (o + 8 * (k / 7)) / 2 ^ (9 * (k % 7)) % 512)
       let band := Fp.bf16.value ((c.op1 2).toNat % 2 ^ 16)
       gives 4096 (fun u => u.memory = s.memory ∧ others u ∧ (u.part core).pb = (s.part core).pb ∧ ∀ i < 32, ∀ j < 32,
         (u.acc core d).elem i j = (roundVal .f32 .rne (sumExact .rne (Fp.f32.value ((s.acc core d).elem i j) ::
           (List.range 8).map (fun b => (mulExact (mulExact (mulExact
             (Fp.f32.value ((s.part core).pb.get 0 (1024 * b + 32 * i + j)).toNat) (scale o (8 * i + b))).1 (scale o' (8 * j + b))).1
             band).1))).1 false).1 % 2 ^ 32)) ∧
     (c.instr = .mrecv d n k e → o % 8 = 0 → OwnFree s core o 8 → (s.acc core d).refused = [] →
       (n = 0 → gives 0 (fun u => others u ∧ (u.acc core d).recv = (s.acc core d).recv ∧ u.word (spKey core o) = 0 ∧
         u.memory.isFull (spKey core o) = true)) ∧
       (n ≠ 0 → gives 0 (fun u => others u ∧ (u.acc core d).recv = some { left := n, word := o } ∧
         (u.acc core d).elems = (s.acc core d).elems ∧ u.memory.bytes = s.memory.bytes ∧ u.memory.isFull (spKey core o) = false)))) ∧
   (∀ (s : State) (core d b n : Nat) (i32 : Bool) (c : Cmd) (e : Eng),
     s.queueOn core 1 = true → s.soloHead core 1 = some c → c.ready = true → c.running = true → c.instr = .mdrainr i32 d b n e → c.done = 0 →
     ((s.addInTarget core (c.op1 0)).isSome = true → ∃ t, exec (.engineCommandEnd core 1) s = .next t ∧
       (t.queue core 1).head = some { c with done := 1 } ∧ t.memory = s.memory) ∧
     (s.addInTarget core (c.op1 0) = none →
       exec (.engineCommandEnd core 1) s = .next (s.settle core 1 c (.fault s 0x05 s.openTval)))) ∧
   (∀ (s : State) (core n : Nat) (r : Receive) (i32 : Bool) (x : Acc),
     (s.core core).marks.upsets = [] → (s.core core).words = [] → s.memory.wf = true → core < 0x7FF → r.word % 8 = 0 → r.word < 0x80000 →
     let t := s.addIn core n r i32 x
     (∀ i < 32, ∀ j < 32, (t.acc core n).elem i j =
       if i32 then ((s.acc core n).elem i j + x.elem i j) % 2 ^ 32 else (fpAdd .f32 .rne ((s.acc core n).elem i j) (x.elem i j)).1 % 2 ^ 32) ∧
     (2 ≤ r.left → (t.acc core n).recv = some { r with left := r.left - 1, got := r.got + 1 } ∧ t.memory = s.memory) ∧
     (r.left = 1 → (t.acc core n).recv = none ∧ t.memory.isFull (spKey core r.word) = true ∧
       (r.status < 2 ^ 16 → t.word (spKey core r.word) = BitVec.ofNat 64 (r.status + (r.got + 1) % 2 ^ 16 * 2 ^ 16))))) ∧
  (∀ (s : State) (core d ca oa cb ob : Nat) (c : Cmd) (kh : Bool),
     let x := s.slot core ((s.stream core ca).slotAt oa)
     let y := s.slot core ((s.stream core cb).slotAt ob)
     ∃ t, s.doMma core c .i8 d ca oa cb ob kh = .ends t csOk 4096 ∧ OnlyCore s t core ∧
       ∀ i j, i < 32 → j < 32 →
         let n := min (x.extent 8 i) (y.extent 8 j)
         ((t.acc core d).elem i j : Int) =
           (((s.acc core d).elem i j : Int) +
             ((List.range n).map (fun k => signOf 8 (x.elem 8 i k) * signOf 8 (y.elem 8 j k))).sum) % 2 ^ 32)

/-- R172, R178, R193, R194, R206, R207, R239, R241: a tile load leaves the head for its position, and those behind one
on its way stay, though their rows may be opened: one load at a time is between the head and its commit (DESIGN
CHOICE, notes/assumptions/41.md); the oldest load commits its slot; an add-in is performed while its receiver counts,
after which its sender's completion word says OK whatever the add-in met (DEDUCED, notes/assumptions/45.md), and one
that it cannot take is refused and sent again on its notice; one that comes again before an earlier refused one is to
be sent again; a sweep stages rows, and its wait for ordinary requests ends. R224, R228 to R232, R237, R238: what the
commands of the plane do, row by row: `ap.clr`, `ap.wr` and `ap.wrr` write data bits, `ap.tg` a tag column; `ap.cnt`,
`ap.first` and `ap.rd` deliver to the register of the context that interlocks on them; `ap.max` leaves the tags on the
rows that hold the largest field, and delivers it; `ap.mcode` loads a user sequence from the own scratchpad; `ap.ld`
and `ap.st` move a row of the vault, with its poison, between a window and memory. A poisoned row stops `ap.rd` and
`ap.max` at their context. R233 to R236, R361, R362: `ap.seq` works on the selected rows alone, and leaves in each
what its sequence is for: sums and differences with carry or borrow, a product by the constant, comparisons, the
largest field, the absolute value. A user sequence of one step on a field of one bit writes as its step word says: the
rows that match, or, with COND, the selected rows that do not where some row does. R239, R364: the stages of a sweep's
row. A sweep of no rows ends at once. The load brings the row into the window and APSWEEP to the compute stage; behind
its last step the row is stored; behind the last row the sweep ends with the DRAM rows that it has stored, and both
progress registers are clear. -/
def Obligations.LoadsAddInsAndPlane : Prop :=
  (∀ (s : State) (core k dst : Nat) (c : Cmd) (rest : List Cmd) (i32 : Bool) (acc b n : Nat) (e : Eng) (r : Receive),
     (s.soloHead core 0 = some c → c.stream = some k → s.queueOn core 0 = true → c.ready = true →
       ((s.part core).loads = [] →
         ∃ t, exec (.tileLoadDepart core) s = .next t ∧ (t.queue core 0).entries = (s.queue core 0).entries.tail ∧
           (t.stream core k).assigned = (s.stream core k).assigned + 1 ∧ (t.part core).loads.length = 1) ∧
       ((s.part core).loads ≠ [] →
         ∃ t, exec (.tileLoadDepart core) s = .next t ∧ (t.queue core 0).entries = (s.queue core 0).entries ∧
           (t.part core).loads = (s.part core).loads ∧ (t.stream core k).assigned = (s.stream core k).assigned)) ∧
     ((s.part core).loads = c :: rest → s.engineOn core = true → (s.queue core 0).suspended = none →
       exec (.tileSlotCommit core) s = .next (s.commitLoad core c)) ∧
     (s.soloHead core 1 = some c → c.instr = .mdrainr i32 acc b n e → c.done = 1 → s.mod.powered = true →
       s.addInTarget core (c.op1 0) = some dst → s.savedFor dst (s.core core).jobId = none →
       ((s.acc dst n).recv = none →
         ∃ t, exec (.addInArrival core) s = .next t ∧ core ∈ (t.acc dst n).refused ∧
           (t.queue core 1).head = some { c with done := 2 } ∧ t.memory = s.memory) ∧
       ((s.acc dst n).recv = some r → s.isSaving dst = false → (s.acc dst n).refused = [] →
         exec (.addInArrival core) s = .next (((s.modAcc dst n (fun x => { x with refused := [] })).addIn dst n r i32
           (s.acc core acc)).endCommand core 1 c csOk 4096)) ∧
       (∀ y l, (s.acc dst n).recv = some r → s.isSaving dst = false → (s.acc dst n).refused = y :: l → y ≠ core → core ∈ l →
         ∃ t, exec (.addInArrival core) s = .next t ∧ (t.queue core 1).head = some { c with done := 3 } ∧ t.memory = s.memory)) ∧
     (s.soloHead core 1 = some c → c.instr = .mdrainr i32 acc b n e → c.done = 3 → s.engineOn core = true →
       ∃ t, exec (.addInRetryNotice core) s = .next t ∧ (t.queue core 1).head = some { c with done := 1 }) ∧
     (s.soloHead core 2 = some c → (∃ n a b doff w soff k ct d win e, c.instr = .apSweep n a b doff w soff k ct d win e) →
       s.queueOn core 2 = true → c.running = true →
       exec (.sweepRowStage core) s = .next (s.settle core 2 c (s.sweepStageStep core c)) ∧
       (sweepStage (s.plane core).apsweep ≠ 1 → s.mayTransfer core c = false →
         ∃ t, exec (.sweepArbTimeout core) s = .next t ∧ (t.queue core 2).head = some { c with arb := true }))) ∧
  ((∀ (s : State) (core d a b k off w win : Nat) (op : TagOp) (c : Cmd) (e : Eng),
     let runs := s.queueOn core 2 = true ∧ s.soloHead core 2 = some c ∧ c.ready = true ∧ c.running = true
     let x := s.plane core
     let me : Who := ⟨core, c.slot⟩
     let gives := fun (size : Nat) (P : State → Prop) =>
       ∃ u, exec (.engineCommandEnd core 2) s = .next (u.endCommand core 2 c 0 size) ∧ P u
     let delivers := fun (r : RegWrite) => exec (.engineCommandEnd core 2) s = .next ((s.result me 1 r).endCommand core 2 c 0 0)
     let row := (c.op1 0).toNat
     let tagged := fun (r : Nat) => decide (r < 4096) && (x.tag a).getLsbD r
     runs →
     (c.instr = .apClr off w e → gives 0 (fun u => let y := u.plane core
       u.memory = s.memory ∧ y = { x with cols := y.cols } ∧ ∀ b, y.col b = if off ≤ b ∧ b < off + w then 0 else x.col b)) ∧
     (c.instr = .apWr a b k e → gives 0 (fun u => let y := u.plane core
       u.memory = s.memory ∧ y = { x with cols := y.cols } ∧ ∀ b < 256, ∀ r < 4096, (y.col b).getLsbD r =
         if (x.tag k).getLsbD r && (c.vop 1).getLsbD b then (c.vop 0).getLsbD b else (x.col b).getLsbD r)) ∧
     (c.instr = .apWrr a b e → row < 4096 → gives 0 (fun u => let y := u.plane core
       u.memory = s.memory ∧ y.tags = x.tags ∧ y.seqs = x.seqs ∧ ∀ r < 4096,
         y.poison.getLsbD r = (x.poison.getLsbD r && decide (r ≠ row)) ∧
         ∀ b < 256, (y.col b).getLsbD r = if r = row then (c.vop 0).getLsbD b else (x.col b).getLsbD r)) ∧
     (c.instr = .apTg op d a b e → gives 0 (fun u => let y := u.plane core
       u.memory = s.memory ∧ y = { x with tags := y.tags } ∧ (∀ t, t ≠ d → y.tag t = x.tag t) ∧ ∀ r < 4096,
         let p := (x.tag a).getLsbD r
         let q := (x.tag b).getLsbD r
         (y.tag d).getLsbD r = match op with
           | .and => p && q
           | .or => p || q
           | .xor => p ^^ q
           | .andn => p && !q
           | .not => !p
           | .copy => p
           | .set => true
           | .clr => false)) ∧
     (c.instr = .apCnt d a e → s.owns core c = true → ∃ v, delivers (.g d v) ∧ v.toNat = ((List.range 4096).filter tagged).length) ∧
     (c.instr = .apFirst d a e → s.owns core c = true → ∃ v, delivers (.g d v) ∧
       ((∀ r, tagged r = false) → v = 4096) ∧ (∀ r, tagged r = true → (∀ q < r, tagged q = false) → v.toNat = r)) ∧
     (c.instr = .apRd d a e → row < 4096 →
       (x.poison.getLsbD row = true → exec (.engineCommandEnd core 2) s = .next ((s.dropHead core 2).trapOwner core c 0x0A (c.op1 0))) ∧
       (x.poison.getLsbD row = false → s.owns core c = true → ∃ v, delivers (.v d v) ∧ ∀ b < 2048, v.getLsbD b =
         if b < 256 then (x.col b).getLsbD row else decide (b < 264) && (x.tag (b - 256)).getLsbD row)) ∧
     (c.instr = .apMax d off w a e → 1 ≤ w → w ≤ 64 → off + w ≤ 256 → a < 8 → s.owns core c = true → c.done = 0 → c.resumed = false →
       x.apmpc = BitVec.ofNat 64 (2 ^ 31 + (w - 1) * 2 ^ 12 + 6) → gives 0 (fun u => let y := u.plane core
         ∃ v, u.ctx me = (s.result me 1 (.g d v)).ctx me ∧ u.memory = s.memory ∧ y.cols = x.cols ∧ (∀ t, t ≠ a → y.tag t = x.tag t) ∧
           (∀ r, tagged r = true → x.field r off w ≤ v.toNat) ∧ ((∀ r, tagged r = false) → v = 0) ∧
           ((∃ r, tagged r = true) → ∃ r, tagged r = true ∧ x.field r off w = v.toNat) ∧
           ∀ r < 4096, (y.tag a).getLsbD r = (tagged r && decide (x.field r off w = v.toNat)))) ∧
     (∀ o, c.instr = .apMcode k a e → OwnBase s core (c.op1 0) o → o % 8 = 0 → c.vals = [] →
       let h := s.word (spKey core o)
       let steps := (List.range (h.toNat % 256)).map (fun j => s.word (spKey core (o + 8 * (j + 1))))
       OwnFree s core o (8 * (h.toNat % 256 + 1)) →
       ((1 ≤ h.toNat % 256 ∧ h.toNat < 2 ^ 10 ∧ ∀ wd ∈ steps, wd.toNat < 2 ^ 14 ∧ (wd.getLsbD 10 = true → wd.getLsbD 8 = true)) →
         gives 0 (fun u => u.memory = s.memory ∧ (u.plane core).seqs.get [] k = h :: steps ∧ (u.plane core).cols = x.cols ∧
           ∀ m, m ≠ k → (u.plane core).seqs.get [] m = x.seqs.get [] m)) ∧
       (h.toNat % 256 = 0 → ∃ t, exec (.engineCommandEnd core 2) s = .next t ∧ (t.queue core 2).held = true ∧
         (t.plane core).seqs.get [] k = [])) ∧
     (∀ (u : State) (key j : Nat) (st : Bool), row % 2048 = 0 → win < 64 → key % 2048 = 0 → isVault key = true →
       s.engineAt (planePort core 0) c { write := st } row 2048 = .ok key u → (u.core (keyCore key)).marks.beats = .clean →
       let z := u.plane core
       let line := fun (m : Memory) (r : Nat) => leNat (m.read (key + 32 * (r % 64)) 32)
       (st = false → c.instr = .apLd a win e → j ≤ 64 → (∀ i < j, u.poisoned (key + 32 * i) = false) →
         (j < 64 → u.poisoned (key + 32 * j) = true) →
         ∃ t : State, exec (.engineCommandEnd core 2) s = .next (t.endCommand core 2 c (if j = 64 then 0 else 2) (32 * j)) ∧
           t.memory = u.memory ∧ (t.plane core).tags = z.tags ∧ ∀ r < 4096, ∀ b < 256,
             let bad := u.poisoned (key + 32 * (r % 64))
             ((t.plane core).col b).getLsbD r = (if r / 64 = win then !bad && (line u.memory r).testBit b else (z.col b).getLsbD r) ∧
             (t.plane core).poison.getLsbD r = if r / 64 = win then bad else z.poison.getLsbD r) ∧
       (st = true → c.instr = .apSt a win e → u.memory.wf = true →
         (∀ i < 64, u.sectorReached (keyCore key) (keyOff key + 32 * i) = true ∧ isReserved (key + 32 * i) = false) →
         ∃ t : State, exec (.engineCommandEnd core 2) s = .next (t.endCommand core 2 c 0 2048) ∧ t.plane core = z ∧
           (∀ r < 4096, r / 64 = win → t.memory.marked (key + 32 * (r % 64)) = z.poison.getLsbD r ∧
             (z.poison.getLsbD r = false → ∀ b < 256, (line t.memory r).testBit b = (z.col b).getLsbD r)) ∧
           ∀ p, (p < key ∨ key + 2048 ≤ p) → t.memory.byte p = u.memory.byte p))) ∧
   (∀ (s : State) (core d a off w r : Nat) (c : Cmd) (e : Eng),
     s.queueOn core 2 = true → s.soloHead core 2 = some c → c.ready = true → c.running = false → c.instr = .apMax d off w a e → 1 ≤ w →
     let x := s.plane core
     ((∀ q < 4096, ((x.tag a).getLsbD q && x.poison.getLsbD q) = false) →
       ∃ t, exec (.engineCommandStart core 2) s = .next t ∧ (t.queue core 2).head = some { c with running := true } ∧
         t.plane core = { x with apmpc := BitVec.ofNat 64 (2 ^ 31 + (w - 1) * 2 ^ 12 + 6) }) ∧
     (r < 4096 → ((x.tag a).getLsbD r && x.poison.getLsbD r) = true → (∀ q < r, ((x.tag a).getLsbD q && x.poison.getLsbD q) = false) →
       exec (.engineCommandStart core 2) s = .next ((s.dropHead core 2).trapOwner core c 0x0A (BitVec.ofNat 64 r))))) ∧
  (∀ (s : State) (core n doff w soff k ct a : Nat) (c : Cmd) (e : Eng),
     let x := s.plane core
     let start := x.apmpc = BitVec.ofNat 64 (2 ^ 31 + (if n = 6 then w - 1 else 0) * 2 ^ 12 + n)
     let sel := fun (r : Nat) => (x.tag a).getLsbD r
     let gives := fun (P : Plane → Prop) => ∃ u : State, exec (.engineCommandEnd core 2) s = .next (u.endCommand core 2 c 0 0) ∧
       u.memory = s.memory ∧ P (u.plane core)
     s.queueOn core 2 = true → s.soloHead core 2 = some c → c.ready = true → c.running = true → c.done = 0 → c.resumed = false →
     c.instr = .apSeq n doff w soff k ct a e → 1 ≤ w → doff + w ≤ 256 → soff + w ≤ 256 → k < 4096 → ct < 8 → a < 8 → ct ≠ a → start →
     (n < 8 → (soff + w ≤ doff ∨ doff + w ≤ soff) → gives (fun y => ∀ r < 4096,
       let same := fun (b : Nat) => (y.col b).getLsbD r = (x.col b).getLsbD r
       let D := x.field r doff w
       let S := x.field r soff w
       let C := (x.tag ct).getLsbD r
       let D' := y.field r doff w
       let C' := (y.tag ct).getLsbD r
       (∀ t, t ≠ ct → (y.tag t).getLsbD r = (x.tag t).getLsbD r) ∧
       (sel r = false → C' = C ∧ ∀ b < 256, same b) ∧
       (sel r = true → (∀ b < 256, (b < doff ∨ doff + w ≤ b) → same b) ∧
         (n = 0 → D' + 2 ^ w * C'.toNat = D + S + C.toNat) ∧
         (n = 1 → D' + S + C.toNat = D + 2 ^ w * C'.toNat) ∧
         (n = 2 → D' + 2 ^ w * C'.toNat = D + k % 2 ^ w + C.toNat) ∧
         (n = 3 → D' = (D + S * k) % 2 ^ w) ∧
         (n = 4 → D' = D ∧ C' = decide (S < D ∨ (C = true ∧ S = D))) ∧
         (n = 5 → D' = D ∧ C' = (C && decide (D = S))) ∧
         (n = 6 → D' = D ∧ (C' = true ↔ C = true ∧ ∀ q < 4096, sel q = true → (x.tag ct).getLsbD q = true → x.field q doff w ≤ D)) ∧
         (n = 7 → C = false → C' = decide (2 ^ (w - 1) ≤ D) ∧ D' = if 2 ^ (w - 1) ≤ D then 2 ^ w - D else D)))) ∧
     (∀ h wd : Word, w = 1 → 8 ≤ n → x.seqs.get [] n = [h, wd] → h.toNat % 256 = 1 → gives (fun y =>
       let D := fun (r : Nat) => (x.col doff).getLsbD r
       let S := fun (r : Nat) => if h.getLsbD 9 then k.testBit 0 else (x.col soff).getLsbD r
       let C := fun (r : Nat) => (x.tag ct).getLsbD r
       let agrees := fun (m v : Nat) (bit : Bool) => !wd.getLsbD m || (bit == wd.getLsbD v)
       let hit := fun (r : Nat) => decide (r < 4096) && sel r && agrees 0 1 (D r) && agrees 2 3 (S r) && agrees 4 5 (C r) && agrees 6 7 (D r)
       let writes := fun (r : Nat) => if wd.getLsbD 13 then (List.range 4096).any hit && sel r && !hit r else hit r
       (∀ b, b ≠ doff → y.col b = x.col b) ∧ (∀ t, t ≠ ct → y.tag t = x.tag t) ∧ ∀ r < 4096,
         (y.col doff).getLsbD r = (if writes r && wd.getLsbD 8 then (if wd.getLsbD 10 then !D r else wd.getLsbD 9) else D r) ∧
         (y.tag ct).getLsbD r = if writes r && wd.getLsbD 11 then wd.getLsbD 12 else C r))) ∧
  (∀ (s u v : State) (core n a b doff w soff k ct d win key off : Nat) (c : Cmd) (e : Eng),
     let x := s.plane core
     let z := x.apsweep
     let rows := (c.op1 1).toNat
     let row := rows - sweepRemain z
     s.queueOn core 2 = true → s.soloHead core 2 = some c → c.running = true → c.squashed = false → c.resumed = false →
     c.instr = .apSweep n a b doff w soff k ct d win e →
     (rows = 0 → exec (.sweepRowStage core) s = .next (s.endCommand core 2 c 0 0)) ∧
     (0 < rows → c.row = row → c.pos = some off → s.mayTransfer core c = true → n < 8 → 1 ≤ w →
       s.engineAt (planePort core 2) c { write := true } (c.op1 0 + BitVec.ofNat 64 (2048 * row)).toNat 2048 = .ok key u →
       (sweepStage z = 0 → u.loadRows core key win = (v, none) → ∃ t, exec (.sweepRowStage core) s = .next t ∧ t.memory = v.memory ∧
         t.plane core = { v.plane core with
           apsweep := BitVec.ofNat 64 (2 ^ 63 + 2 ^ 61 + (rows - row) * 2 ^ 32 + keyOff key / 2048 * 2048)
           apmpc := BitVec.ofNat 64 (2 ^ 31 + (if n = 6 then w - 1 else 0) * 2 ^ 12 + n) } ∧
         (t.queue core 2).entries.tail = (v.queue core 2).entries.tail) ∧
       (sweepStage z = 2 → c.sent ≠ row + 1 → row + 1 = rows → c.failed = none → u.storeRows core key win = (v, none) →
         exec (.sweepRowStage core) s =
           .next ((v.setPlane core { v.plane core with apmpc := 0, apsweep := 0 }).endCommand core 2 c 0 (c.done + 1)))) ∧
     (0 < rows → c.row = row → c.pos = some off → sweepStage z = 1 → (∃ l ar, x.argsOf c.instr = some ar ∧ x.rest ar = some l) →
       ∃ t, exec (.sweepRowStage core) s = .next t ∧ t.memory = s.memory ∧ (t.queue core 2).entries.length = (s.queue core 2).entries.length ∧
         (((t.plane core).apmpc ≠ 0 ∧ (t.plane core).apsweep = z) ∨ ((t.plane core).apmpc = 0 ∧
           (t.plane core).apsweep = BitVec.ofNat 64 (2 ^ 63 + 2 * 2 ^ 61 + sweepRemain z * 2 ^ 32 + off / 2048 * 2048)))))

/-- R251 to R254, R258, R259, R284: credits, deferred arrivals, departures and pauses are performed at their record's
unit: a departure that was joining in the phase leaves the queue of joins, and any other the members, with its own
arrivals that are still to be performed; one that has not arrived in an open phase no longer counts for it, and DEPNOW
is set; a watchdog fires when its phase has run its time; a deferred arrival is sent once its transfers are over, and
waits at the unit for the earlier writes of its context to the record's regions. -/
def Obligations.GroupUnitSteps : Prop :=
  ∀ (s : State) (unit_ bytes rid h no : Nat) (who : Who) (job : BitVec 32) (joining : Option (BitVec 32)) (arrived paused : Bool)
      (value : Word) (rest : List GroupRequest) (x : Group) (e : HeldArrival) (held : List HeldArrival) (covers : Before),
    let next := s.modUnit unit_ (fun u => { u with queue := rest })
    x = s.group (ridOf value) →
    x.live = true → x.epoch = epochOf value →
    unit_ = ridOf value / 256 →
    ((s.unit unit_).queue = .credit value bytes :: rest →
      exec (.groupUpdate unit_ 0) s = .next (next.update (ridOf value) { x with got := min (2 ^ 48 - 1) (x.got + bytes) })) ∧
    ((s.unit unit_).queue = .arrive who job h value no covers :: rest →
      (s.owesWrites who x.regions covers = true → exec (.groupUpdate unit_ 0) s = .next s) ∧
      (s.owesWrites who x.regions covers = false → x.isOpen = true → exec (.groupUpdate unit_ 0) s =
        .next ((next.modHandle who job h no value (Handle.arrivedIn x.phase)).update (ridOf value) { x with a := x.a + 1 })) ∧
      (s.owesWrites who x.regions covers = false → x.isOpen = false → exec (.groupUpdate unit_ 0) s =
        .next (next.setGroup (ridOf value) { x with heldArrivals := x.heldArrivals ++ [⟨who, job, h, true, .none, 0, no, covers⟩] }))) ∧
    ((s.unit unit_).queue = .depart value joining arrived paused who h no :: rest →
      let z := { x with paused := if paused then x.paused - 1 else x.paused }
      (joining = some x.phase →
        exec (.groupDeparture unit_ 0) s = .next (next.update (ridOf value) { z with joinq := x.joinq - 1 })) ∧
      (joining ≠ some x.phase →
        let others := { z with
          m := x.m - 1, departed := true
          heldArrivals := x.heldArrivals.filter (fun e => !(decide (e.who = who) && decide (e.h = h) && decide (e.no = no))) }
        let cleared := next.modUnit unit_ (fun u => { u with queue := u.queue.filter (fun q => !q.arrives who h no value) })
        ((arrived = true ∨ x.isOpen = false) → exec (.groupDeparture unit_ 0) s = .next (cleared.update (ridOf value) others)) ∧
        (arrived = false → x.isOpen = true → exec (.groupDeparture unit_ 0) s =
          .next (cleared.update (ridOf value) { others with m0 := x.m0 - 1, depnow := true })))) ∧
    ((s.unit unit_).queue = .pause who value true :: rest →
      exec (.membershipPause unit_ 0) s = .next (next.setGroup (ridOf value) { x with paused := x.paused + 1 })) ∧
    ((s.unit unit_).queue = .pause who value false :: rest →
      exec (.membershipPause unit_ 0) s = .next (next.setGroup (ridOf value) { x with paused := x.paused - 1 })) ∧
    ((s.group rid).live = true → (s.group rid).wdogT ≠ 0 → (s.group rid).wdogT ≤ (s.group rid).wdogRun →
      ∃ t, exec (.watchdogFire rid) s = .next t ∧ (t.group rid).fired = true ∧ t.memory = s.memory) ∧
    ((s.ctx who).held = e :: held → e.waits = [] → s.mod.powered = true → (s.core who.core).run.isSome = true →
      s.isSaving who.core = false →
      exec (.arrdRelease who.core who.slot) s = .next ((s.modCtx who (fun c => { c with held := held })).askUnit
        (unitOfHandle e.handle) (.arrive who (s.core who.core).jobId e.h e.handle e.no e.covers))) ∧
    ((s.ctx who).held = [e] → (∃ p ∈ e.waits, ∃ c ∈ (s.queue who.core (4 + p.1)).cmds, c.seq = p.2) →
      exec (.arrdRelease who.core who.slot) s = .next s)

/-- R263, R264, R267, R268, R270, R271, R274, R275, R284: a message that its core can take is performed: a send fills
its mailbox, a put its bytes; one for a part that is saved goes to the spill queue, where it counts as performed and
no mailbox changes, or is refused where that has no room, and is redelivered when its part runs again; a refused
message gets its notice once its resource is free, and one behind it on its lane is refused too, for the lane
(DEDUCED, notes/assumptions/146.md); a returning handler is shipped, and a handler's fault ends its call, once its
writes are performed; an end, a reply and a failure reach the issuer. R278, R291, R336, R337: a block from a trained
link goes to the part of its address space at the gateway that its index names, running or saved, and is dropped where
there is none; a retry changes nothing; a link that fails leaves every mask, and the chunk writes that travel on it
are lost: their transfers send nothing more and end LINK_FAIL at the lowest offset that is lost (DESIGN CHOICE,
notes/assumptions/71.md). -/
def Obligations.FabricSteps : Prop :=
  (∀ (s t : State) (m : Msg) (core h idx cause base status key : Nat) (value : Word) (b : Bool) (r : Reply) (k : Resource)
       (bytes : List Byte),
     let rest := { s with fabric := [] }
     let v : Who := ⟨core, 11 + h⟩
     let ctx := s.ctx v
     let u := s.flush v (fun _ => true)
     s.agentOn = true →
     (s.fabric = [m] → m.refused = none → m.noticed = false → m.dst < 0x1000 → (s.core m.dst).spill = [] →
       s.diverts m.dst m.job = false →
       (m.body = .send idx value → m.dst ≠ m.src.core → ((s.mail m.dst).box idx).state = .absent →
         exec (.messageArrival 0) s = .next ((rest.fillBox m.dst idx { state := .plain, value }).succeed m csOk)) ∧
       (m.body = .put key bytes false none → isVault key = false → rest.store key bytes = some t →
         exec (.messageArrival 0) s = .next (t.succeed m csOk)) ∧
       (m.body = .ended → exec (.handlerEndNotice 0) s = .next (rest.opDone m)) ∧
       (m.body = .mail base [(.plain, value)] b → (s.core m.dst).jobId = m.job →
         exec (.replyDelivery 0) s = .next (rest.fillBox m.dst base { state := .plain, value, reply := b })) ∧
       (m.body = .failed status cause value → (s.core m.src.core).jobId = m.job →
         exec (.remoteFailureReport 0) s = .next (match m.cw with
           | some (n, seq) => (rest.opDone m).complete m.src.core (some n) seq status 0
           | none => (rest.opDone m).engineFault m.src m.gen cause value))) ∧
     (∀ im, s.fabric = [m] → m.refused = none → m.noticed = false → m.dst < 0x1000 → m.body = .send idx value → m.cw = none →
       (s.core m.dst).run = none → (s.core m.dst).saved = some im → im.run.job = m.job →
       let used := (s.core m.dst).spillUsed
       (used + 128 ≤ 2 ^ 18 → ∃ t : State, exec (.messageArrival 0) s = .next t ∧ t.fabric = [] ∧ t.mail m.dst = s.mail m.dst ∧
         (t.core m.dst).spill = (s.core m.dst).spill ++ [{ m with op := none }] ∧
         (∀ a, isSp a = true → t.memory.byte a = s.memory.byte a) ∧
         (∀ n, m.op = some n → (s.core m.src.core).jobId = m.job → ∀ o ∈ (t.ctx m.src).remote, o.id ≠ n)) ∧
       (2 ^ 18 < used + 128 → ∃ t, exec (.messageArrival 0) s = .next t ∧ t.cores = s.cores ∧
         t.fabric = [{ m with refused := some .spill, since := s.tick, noticed := false }])) ∧
     (∀ run, (s.core core).run = some run → s.isSaving core = false → (s.core core).spill = [m] → m.job = run.job → m.dst = core →
       m.src.core ≠ core → m.body = .send idx value → m.cw = none → m.op = none → ((s.mail core).box idx).state = .absent →
       (s.mail core).waiters = [] → (s.mail core).overflow = [] →
       let t := s.redeliverAll core
       (t.core core).spill = [] ∧ (t.mail core).box idx = { state := .plain, value } ∧ t.memory = s.memory) ∧
     (s.fabric = [m] → m.dst = core → m.refused = some k → m.noticed = false → (s.core core).spill = [] →
       s.resourceFree m = true →
       exec (.resourceFreeNotice core 0) s = .next (s.modMsg 0 (fun m => { m with noticed := true }))) ∧
     (∀ q, s.fabric = [q, m] → q.refused = some k → m.refused = none → m.body = .send idx value → q.sameLane m = true →
       m.dst < 0x1000 →
       ∃ t, exec (.messageArrival 1) s = .next t ∧
         t.fabric = [q, { m with refused := some .lane, since := s.tick, noticed := false }] ∧ t.cores = s.cores) ∧
     (h < 8 → ctx.live = true → ctx.hold.returnTrap = true → (s.core core).part.returns.length < 8 →
       (u.flushed v (fun _ => true) = true → exec (.handlerReturnTrap core h) s =
         .next (if (u.ctx v).hold.fwEntry.isSome then u else u.shipHandler core h)) ∧
       (u.flushed v (fun _ => true) = false → exec (.handlerReturnTrap core h) s = .next u)) ∧
     (h < 8 → ctx.live = true → ctx.hold.fwEntry = some cause → ctx.reply = some r →
       (u.flushed v (fun _ => true) = true →
         exec (.handlerFault core h) s = .next (((u.freeEntry core r).freeHandlerCtx v).handlerFaulted r cause)) ∧
       (u.flushed v (fun _ => true) = false → exec (.handlerFault core h) s = .next u))) ∧
  (∀ (s : State) (link n k : Nat) (block : GatewayBlock),
     let set := s.gatewaySet link
     let asid := BitVec.ofNat 16 block.asid
     let lost := fun (l : Leg) => decide (l.link = some link)
     s.agentOn = true →
     (7 ≤ s.mod.step → link < 16 → link ∉ s.mod.failedLinks → block.payload.length ≤ 256 →
       set[block.index % set.length]? = some n → s.physOf n = some k →
       (∀ j, ((∃ r, (s.core k).run = some r ∧ r.asid = asid ∧ r.job = j) ∨
           ((s.core k).run = none ∧ ∃ im, (s.core k).saved = some im ∧ im.run.asid = asid ∧ im.run.job = j)) →
         exec (.gatewayBlockArrival link block) s = .next (s.post {
           src := ⟨0x1000 + link, 0⟩, gen := 0, job := j, dst := k, lane := 0, va := 0
           body := .gateway link (block.index % 2 ^ 32) block.payload block.src asid })) ∧
       ((∀ r, (s.core k).run = some r → r.asid ≠ asid) → (s.core k).saved = none →
         exec (.gatewayBlockArrival link block) s = .next s)) ∧
     exec (.linkCrcRetry link) s = .next s ∧
     (link < 16 → link ∉ s.mod.failedLinks → s.fabric = [] →
       ∃ t : State, exec (.linkFailure link) s = .next t ∧ link ∈ t.mod.failedLinks ∧ t.memory = s.memory ∧
         (∀ dev, (t.mod.masks.get 0 dev).getLsbD link = false ∧
           ∀ j, j ≠ link → (t.mod.masks.get 0 dev).getLsbD j = (s.mod.masks.get 0 dev).getLsbD j) ∧
         ∀ core ch, t.legsOf core ch = (s.legsOf core ch).filter (fun l => !lost l) ∧
           (ch < 4 → ∀ c l, (s.queue core (chQueue ch)).head = some c → c.failed = none → (s.legsOf core ch).find? lost = some l →
             (t.queue core (chQueue ch)).head = some { c with
               failed := some (csLinkFail, l.offset)
               copy := { c.copy with
                 lost := ((s.legsOf core ch).filter lost).foldl (fun n l => n + l.bytes.length) c.copy.lost } })))

/-- R59, R67, R87, R253, R271, R277, R278, R291, R309: a channel sends the next chunk of its transfer, no further than
1,024 bytes past one that may still fail. A chunk reads its elements at the transfer's source addresses and is written
at the destination's first; a poisoned source ends the transfer SRC, and a destination in a shadow-stack area
TRANSLATION, at the chunk's offset. The one chunk on its way to a scratchpad is performed there, and its bytes are
credited. A transfer of which nothing is on its way ends, at its length or at its first failing chunk: CDONE passes
it, CFAIL records a failure, and its completion word has its status, offset and number. A replay credits at its end
the bytes that were not credited before the squash (DEDUCED, notes/assumptions/74.md). -/
def Obligations.CopySteps : Prop :=
  ∀ (s t : State) (core ch status offset p q : Nat) (c : Cmd) (leg : Leg),
    let k := keyCore leg.key
    ch < 4 → (s.queue core (chQueue ch)).head = some c → s.copyOn core ch c = true →
    (c.ready = true → c.failed = none → c.squashed = false → c.done < c.transfer.total →
      (s.legsOf core ch).length < 16 →
      ((∀ l ∈ s.legsOf core ch, c.done + 64 ≤ l.offset + l.bytes.length + 1024) → exec (.copyChunk core ch) s =
        .next ((s.modCopy core ch (fun c => { c with running := true })).copyChunk core ch { c with running := true })) ∧
      ((∃ l ∈ s.legsOf core ch, l.offset + l.bytes.length + 1024 < c.done + 64) → exec (.copyChunk core ch) s = .next s) ∧
      (let x := c.transfer
       let e := c.done / x.size
       let n := x.run e (64 / x.size - 1) * x.size
       let key := spKey core p
       (∀ l ∈ s.legsOf core ch, c.done + 64 ≤ l.offset + l.bytes.length + 1024) → c.buf = [] →
       (x.at_ e).1 = ownAperture + p → p + n ≤ 0x80000 → (x.at_ e).2 = ownAperture + q → q + n ≤ 0x80000 →
       core < 0x7FF → (s.logicalOf core).isSome = true → (s.core core).resolved = [] → (s.core core).marks.stripe = .clean →
       ∃ t h, exec (.copyChunk core ch) s = .next t ∧ (t.queue core (chQueue ch)).head = some h ∧ h.running = true ∧
         t.memory = s.memory ∧
         ((∃ j < n, s.memory.marked (key + j) = true) → h.failed = some (csSrc, c.done) ∧ t.legsOf core ch = s.legsOf core ch) ∧
         ((∀ j < n, s.memory.marked (key + j) = false) →
           (inShadow q n = true → h.failed = some (csTranslation, c.done) ∧ t.legsOf core ch = s.legsOf core ch) ∧
           (inShadow q n = false → h.failed = none ∧ h.done = c.done + n ∧ t.legsOf core ch = s.legsOf core ch ++ [{
             key := spKey core q, bytes := s.memory.read key n, offset := c.done, va := BitVec.ofNat 64 (x.at_ e).2 }])))) ∧
    (s.legsOf core ch = [leg] → leg.listed = false → leg.spilled = false → isHere leg.key = true → isVault leg.key = false →
      (∀ m ∈ s.fabric, m.refused = none) → (s.core k).spill = [] →
      (∃ r, (s.core core).run = some r ∧ r.job = (s.core core).jobId) →
      s.diverts k (s.core core).jobId = false → s.store leg.key leg.bytes = some t →
      (c.credit = none → exec (.copyWritePerformed core ch) s = .next (t.setLegs core ch [])) ∧
      (∀ h, c.credit = some h → c.copy.replay = false → ∃ u, exec (.copyWritePerformed core ch) s = .next u ∧
        u.memory = t.memory ∧ u.legsOf core ch = [] ∧
        (u.unit (unitOfHandle h)).queue = (s.unit (unitOfHandle h)).queue ++ [.credit h leg.bytes.length])) ∧
    (s.legsOf core ch = [] → c.ready = true → c.squashed = false →
      (c.failed = some (status, offset) →
        exec (.transferComplete core ch) s = .next (s.endTransfer core ch c status offset)) ∧
      (c.failed = none → c.transfer.total ≤ c.done →
        exec (.transferComplete core ch) s = .next (s.endTransfer core ch c csOk c.done))) ∧
    (∀ a d hc eng, c.instr = .tcopy ch a d hc eng → (s.core core).words = [] →
      let u := s.endTransfer core ch c status offset
      let r := (u.core core).part.regs
      let f := (s.core core).part.regs.cfail.get {} ch
      r.cdone.get 0 ch = c.seq + 1 ∧
      (status = csOk → r.cfail = (s.core core).part.regs.cfail) ∧
      (status ≠ csOk → r.cfail.get {} ch = { fcount := min 255 (f.fcount + 1), valid := true, id := if f.valid then f.id else c.seq }) ∧
      (u.queue core (chQueue ch)).entries = (s.queue core (chQueue ch)).entries.tail ∧
      (status = csTranslation → (u.queue core (chQueue ch)).held = true) ∧
      (c.cw = none → u.memory = s.memory) ∧
      (∀ n, c.cw = some n → core < 0x7FF → 8 * n + 8 ≤ 0x80000 → s.memory.wf = true →
        u.memory.isFull (spKey core (8 * n)) = true ∧
        u.word (spKey core (8 * n)) = BitVec.ofNat 64 (status + offset % 2 ^ 32 * 2 ^ 16 + c.seq.toNat % 2 ^ 16 * 2 ^ 48)) ∧
      (∀ h, c.credit = some h → c.copy.replay = true → c.copy.credited + c.copy.lost < c.done →
        (u.unit (unitOfHandle h)).queue =
          (s.unit (unitOfHandle h)).queue ++ [.credit h (c.done - c.copy.credited - c.copy.lost)]))

/-- R149, R299, R300, R302, R304, R332, R333, R335, R502: the control node's messages and their answers: each has its
header, and a malformed one is BAD_MESSAGE, a DEBUG without 384 bytes of signature among them. The words of the bodies
of replies are the model's (notes/assumptions/5.md), and so are CANCEL's OK for a job that is unknown (DEDUCED,
notes/assumptions/93.md) and the answer of a malformed message, under its own tag and kind from step 2 on, with the
lengths that its kinds have (DESIGN CHOICE, notes/assumptions/123.md). -/
def Obligations.PortMessages : Prop :=
  ∀ (s : State) (tag queue job maxslice asid rtab rcount nonce key kind status : Nat) (desc l : List Word) (tbound : List Nat)
      (set : List (Nat × Word)) (get : List Nat) (root : Option Nat) (tvec pa : Word) (bytes signature : List Byte)
      (enable : Bool) (body : List Word),
    let h := l.getD 0 0
    let report := s.reportOn nonce
    (body.length ≤ 512 → ∃ r : PhovaReply, (s.answer tag kind status body).mod.replies = s.mod.replies ++ [r] ∧
      r.header.extractLsb' 32 32 = BitVec.ofNat 32 tag ∧ r.header.extractLsb' 0 8 = BitVec.ofNat 8 kind ∧
      r.header.extractLsb' 8 8 = BitVec.ofNat 8 status ∧ 2 * (r.header.extractLsb' 16 16).toNat = r.body.length ∧
      r.body.take body.length = body) ∧
    (s.mod.powered = true →
    (2 ≤ s.mod.step →
      exec (.ident tag) s = .next (s.answer tag 0x01 pvOk
        [Config.serial, BitVec.ofNat 64 s.fwVersion, BitVec.ofNat 64 s.mod.devId, BitVec.ofNat 64 s.mod.domain]) ∧
      (∃ words, exec (.status tag) s = .next (s.answer tag 0x02 pvOk words) ∧ words.length ≤ 512 ∧
        words[0]? = some (BitVec.ofNat 64 (min 6 s.mod.step))) ∧
      ((l.getD 1 0 ≠ 0 ∨ (l.drop 2).length ≠ 2 * (h.toNat / 2 ^ 16 % 2 ^ 16)) →
        State.portMessage exec l s = .next (s.answer (h.toNat / 2 ^ 32) (h.toNat % 2 ^ 8) pvBadMessage)) ∧
      (let len := h.toNat / 2 ^ 16 % 2 ^ 16
       let bad := s.answer (h.toNat / 2 ^ 32) (h.toNat % 2 ^ 8) pvBadMessage
       h.toNat % 2 ^ 8 ∉ [0x01, 0x02, 0x15, 0x21] → l.getD 1 0 = 0 → len ≤ 256 → (l.drop 2).length = 2 * len →
         State.portMessage exec l s = match Config.portBody (h.toNat % 2 ^ 8) (h.toNat / 2 ^ 32) (l.drop 2) with
           | some i => if portKind i = some (h.toNat % 2 ^ 8, h.toNat / 2 ^ 32) ∧ lengthFits i (h.toNat % 2 ^ 8) len then exec i s
                       else .next bad
           | none => .next bad) ∧
      (desc.length = 16 → ∀ len, lengthFits (.submit tag queue desc) 0x10 len = true → 9 ≤ len)) ∧
    (2 ≤ s.mod.step → s.mod.step < 7 →
      exec (.submit tag queue desc) s = .next (s.answer tag 0x10 pvNotReady) ∧
      exec (.cancel tag job) s = .next (s.answer tag 0x11 pvNotReady) ∧
      exec (.param tag tbound maxslice) s = .next (s.answer tag 0x12 pvNotReady) ∧
      exec (.keys tag set get) s = .next (s.answer tag 0x13 pvNotReady) ∧
      exec (.asidtab tag asid root rtab rcount tvec) s = .next (s.answer tag 0x14 pvNotReady) ∧
      exec (.load tag pa bytes) s = .next (s.answer tag 0x15 pvNotReady) ∧
      exec (.attest tag nonce) s = .next (s.answer tag 0x21 pvNotReady) ∧
      (signature.length = 384 → exec (.debug tag enable nonce signature) s = .next (s.answer tag 0x23 pvNotReady))) ∧
    (2 ≤ s.mod.step → signature.length ≠ 384 →
      exec (.debug tag enable nonce signature) s = .next (s.answer tag 0x23 pvBadMessage)) ∧
    (7 ≤ s.mod.step →
      (queue < 48 → desc.length = 16 →
        (s.queued queue < 32 →
          exec (.submit tag queue desc) s = .next ((s.jobArrival desc queue 0).answer tag 0x10 pvOk)) ∧
        (32 ≤ s.queued queue → exec (.submit tag queue desc) s = .next (s.answer tag 0x10 pvQueueFull))) ∧
      ((∀ j ∈ s.dx.jobs, j.id.toNat ≠ job) → exec (.cancel tag job) s = .next (s.answer tag 0x11 pvOk)) ∧
      (∀ j, s.dx.jobs = [j] → j.id.toNat = job →
        exec (.cancel tag job) s = .next ((s.endJob j.id stCancelled).answer tag 0x11 pvOk)) ∧
      (tbound.length = 4 → (∀ x ∈ tbound, 1000000 ≤ x ∧ x ≤ 1000000000) → 1000000 ≤ maxslice → maxslice ≤ 100000000 →
        exec (.param tag tbound maxslice) s =
          .next (({ s with dx := { s.dx with tbound, maxslice } }).answer tag 0x12 pvOk)) ∧
      (512 < get.length → exec (.keys tag set get) s = .next (s.answer tag 0x13 pvBadMessage)) ∧
      ((∀ p ∈ set, p.1 < 1152) → (∀ n ∈ get, n < 1152) → get.length ≤ 512 →
        ∃ t : State, exec (.keys tag set get) s = .next (t.answer tag 0x13 pvOk (get.map (fun n => t.dx.keys.get 0 n))) ∧
          (∀ n, (∀ p ∈ set, p.1 ≠ n) → t.dx.keys.get 0 n = s.dx.keys.get 0 n) ∧
          (∀ n x, set = [(n, x)] → t.dx.keys.get 0 n = x) ∧ t.cores = s.cores ∧ t.memory = s.memory) ∧
      (asid < 2 ^ 16 → (∀ r, root = some r → r % 4096 = 0 ∧ r < 2 ^ 47) → rtab % 4096 = 0 → rtab < 2 ^ 47 → rcount ≤ 64 →
        (tvec &&& 0xFE0000000000001F) = 0 →
        ∃ t : State, exec (.asidtab tag asid root rtab rcount tvec) s = .next (t.answer tag 0x14 pvOk) ∧
          t.dx.asids.get {} asid = { ptroot := root, rtab, rcount, tvec0 := tvec } ∧ t.cores = s.cores ∧
          t.memory = s.memory) ∧
      (s.Canonical → s.loadKey pa.toNat bytes.length = some key →
        (∀ j < bytes.length, isVault (key + j) = true → s.sectorReached (keyCore (key + j)) (keyOff (key + j)) = true) →
        ∃ t : State, exec (.load tag pa bytes) s = .next (t.answer tag 0x15 pvOk) ∧ t.cores = s.cores ∧
          (∀ j (h : j < bytes.length), t.memory.byte (key + j) = bytes[j] ∧ t.memory.marked (key + j) = false) ∧
          (∀ a, (a / 32 < key / 32 ∨ (key + bytes.length - 1) / 32 < a / 32) → t.memory.byte a = s.memory.byte a)) ∧
      (s.loadKey pa.toNat bytes.length = none → exec (.load tag pa bytes) s = .next (s.answer tag 0x15 pvBadMessage)) ∧
      exec (.attest tag nonce) s = .next (({ s with mod := { s.mod with nonce := some nonce } }).answer tag 0x21 pvOk
        (report ++ (upTo 48).map (Config.reportSigned (Sha.digest (report.flatMap (fun (x : Word) => natLE 8 x.toNat)))))) ∧
      report.head? = some Config.serial ∧
      (report.drop 1).take 4 = (upTo 4).map (fun k => BitVec.ofNat 64 (leNat (((Sha.digest s.image).drop (8 * k)).take 8))) ∧
      (signature.length = 384 → (Config.imageDebugKey s.imageHeader = none ∨ s.mod.nonce ≠ some nonce) →
        exec (.debug tag enable nonce signature) s = .next (s.answer tag 0x23 pvBadSignature)) ∧
      (∀ d, signature.length = 384 → Config.imageDebugKey s.imageHeader = some d → s.mod.nonce = some nonce →
        exec (.debug tag enable nonce signature) s = .next
          (if Config.debugSigned d Config.serial nonce enable signature then (s.setDebug enable).answer tag 0x23 pvOk
           else s.answer tag 0x23 pvBadSignature))))

/-- R188, R190, R330, R333, R334, R336, R339, R340: resets and power, the rails, the steps of bring-up, routes, images
and the operating point. The model's own: a ROUTE after bring-up is NOT_READY (notes/assumptions/5.md), power-on is as
a cold reset (95.md), the shutdown reports itself as a message (98.md), an image is whole at the length that its
header gives (124.md), a reset leaves scratchpads zero, clean and empty, and bytes beneath poison zero (10.md, 96.md),
and the steps of the rails and the points between the three of R340 (126.md). -/
def Obligations.BringupSteps : Prop :=
  ∀ (s : State) (lines : List (Nat × WeltLine)) (links : List Nat) (tag mv mhz temp core dev domain gateways : Nat)
      (masks : List (Nat × BitVec 16)) (first : Bool) (im piece : List Byte),
    let kept : Memory := { s.memory with bytes := s.memory.bytes.filter (fun p => !isSp p.1), wordPoison := [], full := [] }
    let pieces := (if first then [] else s.mod.pieces) ++ piece
    let whole := 512 ≤ pieces.length ∧ 512 + Config.imageLength (pieces.take 512) ≤ pieces.length
    let after := fun (cold : Bool) (t : State) => t.mod.step = (if cold ∨ s.mod.rails < 3 then 1 else 2) ∧ t.mod.powered = true ∧ t.mod.trained = false ∧
      t.mod.routed = false ∧ t.dx.jobs = [] ∧ t.fabric = [] ∧ t.dx.map = s.dx.map ∧ t.dx.spareUsed = s.dx.spareUsed ∧
      (core < 1200 → (t.core core).run = none ∧ (t.core core).saved = none ∧ (t.core core).vault.log = (s.core core).vault.log ∧
        (t.core core).vault.repaired = [] ∧ (t.core core).vault.retired = [] ∧
        (t.core core).vault.failing = linesOf lines core)
    (s.mod.powered = true →
      (exec (.coldReset ⟨links, lines⟩) s = .next (s.coldModule links lines) ∧ after true (s.coldModule links lines) ∧
        (s.coldModule links lines).memory.bytes = [] ∧ (s.coldModule links lines).mod.rails = 0 ∧
        (∀ key, isSp key = false → (s.coldModule links lines).memory.marked key = true)) ∧
      (s.mod.loaded = none → exec (.warmReset ⟨links, lines⟩) s = .next (s.resetModule false kept links lines)) ∧
      after false (s.resetModule false kept links lines) ∧
      (s.mod.loaded = some im → exec (.warmReset ⟨links, lines⟩) s = .next ((s.resetModule false kept links lines).install im)) ∧
      (s.mod.step = 1 → s.bringUp =
        if s.mod.rails < 3 then { s with mod := { s.mod with rails := s.mod.rails + 1 } } else s.atStep 2) ∧
      (s.mod.step = 2 → s.bringUp = s.atStep 3) ∧
      (s.mod.step = 3 → s.bringUp = if s.boots then s.atStep 4 else s) ∧
      (s.mod.step = 4 → s.bringUp.mod.step = 5) ∧
      (s.mod.step = 5 → s.bringUp.mod.trained = true ∧ s.bringUp.mod.step = if s.mod.routed then 6 else 5) ∧
      (s.mod.step = 6 → s.bringUp = s.atStep 7) ∧
      (s.mod.step = 5 →
        (∃ t : State, exec .routeWaitExpiry s = .next t ∧ t.mod.step = 6 ∧ t.mod.devId = s.mod.devId ∧ t.cores = s.cores ∧
          (s.mod.trained = false → ∀ j, j ∈ t.mod.failedLinks ↔ j ∈ s.mod.failedLinks ∨ j ∈ s.mod.untrained)) ∧
        ((dev < domain → domain ≤ 64 → 1 ≤ gateways → gateways ≤ 4 → (∀ p ∈ masks, p.1 < domain ∧ p.1 ≠ dev) →
          ∃ t : State, exec (.route tag dev domain masks gateways) s = .next (t.answer tag 0x22 pvOk) ∧ t.mod.routed = true ∧
            t.mod.step = (if s.mod.trained then 6 else 5) ∧ t.mod.devId = dev ∧ t.mod.domain = domain ∧ t.mod.gateways = gateways ∧
            (∀ d, ∀ j < 16, (t.mod.masks.get 0 d).getLsbD j =
              ((((masks.reverse.find? (fun (p : Nat × BitVec 16) => decide (p.1 = d))).map (fun (p : Nat × BitVec 16) => p.2)).getD 0).getLsbD j && !decide (j ∈ s.mod.failedLinks))) ∧
            t.cores = s.cores ∧ t.memory = s.memory) ∧
        ((64 ≤ dev ∨ domain = 0 ∨ 64 < domain ∨ domain ≤ dev ∨ gateways = 0 ∨ 4 < gateways) →
          exec (.route tag dev domain masks gateways) s = .next (s.answer tag 0x22 pvBadMessage)))) ∧
      (s.mod.step = 7 →
        exec (.route tag dev domain masks gateways) s = .next (s.answer tag 0x22 pvNotReady) ∧
        (¬ whole → exec (.fwload tag first piece) s = .next (({ s with mod := { s.mod with pieces } }).answer tag 0x20 pvOk)) ∧
        (whole → exec (.fwload tag first piece) s = .next (
          let u := { s with mod := { s.mod with pieces := [] } }
          if s.accepts pieces then ({ u with mod := { u.mod with loaded := some pieces } }).answer tag 0x20 pvOk
          else u.answer tag 0x20 pvBadSignature))) ∧
      (s.mod.step = 3 → s.boots = false → whole → ∃ t : State, exec (.fwload tag first piece) s = .next t ∧ t.mod.step = 3 ∧
        (s.accepts pieces = true → t.mod.image = some pieces ∧ t.boots = true) ∧
        (s.accepts pieces = false → t.mod.image = s.mod.image ∧ t.boots = false)) ∧
      (dvfsPoint mv mhz = true → exec (.dvfsChange mv mhz) s = .next { s with mod := { s.mod with mv, mhz } }) ∧
      (dvfsPoint mv mhz = false → exec (.dvfsChange mv mhz) s = .next s) ∧
      (temp < 100 → exec (.junctionTempLimit temp) s = .next s) ∧
      (110 ≤ temp → ∃ t : State, exec (.junctionTempLimit temp) s = .next t ∧ t.mod.powered = false ∧
        t.mod.replies.length = s.mod.replies.length + 1 ∧ t.cores = s.cores) ∧
      (100 ≤ temp → temp < 110 → dvfsPoint s.mod.mv s.mod.mhz = true →
        ∃ t : State, exec (.junctionTempLimit temp) s = .next t ∧ t.mod.mv ≤ s.mod.mv ∧ t.mod.mhz ≤ s.mod.mhz ∧
          dvfsPoint t.mod.mv t.mod.mhz = true ∧ t.cores = s.cores ∧ t.memory = s.memory)) ∧
    (s.mod.powered = false →
      (let u := s.coldModule links lines
       exec (.powerOn links lines) s =
        .next { u with mod := { u.mod with rails := max 1 s.mod.rails, mv := 600, mhz := 2000, layers := [] } }) ∧
      s.bringUp = { s with mod := { s.mod with rails := s.mod.rails - 1 } } ∧ exec .powerOff s = .next s) ∧
    (s.mod.powered = true → ∃ t : State, exec .powerOff s = .next t ∧ t.mod.powered = false ∧ t.mod.step = 0 ∧
      t.mod.rails = min 2 s.mod.rails ∧ t.cores = s.cores)

/-- R80 to R93, R98: words of every class, written out from the spec's encodings, and the instructions that they stand
for. -/
def Obligations.DecodedWords : Prop :=
  decodeTableWord 64 0xFFFFFF80021C3001 = some (.bcmp .lt 3 7 (-8)) ∧
  decodeTableWord 128 0x30D40000000000000724E = some (.li 7 200000) ∧
  decodeTableWord 128 0x100000000000000000000001253 = some (.li64 1 0x10000000000) ∧
  decodeTableWord 64 0x2044269 = some (.mul 4 1 2) ∧
  decodeTableWord 64 0x200000185231 = some (.fcvt .bf16 .f32 .rne 5 6) ∧
  decodeTableWord 64 0x980007185401 = some (.amo .min .sw 5 6 7) ∧
  decodeTableWord 64 0xFFF8180000185411 = some (.ld .w true 5 6 (-8)) ∧
  decodeTableWord 64 0x5080003081619 = some (.vcmp .f16 (.fp .lt) 1 2 3) ∧
  decodeTableWord 128 0x80140000000000800000180000081817 = some (.mma .bf16 1 2 0 0 1 false ⟨none, some 40⟩) ∧
  decodeTableWord 128 0x80030070250F001000000C0042040A2B = some (.apSweep 3 1 2 16 16 0 37 7 1 0 ⟨none, some 6⟩) ∧
  decodeTableWord 128 0x40002044A3F = some (.tqDot true 4 1 2 ⟨none, none⟩) ∧
  decodeTableWord 64 0x2C0000000C0D = some (.fence .rel .device) ∧
  decodeTableWord 128 0x10050000000244200C5B = some (.rpcCall false 8 5 4 9 64 ⟨none, none⟩) ∧
  decodeTableWord 128 0x80028000000000020000000000209C73 = some (.tcopy 2 8 9 none ⟨none, some 5⟩) ∧
  decodeTableWord 64 0x1200000001EE35 = some (.sysr 30 .tcause)

/-- R51, R80, R83 to R95: a word that is no instruction is refused at the first check of R94 that fails, with its
reason, OPC, SUB and, for reason 7, the register field; and an instruction that leaves its fetch block is
ILLEGAL_FETCH unless its LEN is 0. -/
def Obligations.ReservedWordsAreRefused : Prop :=
  decodeBits 0x0 = .error (.instr 1 0x000 0 0) ∧
  decodeBits 0x14000000004D = .error (.instr 2 0x013 0 0) ∧
  decodeBits 0x2A9 = .error (.instr 2 0x0AA 0 0) ∧
  decodeBits 0x431 = .error (.instr 2 0x10C 0 0) ∧
  decodeBits 0x691 = .error (.instr 2 0x1A4 0 0) ∧
  decodeBits 0x82F = .error (.instr 2 0x20B 0 0) ∧
  decodeBits 0xA4F = .error (.instr 2 0x293 0 0) ∧
  decodeBits 0xC79 = .error (.instr 2 0x31E 0 0) ∧
  decodeBits 0xE51 = .error (.instr 2 0x394 0 0) ∧
  decodeBits 0x202 = .error (.instr 3 0x080 0 0) ∧
  decodeBits 0x821 = .error (.instr 3 0x208 0 0) ∧
  decodeBits 0x22000000201 = .error (.instr 5 0x080 0 0) ∧
  decodeBits 0x10000000823 = .error (.instr 5 0x208 0 0) ∧
  decodeBits 0x28000000021D = .error (.instr 6 0x087 10 0) ∧
  decodeBits 0x40000000201 = .error (.instr 6 0x080 1 0) ∧
  decodeBits 0x40000201 = .error (.instr 4 0x080 0 0) ∧
  decodeBits 0x1000009 = .error (.instr 4 0x002 0 0) ∧
  decodeBits 0x100000000000000000000024E = .error (.instr 4 0x093 0 0) ∧
  decodeBits 0x8000000000000000000000000823 = .error (.instr 4 0x208 0 0) ∧
  decodeBits 0x20201 = .error (.instr 7 0x080 0 0) ∧
  decodeBits 0x400605 = .error (.instr 7 0x181 0 1) ∧
  decodeBits 0x7187631 = .error (.instr 7 0x18C 0 0) ∧
  decodeBits 0x3044A3F = .error (.instr 7 0x28F 0 2) ∧
  decodeBits 0x8000000185211 = .error (.instr 8 0x084 0 0) ∧
  decodeBits 0x41200000000621 = .error (.instr 8 0x188 8 0) ∧
  decodeBits 0xC51 = .error (.instr 8 0x314 0 0) ∧
  decodeBits 0xA000000005E35 = .error (.instr 8 0x38D 0 0) ∧
  decodeBits 0xC000000000E4D = .error (.instr 8 0x393 0 0) ∧
  (∀ pc w : Nat, w % 4 ≠ 0 → 32 < pc % 32 + (if w % 4 = 1 then 8 else 16) → decodeAt pc w = .error .fetch) ∧
  (∀ pc w : Nat, w % 4 = 0 → decodeAt pc w = .error (.instr 1 0 0 0))

/-- R80 to R98: decoding the encoding of a well-formed instruction word gives it back, for every form and every
operand value that its form admits. -/
def Obligations.EncodeDecodeRoundTrip : Prop :=
  ∀ i : Instr, i.isWord = true → i.wf = true →
    encode i < 2 ^ (8 * Sys2Proof.sizeOf i) ∧ decodeTableWord (8 * Sys2Proof.sizeOf i) (encode i) = some i

/-- R32, R34, R80, R81, R94, R97, R267, R501: a context that may issue runs the instruction that its fetch block holds
at its PC, where that finds the space that it needs and no other ready context comes before it in its pipe's turn, or
in the handlers', as none does where it runs alone; one that yields is passed over once while another is ready. An
instruction that has issued and waits is run again without a turn (DESIGN CHOICE, notes/assumptions/106.md). Nothing
else happens in that step but that the agenda and the turn move on and time passes; an empty instruction store is
filled from the own vault, which the firmware window reaches without translation. -/
def Obligations.StepRunsTheDecodedInstruction : Prop :=
  ∀ (s u : State) (core slot : Nat) (rest : List Move) (l : List Byte) (i : Instr),
    let t := { s.elapse with agenda := rest }
    let w : Who := ⟨core, slot⟩
    let pc := (t.ctx w).pc.toNat
    let off := pc % 2 ^ 42 / 32 * 32
    let pipe := w.pipeOf i
    let v := u.choose w pipe
    (s.agenda = .issue core slot :: rest → t.mayIssue w = true → (t.ctx w).hold.fwEntry = none → t.nextAsync w = none →
      ((t.ctx w).hold.waiting = some i → step s = exec i { t with focus := w }) ∧
      ((t.ctx w).hold.waiting = none → t.fetchBlock w false = .bytes l u → decodeBlock (u.ctx w).pc l = .ok i →
        (u.hasRoom w i = true → u.isChosen w pipe = true →
          (((u.ctx w).hold.yields.getLsbD pipe = false ∨ u.isAlone w pipe = true) → step s = exec i { v with focus := w }) ∧
          ((u.ctx w).hold.yields.getLsbD pipe = true → u.isAlone w pipe = false → step s = .next v)) ∧
        ((u.hasRoom w i = false ∨ u.isChosen w pipe = false) → step s = .next u))) ∧
    ((∀ k < 11, k ≠ slot → (u.ctx ⟨core, k⟩).live = false) → slot < 11 → u.isChosen w pipe = true ∧ u.isAlone w pipe = true) ∧
    ((∀ k < 8, 11 + k ≠ slot → (u.ctx ⟨core, 11 + k⟩).live = false) → 11 ≤ slot → slot < 19 →
      u.isChosen w pipe = true ∧ u.isAlone w pipe = true) ∧
    (v.memory = u.memory ∧ (∀ k, k ≠ w → v.ctx k = u.ctx k) ∧ ∃ y, v.ctx w =
      { u.ctx w with hold := { (u.ctx w).hold with yields := y } } ∧ (w.isHandler = false → y.getLsbD pipe = false)) ∧
    (core < 0x7FF → (t.core core).code = [] → t.pl w = 2 → 0x1C0 * 2 ^ 48 ≤ pc → pc < 0x1E0 * 2 ^ 48 → isGeneral off = true →
      t.bankBusy core off = false → (t.core core).requests = [] → (t.core core).vaultRequests = [] →
      (t.core core).marks.beats = .clean → (t.core core).resolved = [] → (t.bank core (bankOf off)).waiting = [] → t.poisoned (coreKey core off) = false →
      ∃ v, t.fetchBlock w false = .bytes (t.memory.read (coreKey core off) 32) v ∧ v.memory = t.memory)

/-- R27, R60, R62, R63, R145, R190, R299, R302, R336, R339: the machine after a cold reset whose bring-up is over
without a ROUTE: every control context FREE, queues, memory and mailboxes empty, vault units poisoned. The values that
the spec does not give are the model's (notes/assumptions/1.md, 2.md), the zero bytes of memory and the clean and
empty words of the scratchpads among them (notes/assumptions/10.md). -/
def Obligations.ResetState : Prop :=
  State.reset.Canonical ∧ State.reset.mod.powered = true ∧ State.reset.mod.step = 7 ∧ State.reset.mod.devId = 0 ∧
  State.reset.mod.domain = 1 ∧ State.reset.mod.trained = true ∧ State.reset.mod.routed = false ∧ State.reset.mod.gateways = 2 ∧ State.reset.dx.jobs = [] ∧
  State.reset.dx.tbound = [5000000, 20000000, 80000000, 250000000] ∧ State.reset.dx.maxslice = 10000000 ∧
  State.reset.fabric = [] ∧
  (∀ w : Who, (State.reset.ctx w).live = false ∧ (State.reset.ctx w).status = {} ∧ (State.reset.ctx w).regs.g.get 0 1 = 0) ∧
  (∀ core q, (State.reset.queue core q).entries = []) ∧
  (∀ core n, ((State.reset.mail core).box n).state = .absent) ∧
  (∀ rid, (State.reset.group rid).live = false) ∧
  (∀ key, State.reset.memory.byte key = 0) ∧
  (∀ key, isSp key = true → State.reset.memory.marked key = false ∧ State.reset.memory.isFull key = false) ∧
  (∀ core off, core < 0x7FF → off < 0x0B140000 → State.reset.memory.marked (coreKey core off) = true)

/-- R16, R143 to R145: memory keeps its one canonical form through every step of the machine: keys rise strictly, and
no byte, mark or full bit is listed that an unlisted address reads as. -/
def Obligations.EveryStepKeepsMemoryCanonical : Prop :=
  ∀ s t : State, s.Canonical → step s = .next t → t.Canonical
end

