-- ==== Sys2Proof/Laws/Store.lean ====
section
/-! SUPPORT. What reading a finite map or set gives after a write, and that its canonical form is kept. -/

namespace Sys2Proof.Machine

/-! ## Reading after writing -/

theorem Store.get_set {α : Type} (d : α) (m : Store α) (n k : Nat) (x : α) :
    Store.get d (Store.set m n x) k = if k = n then x else Store.get d m k := by
  induction m with
  | nil => simp only [Store.set, Store.get, eq_comm]
  | cons p m ih =>
    obtain ⟨a, v⟩ := p
    by_cases h1 : n < a
    · simp only [Store.set, h1, if_true, Store.get, eq_comm]
    · by_cases h2 : n = a
      · subst h2
        by_cases h3 : k = n
        · simp [Store.set, Store.get, h3]
        · simp [Store.set, Store.get, h3, Ne.symm h3]
      · simp only [Store.set, h1, h2, if_false, Store.get, ih]
        by_cases h3 : k = n
        · subst h3; simp [Ne.symm h2]
        · simp [h3]

@[simp] theorem Store.get_set_same {α : Type} (d : α) (m : Store α) (n : Nat) (x : α) :
    Store.get d (Store.set m n x) n = x := by simp [Store.get_set]

theorem Store.get_set_other {α : Type} (d : α) (m : Store α) {n k : Nat} (x : α) (h : k ≠ n) :
    Store.get d (Store.set m n x) k = Store.get d m k := by simp [Store.get_set, h]

@[simp] theorem Store.set_set {α : Type} (m : Store α) (n : Nat) (x y : α) :
    Store.set (Store.set m n x) n y = Store.set m n y := by
  induction m with
  | nil => simp [Store.set]
  | cons p m ih =>
    obtain ⟨a, v⟩ := p
    by_cases h1 : n < a
    · simp [Store.set, h1]
    · by_cases h2 : n = a
      · subst h2; simp [Store.set]
      · simp [Store.set, h1, h2, ih]

theorem Store.get_erase_other {α : Type} (d : α) (m : Store α) {n k : Nat} (h : k ≠ n) :
    Store.get d (Store.erase m n) k = Store.get d m k := by
  induction m with
  | nil => rfl
  | cons p m ih =>
    obtain ⟨a, v⟩ := p
    simp only [Store.erase]
    split_ifs with h1
    · simp only [Store.get]; split_ifs <;> first | omega | rfl
    · simp only [Store.get, ih]

theorem Store.get_map {α β : Type} (f : α → β) (d : α) (m : Store α) (k : Nat) :
    Store.get (f d) (m.map (fun p => (p.1, f p.2))) k = f (Store.get d m k) := by
  induction m with
  | nil => rfl
  | cons p m ih => simp only [List.map, Store.get, ih]; split_ifs <;> rfl

/-! ## The canonical form -/

theorem Store.rising_tail {α : Type} {p : Nat × α} {m : Store α} (h : Store.rising (p :: m) = true) :
    Store.rising m = true := by
  cases m with
  | nil => rfl
  | cons q m => simp only [Store.rising, Bool.and_eq_true] at h; exact h.2

/-- In a rising map every later key is above the first. -/
theorem Store.rising_lt {α : Type} {a : Nat} {v : α} {m : Store α} (h : Store.rising ((a, v) :: m) = true) :
    ∀ p ∈ m, a < p.1 := by
  induction m generalizing a v with
  | nil => simp
  | cons q m ih =>
    obtain ⟨b, u⟩ := q
    simp only [Store.rising, Bool.and_eq_true, decide_eq_true_eq] at h
    intro p hp
    rcases List.mem_cons.mp hp with rfl | hp
    · exact h.1
    · exact lt_trans h.1 (ih h.2 p hp)

theorem Store.rising_cons {α : Type} {a : Nat} {v : α} {m : Store α} (h : ∀ p ∈ m, a < p.1) (hm : Store.rising m = true) :
    Store.rising ((a, v) :: m) = true := by
  cases m with
  | nil => rfl
  | cons q m => simp only [Store.rising, Bool.and_eq_true, decide_eq_true_eq]; exact ⟨h q (by simp), hm⟩

theorem Store.mem_set {α : Type} (m : Store α) (n : Nat) (x : α) :
    ∀ p ∈ Store.set m n x, p = (n, x) ∨ p ∈ m := by
  induction m with
  | nil => simp [Store.set]
  | cons q m ih =>
    obtain ⟨a, v⟩ := q
    intro p hp
    simp only [Store.set] at hp
    split_ifs at hp
    · simpa using hp
    · rcases List.mem_cons.mp hp with h | h
      · exact .inl h
      · exact .inr (List.mem_cons_of_mem _ h)
    · rcases List.mem_cons.mp hp with h | h
      · exact .inr (h ▸ List.mem_cons_self)
      · exact (ih p h).imp id (List.mem_cons_of_mem _)

theorem Store.rising_set {α : Type} (m : Store α) (n : Nat) (x : α) (h : Store.rising m = true) :
    Store.rising (Store.set m n x) = true := by
  induction m with
  | nil => rfl
  | cons q m ih =>
    obtain ⟨a, v⟩ := q
    simp only [Store.set]
    split_ifs with h1 h2
    · simp only [Store.rising, Bool.and_eq_true, decide_eq_true_eq]; exact ⟨h1, h⟩
    · subst h2; exact Store.rising_cons (Store.rising_lt h) (Store.rising_tail h)
    · refine Store.rising_cons (fun p hp => ?_) (ih (Store.rising_tail h))
      rcases Store.mem_set m n x p hp with rfl | hp
      · exact by simp only; omega
      · exact Store.rising_lt h p hp

theorem Store.mem_erase {α : Type} (m : Store α) (n : Nat) : ∀ p ∈ Store.erase m n, p ∈ m := by
  induction m with
  | nil => simp [Store.erase]
  | cons q m ih =>
    obtain ⟨a, v⟩ := q
    intro p hp
    simp only [Store.erase] at hp
    split_ifs at hp
    · exact List.mem_cons_of_mem _ hp
    · rcases List.mem_cons.mp hp with h | h
      · exact h ▸ List.mem_cons_self
      · exact List.mem_cons_of_mem _ (ih p h)

theorem Store.rising_erase {α : Type} (m : Store α) (n : Nat) (h : Store.rising m = true) :
    Store.rising (Store.erase m n) = true := by
  induction m with
  | nil => rfl
  | cons q m ih =>
    obtain ⟨a, v⟩ := q
    simp only [Store.erase]
    split_ifs
    · exact Store.rising_tail h
    · exact Store.rising_cons (fun p hp => Store.rising_lt h p (Store.mem_erase m n p hp)) (ih (Store.rising_tail h))

theorem Store.rising_put {α : Type} [DecidableEq α] (d : α) (m : Store α) (n : Nat) (x : α) (h : Store.rising m = true) :
    Store.rising (Store.put d m n x) = true := by
  unfold Store.put
  split_ifs
  · exact Store.rising_erase m n h
  · exact Store.rising_set m n x h

theorem Store.proper_put {α : Type} [DecidableEq α] (d : α) (m : Store α) (n : Nat) (x : α)
    (h : Store.proper d m = true) : Store.proper d (Store.put d m n x) = true := by
  unfold Store.proper at h ⊢
  rw [List.all_eq_true] at h ⊢
  unfold Store.put
  split_ifs with hx
  · exact fun p hp => h p (Store.mem_erase m n p hp)
  · intro p hp
    rcases Store.mem_set m n x p hp with rfl | hp
    · simpa using hx
    · exact h p hp

theorem Store.rising_filter {α : Type} (m : Store α) (f : Nat × α → Bool) (h : Store.rising m = true) :
    Store.rising (m.filter f) = true := by
  induction m with
  | nil => rfl
  | cons q m ih =>
    obtain ⟨a, v⟩ := q
    rw [List.filter_cons]
    split
    · exact Store.rising_cons (fun p hp => Store.rising_lt h p (List.mem_of_mem_filter hp)) (ih (Store.rising_tail h))
    · exact ih (Store.rising_tail h)

theorem Store.proper_filter {α : Type} [DecidableEq α] (d : α) (m : Store α) (f : Nat × α → Bool)
    (h : Store.proper d m = true) : Store.proper d (m.filter f) = true := by
  unfold Store.proper at h ⊢
  rw [List.all_eq_true] at h ⊢
  exact fun p hp => h p (List.mem_of_mem_filter hp)

/-- A rising map reads its default at a key below all of its own. -/
theorem Store.get_below {α : Type} (d : α) (m : Store α) (n : Nat) (h : ∀ p ∈ m, n < p.1) : Store.get d m n = d := by
  induction m with
  | nil => rfl
  | cons q m ih =>
    obtain ⟨a, v⟩ := q
    have := h (a, v) (by simp)
    simp only [Store.get]
    split_ifs
    · simp only at this; omega
    · exact ih (fun p hp => h p (List.mem_cons_of_mem _ hp))

/-- In a rising map a written value reads back, the default too. -/
theorem Store.get_put {α : Type} [DecidableEq α] (d : α) (m : Store α) (n k : Nat) (x : α) (h : Store.rising m = true) :
    Store.get d (Store.put d m n x) k = if k = n then x else Store.get d m k := by
  unfold Store.put
  split_ifs with hx hk
  · subst hx hk
    induction m with
    | nil => rfl
    | cons q m ih =>
      obtain ⟨a, v⟩ := q
      simp only [Store.erase]
      split_ifs with h1
      · subst h1; exact Store.get_below _ _ _ (Store.rising_lt h)
      · simp only [Store.get, h1, if_false]; exact ih (Store.rising_tail h)
  · exact Store.get_erase_other d m hk
  all_goals simp_all [Store.get_set]

/-! ## Sets of numbers -/

theorem mem_insertNat (l : List Nat) (n k : Nat) : k ∈ insertNat l n ↔ k = n ∨ k ∈ l := by
  induction l with
  | nil => simp [insertNat]
  | cons a l ih =>
    simp only [insertNat]
    split_ifs with h1 h2
    · simp
    · subst h2; simp
    · simp only [List.mem_cons, ih]; tauto

theorem mem_of_mem_eraseNat (l : List Nat) (n k : Nat) (h : k ∈ eraseNat l n) : k ∈ l := by
  induction l with
  | nil => simp [eraseNat] at h
  | cons a l ih =>
    simp only [eraseNat] at h
    split_ifs at h
    · exact List.mem_cons_of_mem _ h
    · rcases List.mem_cons.mp h with h | h
      · exact h ▸ List.mem_cons_self
      · exact List.mem_cons_of_mem _ (ih h)

theorem mem_eraseNat_other (l : List Nat) {n k : Nat} (hk : k ≠ n) : k ∈ eraseNat l n ↔ k ∈ l := by
  refine ⟨mem_of_mem_eraseNat l n k, fun h => ?_⟩
  induction l with
  | nil => simp at h
  | cons a l ih =>
    simp only [eraseNat]
    split_ifs with h1
    · rcases List.mem_cons.mp h with h | h
      · omega
      · exact h
    · rcases List.mem_cons.mp h with h | h
      · exact h ▸ List.mem_cons_self
      · exact List.mem_cons_of_mem _ (ih h)

end Sys2Proof.Machine
end

