-- ==== Sys2Proof/Laws/State.lean ====
section
/-! SUPPORT. What each update of the state changes and what it leaves alone, so that no proof unfolds a record update. -/

namespace Sys2Proof.Machine

/-! ## Fields that an update leaves alone -/

@[simp] theorem State.setCore_memory (s : State) (k : Nat) (c : Core) : (s.setCore k c).memory = s.memory := rfl
@[simp] theorem State.setCore_clusters (s : State) (k : Nat) (c : Core) : (s.setCore k c).clusters = s.clusters := rfl
@[simp] theorem State.setCore_units (s : State) (k : Nat) (c : Core) : (s.setCore k c).units = s.units := rfl
@[simp] theorem State.setCore_fabric (s : State) (k : Nat) (c : Core) : (s.setCore k c).fabric = s.fabric := rfl
@[simp] theorem State.setCore_dx (s : State) (k : Nat) (c : Core) : (s.setCore k c).dx = s.dx := rfl
@[simp] theorem State.setCore_mod (s : State) (k : Nat) (c : Core) : (s.setCore k c).mod = s.mod := rfl
@[simp] theorem State.setCore_ts (s : State) (k : Nat) (c : Core) : (s.setCore k c).ts = s.ts := rfl
@[simp] theorem State.setCore_clock (s : State) (k : Nat) (c : Core) : (s.setCore k c).clock = s.clock := rfl
@[simp] theorem State.setCore_agenda (s : State) (k : Nat) (c : Core) : (s.setCore k c).agenda = s.agenda := rfl
@[simp] theorem State.setCore_focus (s : State) (k : Nat) (c : Core) : (s.setCore k c).focus = s.focus := rfl
@[simp] theorem State.setCore_tick (s : State) (k : Nat) (c : Core) : (s.setCore k c).tick = s.tick := rfl

@[simp] theorem State.modCore_memory (s : State) (k : Nat) (f : Core → Core) : (s.modCore k f).memory = s.memory := rfl
@[simp] theorem State.modCore_clusters (s : State) (k : Nat) (f : Core → Core) : (s.modCore k f).clusters = s.clusters := rfl
@[simp] theorem State.modCore_units (s : State) (k : Nat) (f : Core → Core) : (s.modCore k f).units = s.units := rfl
@[simp] theorem State.modCore_fabric (s : State) (k : Nat) (f : Core → Core) : (s.modCore k f).fabric = s.fabric := rfl
@[simp] theorem State.modCore_dx (s : State) (k : Nat) (f : Core → Core) : (s.modCore k f).dx = s.dx := rfl
@[simp] theorem State.modCore_mod (s : State) (k : Nat) (f : Core → Core) : (s.modCore k f).mod = s.mod := rfl
@[simp] theorem State.modCore_ts (s : State) (k : Nat) (f : Core → Core) : (s.modCore k f).ts = s.ts := rfl
@[simp] theorem State.modCore_clock (s : State) (k : Nat) (f : Core → Core) : (s.modCore k f).clock = s.clock := rfl
@[simp] theorem State.modCore_agenda (s : State) (k : Nat) (f : Core → Core) : (s.modCore k f).agenda = s.agenda := rfl
@[simp] theorem State.modCore_focus (s : State) (k : Nat) (f : Core → Core) : (s.modCore k f).focus = s.focus := rfl
@[simp] theorem State.modCore_tick (s : State) (k : Nat) (f : Core → Core) : (s.modCore k f).tick = s.tick := rfl

@[simp] theorem State.modPart_memory (s : State) (k : Nat) (f : Part → Part) : (s.modPart k f).memory = s.memory := rfl
@[simp] theorem State.modPart_clusters (s : State) (k : Nat) (f : Part → Part) : (s.modPart k f).clusters = s.clusters := rfl
@[simp] theorem State.modPart_units (s : State) (k : Nat) (f : Part → Part) : (s.modPart k f).units = s.units := rfl
@[simp] theorem State.modPart_fabric (s : State) (k : Nat) (f : Part → Part) : (s.modPart k f).fabric = s.fabric := rfl
@[simp] theorem State.modPart_dx (s : State) (k : Nat) (f : Part → Part) : (s.modPart k f).dx = s.dx := rfl
@[simp] theorem State.modPart_mod (s : State) (k : Nat) (f : Part → Part) : (s.modPart k f).mod = s.mod := rfl
@[simp] theorem State.modPart_ts (s : State) (k : Nat) (f : Part → Part) : (s.modPart k f).ts = s.ts := rfl
@[simp] theorem State.modPart_clock (s : State) (k : Nat) (f : Part → Part) : (s.modPart k f).clock = s.clock := rfl
@[simp] theorem State.modPart_agenda (s : State) (k : Nat) (f : Part → Part) : (s.modPart k f).agenda = s.agenda := rfl
@[simp] theorem State.modPart_focus (s : State) (k : Nat) (f : Part → Part) : (s.modPart k f).focus = s.focus := rfl
@[simp] theorem State.modPart_tick (s : State) (k : Nat) (f : Part → Part) : (s.modPart k f).tick = s.tick := rfl

@[simp] theorem State.modMarks_memory (s : State) (k : Nat) (f : CoreMarks → CoreMarks) : (s.modMarks k f).memory = s.memory := rfl
@[simp] theorem State.modMarks_clusters (s : State) (k : Nat) (f : CoreMarks → CoreMarks) : (s.modMarks k f).clusters = s.clusters := rfl
@[simp] theorem State.modMarks_units (s : State) (k : Nat) (f : CoreMarks → CoreMarks) : (s.modMarks k f).units = s.units := rfl
@[simp] theorem State.modMarks_fabric (s : State) (k : Nat) (f : CoreMarks → CoreMarks) : (s.modMarks k f).fabric = s.fabric := rfl
@[simp] theorem State.modMarks_dx (s : State) (k : Nat) (f : CoreMarks → CoreMarks) : (s.modMarks k f).dx = s.dx := rfl
@[simp] theorem State.modMarks_mod (s : State) (k : Nat) (f : CoreMarks → CoreMarks) : (s.modMarks k f).mod = s.mod := rfl
@[simp] theorem State.modMarks_ts (s : State) (k : Nat) (f : CoreMarks → CoreMarks) : (s.modMarks k f).ts = s.ts := rfl
@[simp] theorem State.modMarks_clock (s : State) (k : Nat) (f : CoreMarks → CoreMarks) : (s.modMarks k f).clock = s.clock := rfl
@[simp] theorem State.modMarks_agenda (s : State) (k : Nat) (f : CoreMarks → CoreMarks) : (s.modMarks k f).agenda = s.agenda := rfl
@[simp] theorem State.modMarks_focus (s : State) (k : Nat) (f : CoreMarks → CoreMarks) : (s.modMarks k f).focus = s.focus := rfl
@[simp] theorem State.modMarks_tick (s : State) (k : Nat) (f : CoreMarks → CoreMarks) : (s.modMarks k f).tick = s.tick := rfl

@[simp] theorem State.modVault_memory (s : State) (k : Nat) (f : Vault → Vault) : (s.modVault k f).memory = s.memory := rfl
@[simp] theorem State.modVault_clusters (s : State) (k : Nat) (f : Vault → Vault) : (s.modVault k f).clusters = s.clusters := rfl
@[simp] theorem State.modVault_units (s : State) (k : Nat) (f : Vault → Vault) : (s.modVault k f).units = s.units := rfl
@[simp] theorem State.modVault_fabric (s : State) (k : Nat) (f : Vault → Vault) : (s.modVault k f).fabric = s.fabric := rfl
@[simp] theorem State.modVault_dx (s : State) (k : Nat) (f : Vault → Vault) : (s.modVault k f).dx = s.dx := rfl
@[simp] theorem State.modVault_mod (s : State) (k : Nat) (f : Vault → Vault) : (s.modVault k f).mod = s.mod := rfl
@[simp] theorem State.modVault_ts (s : State) (k : Nat) (f : Vault → Vault) : (s.modVault k f).ts = s.ts := rfl
@[simp] theorem State.modVault_clock (s : State) (k : Nat) (f : Vault → Vault) : (s.modVault k f).clock = s.clock := rfl
@[simp] theorem State.modVault_agenda (s : State) (k : Nat) (f : Vault → Vault) : (s.modVault k f).agenda = s.agenda := rfl
@[simp] theorem State.modVault_focus (s : State) (k : Nat) (f : Vault → Vault) : (s.modVault k f).focus = s.focus := rfl
@[simp] theorem State.modVault_tick (s : State) (k : Nat) (f : Vault → Vault) : (s.modVault k f).tick = s.tick := rfl

@[simp] theorem State.modRegs_memory (s : State) (k : Nat) (f : PartRegs → PartRegs) : (s.modRegs k f).memory = s.memory := rfl
@[simp] theorem State.modRegs_clusters (s : State) (k : Nat) (f : PartRegs → PartRegs) : (s.modRegs k f).clusters = s.clusters := rfl
@[simp] theorem State.modRegs_units (s : State) (k : Nat) (f : PartRegs → PartRegs) : (s.modRegs k f).units = s.units := rfl
@[simp] theorem State.modRegs_fabric (s : State) (k : Nat) (f : PartRegs → PartRegs) : (s.modRegs k f).fabric = s.fabric := rfl
@[simp] theorem State.modRegs_dx (s : State) (k : Nat) (f : PartRegs → PartRegs) : (s.modRegs k f).dx = s.dx := rfl
@[simp] theorem State.modRegs_mod (s : State) (k : Nat) (f : PartRegs → PartRegs) : (s.modRegs k f).mod = s.mod := rfl
@[simp] theorem State.modRegs_ts (s : State) (k : Nat) (f : PartRegs → PartRegs) : (s.modRegs k f).ts = s.ts := rfl
@[simp] theorem State.modRegs_clock (s : State) (k : Nat) (f : PartRegs → PartRegs) : (s.modRegs k f).clock = s.clock := rfl
@[simp] theorem State.modRegs_agenda (s : State) (k : Nat) (f : PartRegs → PartRegs) : (s.modRegs k f).agenda = s.agenda := rfl
@[simp] theorem State.modRegs_focus (s : State) (k : Nat) (f : PartRegs → PartRegs) : (s.modRegs k f).focus = s.focus := rfl
@[simp] theorem State.modRegs_tick (s : State) (k : Nat) (f : PartRegs → PartRegs) : (s.modRegs k f).tick = s.tick := rfl

@[simp] theorem State.setCtx_memory (s : State) (w : Who) (x : Ctx) : (s.setCtx w x).memory = s.memory := rfl
@[simp] theorem State.setCtx_clusters (s : State) (w : Who) (x : Ctx) : (s.setCtx w x).clusters = s.clusters := rfl
@[simp] theorem State.setCtx_units (s : State) (w : Who) (x : Ctx) : (s.setCtx w x).units = s.units := rfl
@[simp] theorem State.setCtx_fabric (s : State) (w : Who) (x : Ctx) : (s.setCtx w x).fabric = s.fabric := rfl
@[simp] theorem State.setCtx_dx (s : State) (w : Who) (x : Ctx) : (s.setCtx w x).dx = s.dx := rfl
@[simp] theorem State.setCtx_mod (s : State) (w : Who) (x : Ctx) : (s.setCtx w x).mod = s.mod := rfl
@[simp] theorem State.setCtx_ts (s : State) (w : Who) (x : Ctx) : (s.setCtx w x).ts = s.ts := rfl
@[simp] theorem State.setCtx_clock (s : State) (w : Who) (x : Ctx) : (s.setCtx w x).clock = s.clock := rfl
@[simp] theorem State.setCtx_agenda (s : State) (w : Who) (x : Ctx) : (s.setCtx w x).agenda = s.agenda := rfl
@[simp] theorem State.setCtx_focus (s : State) (w : Who) (x : Ctx) : (s.setCtx w x).focus = s.focus := rfl
@[simp] theorem State.setCtx_tick (s : State) (w : Who) (x : Ctx) : (s.setCtx w x).tick = s.tick := rfl

@[simp] theorem State.modCtx_memory (s : State) (w : Who) (f : Ctx → Ctx) : (s.modCtx w f).memory = s.memory := rfl
@[simp] theorem State.modCtx_clusters (s : State) (w : Who) (f : Ctx → Ctx) : (s.modCtx w f).clusters = s.clusters := rfl
@[simp] theorem State.modCtx_units (s : State) (w : Who) (f : Ctx → Ctx) : (s.modCtx w f).units = s.units := rfl
@[simp] theorem State.modCtx_fabric (s : State) (w : Who) (f : Ctx → Ctx) : (s.modCtx w f).fabric = s.fabric := rfl
@[simp] theorem State.modCtx_dx (s : State) (w : Who) (f : Ctx → Ctx) : (s.modCtx w f).dx = s.dx := rfl
@[simp] theorem State.modCtx_mod (s : State) (w : Who) (f : Ctx → Ctx) : (s.modCtx w f).mod = s.mod := rfl
@[simp] theorem State.modCtx_ts (s : State) (w : Who) (f : Ctx → Ctx) : (s.modCtx w f).ts = s.ts := rfl
@[simp] theorem State.modCtx_clock (s : State) (w : Who) (f : Ctx → Ctx) : (s.modCtx w f).clock = s.clock := rfl
@[simp] theorem State.modCtx_agenda (s : State) (w : Who) (f : Ctx → Ctx) : (s.modCtx w f).agenda = s.agenda := rfl
@[simp] theorem State.modCtx_focus (s : State) (w : Who) (f : Ctx → Ctx) : (s.modCtx w f).focus = s.focus := rfl
@[simp] theorem State.modCtx_tick (s : State) (w : Who) (f : Ctx → Ctx) : (s.modCtx w f).tick = s.tick := rfl

@[simp] theorem State.modHold_memory (s : State) (w : Who) (f : Hold → Hold) : (s.modHold w f).memory = s.memory := rfl
@[simp] theorem State.modHold_clusters (s : State) (w : Who) (f : Hold → Hold) : (s.modHold w f).clusters = s.clusters := rfl
@[simp] theorem State.modHold_units (s : State) (w : Who) (f : Hold → Hold) : (s.modHold w f).units = s.units := rfl
@[simp] theorem State.modHold_fabric (s : State) (w : Who) (f : Hold → Hold) : (s.modHold w f).fabric = s.fabric := rfl
@[simp] theorem State.modHold_dx (s : State) (w : Who) (f : Hold → Hold) : (s.modHold w f).dx = s.dx := rfl
@[simp] theorem State.modHold_mod (s : State) (w : Who) (f : Hold → Hold) : (s.modHold w f).mod = s.mod := rfl
@[simp] theorem State.modHold_ts (s : State) (w : Who) (f : Hold → Hold) : (s.modHold w f).ts = s.ts := rfl
@[simp] theorem State.modHold_clock (s : State) (w : Who) (f : Hold → Hold) : (s.modHold w f).clock = s.clock := rfl
@[simp] theorem State.modHold_agenda (s : State) (w : Who) (f : Hold → Hold) : (s.modHold w f).agenda = s.agenda := rfl
@[simp] theorem State.modHold_focus (s : State) (w : Who) (f : Hold → Hold) : (s.modHold w f).focus = s.focus := rfl
@[simp] theorem State.modHold_tick (s : State) (w : Who) (f : Hold → Hold) : (s.modHold w f).tick = s.tick := rfl

@[simp] theorem State.modStatus_memory (s : State) (w : Who) (f : Status → Status) : (s.modStatus w f).memory = s.memory := rfl
@[simp] theorem State.modStatus_clusters (s : State) (w : Who) (f : Status → Status) : (s.modStatus w f).clusters = s.clusters := rfl
@[simp] theorem State.modStatus_units (s : State) (w : Who) (f : Status → Status) : (s.modStatus w f).units = s.units := rfl
@[simp] theorem State.modStatus_fabric (s : State) (w : Who) (f : Status → Status) : (s.modStatus w f).fabric = s.fabric := rfl
@[simp] theorem State.modStatus_dx (s : State) (w : Who) (f : Status → Status) : (s.modStatus w f).dx = s.dx := rfl
@[simp] theorem State.modStatus_mod (s : State) (w : Who) (f : Status → Status) : (s.modStatus w f).mod = s.mod := rfl
@[simp] theorem State.modStatus_ts (s : State) (w : Who) (f : Status → Status) : (s.modStatus w f).ts = s.ts := rfl
@[simp] theorem State.modStatus_clock (s : State) (w : Who) (f : Status → Status) : (s.modStatus w f).clock = s.clock := rfl
@[simp] theorem State.modStatus_agenda (s : State) (w : Who) (f : Status → Status) : (s.modStatus w f).agenda = s.agenda := rfl
@[simp] theorem State.modStatus_focus (s : State) (w : Who) (f : Status → Status) : (s.modStatus w f).focus = s.focus := rfl
@[simp] theorem State.modStatus_tick (s : State) (w : Who) (f : Status → Status) : (s.modStatus w f).tick = s.tick := rfl

@[simp] theorem State.modTrap_memory (s : State) (w : Who) (f : TrapRegs → TrapRegs) : (s.modTrap w f).memory = s.memory := rfl
@[simp] theorem State.modTrap_clusters (s : State) (w : Who) (f : TrapRegs → TrapRegs) : (s.modTrap w f).clusters = s.clusters := rfl
@[simp] theorem State.modTrap_units (s : State) (w : Who) (f : TrapRegs → TrapRegs) : (s.modTrap w f).units = s.units := rfl
@[simp] theorem State.modTrap_fabric (s : State) (w : Who) (f : TrapRegs → TrapRegs) : (s.modTrap w f).fabric = s.fabric := rfl
@[simp] theorem State.modTrap_dx (s : State) (w : Who) (f : TrapRegs → TrapRegs) : (s.modTrap w f).dx = s.dx := rfl
@[simp] theorem State.modTrap_mod (s : State) (w : Who) (f : TrapRegs → TrapRegs) : (s.modTrap w f).mod = s.mod := rfl
@[simp] theorem State.modTrap_ts (s : State) (w : Who) (f : TrapRegs → TrapRegs) : (s.modTrap w f).ts = s.ts := rfl
@[simp] theorem State.modTrap_clock (s : State) (w : Who) (f : TrapRegs → TrapRegs) : (s.modTrap w f).clock = s.clock := rfl
@[simp] theorem State.modTrap_agenda (s : State) (w : Who) (f : TrapRegs → TrapRegs) : (s.modTrap w f).agenda = s.agenda := rfl
@[simp] theorem State.modTrap_focus (s : State) (w : Who) (f : TrapRegs → TrapRegs) : (s.modTrap w f).focus = s.focus := rfl
@[simp] theorem State.modTrap_tick (s : State) (w : Who) (f : TrapRegs → TrapRegs) : (s.modTrap w f).tick = s.tick := rfl

@[simp] theorem State.modRegFile_memory (s : State) (w : Who) (f : RegFile → RegFile) : (s.modRegFile w f).memory = s.memory := rfl
@[simp] theorem State.modRegFile_clusters (s : State) (w : Who) (f : RegFile → RegFile) : (s.modRegFile w f).clusters = s.clusters := rfl
@[simp] theorem State.modRegFile_units (s : State) (w : Who) (f : RegFile → RegFile) : (s.modRegFile w f).units = s.units := rfl
@[simp] theorem State.modRegFile_fabric (s : State) (w : Who) (f : RegFile → RegFile) : (s.modRegFile w f).fabric = s.fabric := rfl
@[simp] theorem State.modRegFile_dx (s : State) (w : Who) (f : RegFile → RegFile) : (s.modRegFile w f).dx = s.dx := rfl
@[simp] theorem State.modRegFile_mod (s : State) (w : Who) (f : RegFile → RegFile) : (s.modRegFile w f).mod = s.mod := rfl
@[simp] theorem State.modRegFile_ts (s : State) (w : Who) (f : RegFile → RegFile) : (s.modRegFile w f).ts = s.ts := rfl
@[simp] theorem State.modRegFile_clock (s : State) (w : Who) (f : RegFile → RegFile) : (s.modRegFile w f).clock = s.clock := rfl
@[simp] theorem State.modRegFile_agenda (s : State) (w : Who) (f : RegFile → RegFile) : (s.modRegFile w f).agenda = s.agenda := rfl
@[simp] theorem State.modRegFile_focus (s : State) (w : Who) (f : RegFile → RegFile) : (s.modRegFile w f).focus = s.focus := rfl
@[simp] theorem State.modRegFile_tick (s : State) (w : Who) (f : RegFile → RegFile) : (s.modRegFile w f).tick = s.tick := rfl

@[simp] theorem State.modPending_memory (s : State) (w : Who) (f : Pending → Pending) : (s.modPending w f).memory = s.memory := rfl
@[simp] theorem State.modPending_clusters (s : State) (w : Who) (f : Pending → Pending) : (s.modPending w f).clusters = s.clusters := rfl
@[simp] theorem State.modPending_units (s : State) (w : Who) (f : Pending → Pending) : (s.modPending w f).units = s.units := rfl
@[simp] theorem State.modPending_fabric (s : State) (w : Who) (f : Pending → Pending) : (s.modPending w f).fabric = s.fabric := rfl
@[simp] theorem State.modPending_dx (s : State) (w : Who) (f : Pending → Pending) : (s.modPending w f).dx = s.dx := rfl
@[simp] theorem State.modPending_mod (s : State) (w : Who) (f : Pending → Pending) : (s.modPending w f).mod = s.mod := rfl
@[simp] theorem State.modPending_ts (s : State) (w : Who) (f : Pending → Pending) : (s.modPending w f).ts = s.ts := rfl
@[simp] theorem State.modPending_clock (s : State) (w : Who) (f : Pending → Pending) : (s.modPending w f).clock = s.clock := rfl
@[simp] theorem State.modPending_agenda (s : State) (w : Who) (f : Pending → Pending) : (s.modPending w f).agenda = s.agenda := rfl
@[simp] theorem State.modPending_focus (s : State) (w : Who) (f : Pending → Pending) : (s.modPending w f).focus = s.focus := rfl
@[simp] theorem State.modPending_tick (s : State) (w : Who) (f : Pending → Pending) : (s.modPending w f).tick = s.tick := rfl

@[simp] theorem State.setPc_memory (s : State) (w : Who) (a : Word) : (s.setPc w a).memory = s.memory := rfl
@[simp] theorem State.setPc_clusters (s : State) (w : Who) (a : Word) : (s.setPc w a).clusters = s.clusters := rfl
@[simp] theorem State.setPc_units (s : State) (w : Who) (a : Word) : (s.setPc w a).units = s.units := rfl
@[simp] theorem State.setPc_fabric (s : State) (w : Who) (a : Word) : (s.setPc w a).fabric = s.fabric := rfl
@[simp] theorem State.setPc_dx (s : State) (w : Who) (a : Word) : (s.setPc w a).dx = s.dx := rfl
@[simp] theorem State.setPc_mod (s : State) (w : Who) (a : Word) : (s.setPc w a).mod = s.mod := rfl
@[simp] theorem State.setPc_ts (s : State) (w : Who) (a : Word) : (s.setPc w a).ts = s.ts := rfl
@[simp] theorem State.setPc_clock (s : State) (w : Who) (a : Word) : (s.setPc w a).clock = s.clock := rfl
@[simp] theorem State.setPc_agenda (s : State) (w : Who) (a : Word) : (s.setPc w a).agenda = s.agenda := rfl
@[simp] theorem State.setPc_focus (s : State) (w : Who) (a : Word) : (s.setPc w a).focus = s.focus := rfl
@[simp] theorem State.setPc_tick (s : State) (w : Who) (a : Word) : (s.setPc w a).tick = s.tick := rfl

@[simp] theorem State.modQueue_memory (s : State) (core q : Nat) (f : Queue → Queue) : (s.modQueue core q f).memory = s.memory := rfl
@[simp] theorem State.modQueue_clusters (s : State) (core q : Nat) (f : Queue → Queue) : (s.modQueue core q f).clusters = s.clusters := rfl
@[simp] theorem State.modQueue_units (s : State) (core q : Nat) (f : Queue → Queue) : (s.modQueue core q f).units = s.units := rfl
@[simp] theorem State.modQueue_fabric (s : State) (core q : Nat) (f : Queue → Queue) : (s.modQueue core q f).fabric = s.fabric := rfl
@[simp] theorem State.modQueue_dx (s : State) (core q : Nat) (f : Queue → Queue) : (s.modQueue core q f).dx = s.dx := rfl
@[simp] theorem State.modQueue_mod (s : State) (core q : Nat) (f : Queue → Queue) : (s.modQueue core q f).mod = s.mod := rfl
@[simp] theorem State.modQueue_ts (s : State) (core q : Nat) (f : Queue → Queue) : (s.modQueue core q f).ts = s.ts := rfl
@[simp] theorem State.modQueue_clock (s : State) (core q : Nat) (f : Queue → Queue) : (s.modQueue core q f).clock = s.clock := rfl
@[simp] theorem State.modQueue_agenda (s : State) (core q : Nat) (f : Queue → Queue) : (s.modQueue core q f).agenda = s.agenda := rfl
@[simp] theorem State.modQueue_focus (s : State) (core q : Nat) (f : Queue → Queue) : (s.modQueue core q f).focus = s.focus := rfl
@[simp] theorem State.modQueue_tick (s : State) (core q : Nat) (f : Queue → Queue) : (s.modQueue core q f).tick = s.tick := rfl

@[simp] theorem State.result_memory (s : State) (w : Who) (d : Nat) (x : RegWrite) (fl : BitVec 5) : (s.result w d x fl).memory = s.memory := rfl
@[simp] theorem State.result_clusters (s : State) (w : Who) (d : Nat) (x : RegWrite) (fl : BitVec 5) : (s.result w d x fl).clusters = s.clusters := rfl
@[simp] theorem State.result_units (s : State) (w : Who) (d : Nat) (x : RegWrite) (fl : BitVec 5) : (s.result w d x fl).units = s.units := rfl
@[simp] theorem State.result_fabric (s : State) (w : Who) (d : Nat) (x : RegWrite) (fl : BitVec 5) : (s.result w d x fl).fabric = s.fabric := rfl
@[simp] theorem State.result_dx (s : State) (w : Who) (d : Nat) (x : RegWrite) (fl : BitVec 5) : (s.result w d x fl).dx = s.dx := rfl
@[simp] theorem State.result_mod (s : State) (w : Who) (d : Nat) (x : RegWrite) (fl : BitVec 5) : (s.result w d x fl).mod = s.mod := rfl
@[simp] theorem State.result_ts (s : State) (w : Who) (d : Nat) (x : RegWrite) (fl : BitVec 5) : (s.result w d x fl).ts = s.ts := rfl
@[simp] theorem State.result_clock (s : State) (w : Who) (d : Nat) (x : RegWrite) (fl : BitVec 5) : (s.result w d x fl).clock = s.clock := rfl
@[simp] theorem State.result_agenda (s : State) (w : Who) (d : Nat) (x : RegWrite) (fl : BitVec 5) : (s.result w d x fl).agenda = s.agenda := rfl
@[simp] theorem State.result_focus (s : State) (w : Who) (d : Nat) (x : RegWrite) (fl : BitVec 5) : (s.result w d x fl).focus = s.focus := rfl
@[simp] theorem State.result_tick (s : State) (w : Who) (d : Nat) (x : RegWrite) (fl : BitVec 5) : (s.result w d x fl).tick = s.tick := rfl

@[simp] theorem State.setG_memory (s : State) (w : Who) (n : Nat) (x : Word) : (s.setG w n x).memory = s.memory := rfl
@[simp] theorem State.setG_clusters (s : State) (w : Who) (n : Nat) (x : Word) : (s.setG w n x).clusters = s.clusters := rfl
@[simp] theorem State.setG_units (s : State) (w : Who) (n : Nat) (x : Word) : (s.setG w n x).units = s.units := rfl
@[simp] theorem State.setG_fabric (s : State) (w : Who) (n : Nat) (x : Word) : (s.setG w n x).fabric = s.fabric := rfl
@[simp] theorem State.setG_dx (s : State) (w : Who) (n : Nat) (x : Word) : (s.setG w n x).dx = s.dx := rfl
@[simp] theorem State.setG_mod (s : State) (w : Who) (n : Nat) (x : Word) : (s.setG w n x).mod = s.mod := rfl
@[simp] theorem State.setG_ts (s : State) (w : Who) (n : Nat) (x : Word) : (s.setG w n x).ts = s.ts := rfl
@[simp] theorem State.setG_clock (s : State) (w : Who) (n : Nat) (x : Word) : (s.setG w n x).clock = s.clock := rfl
@[simp] theorem State.setG_agenda (s : State) (w : Who) (n : Nat) (x : Word) : (s.setG w n x).agenda = s.agenda := rfl
@[simp] theorem State.setG_focus (s : State) (w : Who) (n : Nat) (x : Word) : (s.setG w n x).focus = s.focus := rfl
@[simp] theorem State.setG_tick (s : State) (w : Who) (n : Nat) (x : Word) : (s.setG w n x).tick = s.tick := rfl

@[simp] theorem State.setH_memory (s : State) (w : Who) (n : Nat) (x : Handle) : (s.setH w n x).memory = s.memory := rfl
@[simp] theorem State.setH_clusters (s : State) (w : Who) (n : Nat) (x : Handle) : (s.setH w n x).clusters = s.clusters := rfl
@[simp] theorem State.setH_units (s : State) (w : Who) (n : Nat) (x : Handle) : (s.setH w n x).units = s.units := rfl
@[simp] theorem State.setH_fabric (s : State) (w : Who) (n : Nat) (x : Handle) : (s.setH w n x).fabric = s.fabric := rfl
@[simp] theorem State.setH_dx (s : State) (w : Who) (n : Nat) (x : Handle) : (s.setH w n x).dx = s.dx := rfl
@[simp] theorem State.setH_mod (s : State) (w : Who) (n : Nat) (x : Handle) : (s.setH w n x).mod = s.mod := rfl
@[simp] theorem State.setH_ts (s : State) (w : Who) (n : Nat) (x : Handle) : (s.setH w n x).ts = s.ts := rfl
@[simp] theorem State.setH_clock (s : State) (w : Who) (n : Nat) (x : Handle) : (s.setH w n x).clock = s.clock := rfl
@[simp] theorem State.setH_agenda (s : State) (w : Who) (n : Nat) (x : Handle) : (s.setH w n x).agenda = s.agenda := rfl
@[simp] theorem State.setH_focus (s : State) (w : Who) (n : Nat) (x : Handle) : (s.setH w n x).focus = s.focus := rfl
@[simp] theorem State.setH_tick (s : State) (w : Who) (n : Nat) (x : Handle) : (s.setH w n x).tick = s.tick := rfl

@[simp] theorem State.advance_memory (s : State) (w : Who) (i : Instr) : (s.advance w i).memory = s.memory := rfl
@[simp] theorem State.advance_clusters (s : State) (w : Who) (i : Instr) : (s.advance w i).clusters = s.clusters := rfl
@[simp] theorem State.advance_units (s : State) (w : Who) (i : Instr) : (s.advance w i).units = s.units := rfl
@[simp] theorem State.advance_fabric (s : State) (w : Who) (i : Instr) : (s.advance w i).fabric = s.fabric := rfl
@[simp] theorem State.advance_dx (s : State) (w : Who) (i : Instr) : (s.advance w i).dx = s.dx := rfl
@[simp] theorem State.advance_mod (s : State) (w : Who) (i : Instr) : (s.advance w i).mod = s.mod := rfl
@[simp] theorem State.advance_ts (s : State) (w : Who) (i : Instr) : (s.advance w i).ts = s.ts := rfl
@[simp] theorem State.advance_clock (s : State) (w : Who) (i : Instr) : (s.advance w i).clock = s.clock := rfl
@[simp] theorem State.advance_agenda (s : State) (w : Who) (i : Instr) : (s.advance w i).agenda = s.agenda := rfl
@[simp] theorem State.advance_focus (s : State) (w : Who) (i : Instr) : (s.advance w i).focus = s.focus := rfl
@[simp] theorem State.advance_tick (s : State) (w : Who) (i : Instr) : (s.advance w i).tick = s.tick := rfl

@[simp] theorem State.inHand_memory (s : State) (w : Who) (i : Instr) : (s.inHand w i).memory = s.memory := rfl
@[simp] theorem State.inHand_clusters (s : State) (w : Who) (i : Instr) : (s.inHand w i).clusters = s.clusters := rfl
@[simp] theorem State.inHand_units (s : State) (w : Who) (i : Instr) : (s.inHand w i).units = s.units := rfl
@[simp] theorem State.inHand_fabric (s : State) (w : Who) (i : Instr) : (s.inHand w i).fabric = s.fabric := rfl
@[simp] theorem State.inHand_dx (s : State) (w : Who) (i : Instr) : (s.inHand w i).dx = s.dx := rfl
@[simp] theorem State.inHand_mod (s : State) (w : Who) (i : Instr) : (s.inHand w i).mod = s.mod := rfl
@[simp] theorem State.inHand_ts (s : State) (w : Who) (i : Instr) : (s.inHand w i).ts = s.ts := rfl
@[simp] theorem State.inHand_clock (s : State) (w : Who) (i : Instr) : (s.inHand w i).clock = s.clock := rfl
@[simp] theorem State.inHand_agenda (s : State) (w : Who) (i : Instr) : (s.inHand w i).agenda = s.agenda := rfl
@[simp] theorem State.inHand_focus (s : State) (w : Who) (i : Instr) : (s.inHand w i).focus = s.focus := rfl
@[simp] theorem State.inHand_tick (s : State) (w : Who) (i : Instr) : (s.inHand w i).tick = s.tick := rfl

@[simp] theorem State.begun_memory (s : State) (w : Who) : (s.begun w).memory = s.memory := rfl
@[simp] theorem State.begun_clusters (s : State) (w : Who) : (s.begun w).clusters = s.clusters := rfl
@[simp] theorem State.begun_units (s : State) (w : Who) : (s.begun w).units = s.units := rfl
@[simp] theorem State.begun_fabric (s : State) (w : Who) : (s.begun w).fabric = s.fabric := rfl
@[simp] theorem State.begun_dx (s : State) (w : Who) : (s.begun w).dx = s.dx := rfl
@[simp] theorem State.begun_mod (s : State) (w : Who) : (s.begun w).mod = s.mod := rfl
@[simp] theorem State.begun_ts (s : State) (w : Who) : (s.begun w).ts = s.ts := rfl
@[simp] theorem State.begun_clock (s : State) (w : Who) : (s.begun w).clock = s.clock := rfl
@[simp] theorem State.begun_agenda (s : State) (w : Who) : (s.begun w).agenda = s.agenda := rfl
@[simp] theorem State.begun_focus (s : State) (w : Who) : (s.begun w).focus = s.focus := rfl
@[simp] theorem State.begun_tick (s : State) (w : Who) : (s.begun w).tick = s.tick := rfl

@[simp] theorem State.modCluster_cores (s : State) (k : Nat) (f : Cluster → Cluster) : (s.modCluster k f).cores = s.cores := rfl
@[simp] theorem State.modCluster_memory (s : State) (k : Nat) (f : Cluster → Cluster) : (s.modCluster k f).memory = s.memory := rfl
@[simp] theorem State.modCluster_units (s : State) (k : Nat) (f : Cluster → Cluster) : (s.modCluster k f).units = s.units := rfl
@[simp] theorem State.modCluster_fabric (s : State) (k : Nat) (f : Cluster → Cluster) : (s.modCluster k f).fabric = s.fabric := rfl
@[simp] theorem State.modCluster_dx (s : State) (k : Nat) (f : Cluster → Cluster) : (s.modCluster k f).dx = s.dx := rfl
@[simp] theorem State.modCluster_mod (s : State) (k : Nat) (f : Cluster → Cluster) : (s.modCluster k f).mod = s.mod := rfl
@[simp] theorem State.modCluster_ts (s : State) (k : Nat) (f : Cluster → Cluster) : (s.modCluster k f).ts = s.ts := rfl
@[simp] theorem State.modCluster_clock (s : State) (k : Nat) (f : Cluster → Cluster) : (s.modCluster k f).clock = s.clock := rfl
@[simp] theorem State.modCluster_agenda (s : State) (k : Nat) (f : Cluster → Cluster) : (s.modCluster k f).agenda = s.agenda := rfl
@[simp] theorem State.modCluster_focus (s : State) (k : Nat) (f : Cluster → Cluster) : (s.modCluster k f).focus = s.focus := rfl
@[simp] theorem State.modCluster_tick (s : State) (k : Nat) (f : Cluster → Cluster) : (s.modCluster k f).tick = s.tick := rfl

@[simp] theorem State.modUnit_cores (s : State) (k : Nat) (f : GroupUnit → GroupUnit) : (s.modUnit k f).cores = s.cores := rfl
@[simp] theorem State.modUnit_memory (s : State) (k : Nat) (f : GroupUnit → GroupUnit) : (s.modUnit k f).memory = s.memory := rfl
@[simp] theorem State.modUnit_clusters (s : State) (k : Nat) (f : GroupUnit → GroupUnit) : (s.modUnit k f).clusters = s.clusters := rfl
@[simp] theorem State.modUnit_fabric (s : State) (k : Nat) (f : GroupUnit → GroupUnit) : (s.modUnit k f).fabric = s.fabric := rfl
@[simp] theorem State.modUnit_dx (s : State) (k : Nat) (f : GroupUnit → GroupUnit) : (s.modUnit k f).dx = s.dx := rfl
@[simp] theorem State.modUnit_mod (s : State) (k : Nat) (f : GroupUnit → GroupUnit) : (s.modUnit k f).mod = s.mod := rfl
@[simp] theorem State.modUnit_ts (s : State) (k : Nat) (f : GroupUnit → GroupUnit) : (s.modUnit k f).ts = s.ts := rfl
@[simp] theorem State.modUnit_clock (s : State) (k : Nat) (f : GroupUnit → GroupUnit) : (s.modUnit k f).clock = s.clock := rfl
@[simp] theorem State.modUnit_agenda (s : State) (k : Nat) (f : GroupUnit → GroupUnit) : (s.modUnit k f).agenda = s.agenda := rfl
@[simp] theorem State.modUnit_focus (s : State) (k : Nat) (f : GroupUnit → GroupUnit) : (s.modUnit k f).focus = s.focus := rfl
@[simp] theorem State.modUnit_tick (s : State) (k : Nat) (f : GroupUnit → GroupUnit) : (s.modUnit k f).tick = s.tick := rfl

/-! ## Cores -/

theorem State.core_setCore (s : State) (k j : Nat) (c : Core) :
    (s.setCore k c).core j = if j = k then c else s.core j := Store.get_set _ _ _ _ _
@[simp] theorem State.core_setCore_same (s : State) (k : Nat) (c : Core) : (s.setCore k c).core k = c := Store.get_set_same _ _ _ _
theorem State.core_setCore_other (s : State) {k j : Nat} (c : Core) (h : j ≠ k) : (s.setCore k c).core j = s.core j :=
  Store.get_set_other _ _ _ h
@[simp] theorem State.setCore_setCore (s : State) (k : Nat) (c d : Core) : (s.setCore k c).setCore k d = s.setCore k d := by
  simp [State.setCore]
@[simp] theorem State.core_modCore_same (s : State) (k : Nat) (f : Core → Core) : (s.modCore k f).core k = f (s.core k) :=
  State.core_setCore_same _ _ _
theorem State.core_modCore_other (s : State) {k j : Nat} (f : Core → Core) (h : j ≠ k) : (s.modCore k f).core j = s.core j :=
  State.core_setCore_other _ _ h
@[simp] theorem State.modCore_modCore (s : State) (k : Nat) (f g : Core → Core) :
    (s.modCore k f).modCore k g = s.modCore k (fun c => g (f c)) := by simp [State.modCore]
@[simp] theorem State.core_modPart_same (s : State) (k : Nat) (f : Part → Part) :
    (s.modPart k f).core k = { s.core k with part := f (s.core k).part } := State.core_modCore_same _ _ _
theorem State.core_modPart_other (s : State) {k j : Nat} (f : Part → Part) (h : j ≠ k) :
    (s.modPart k f).core j = s.core j := State.core_modCore_other _ _ h

/-! ## Contexts -/

@[simp] theorem Core.ctx_setCtx_same (c : Core) (n : Nat) (x : Ctx) : (c.setCtx n x).ctx n = x := by
  unfold Core.setCtx Core.ctx; split_ifs <;> simp
theorem Core.ctx_setCtx_other (c : Core) {n m : Nat} (x : Ctx) (h : m ≠ n) : (c.setCtx n x).ctx m = c.ctx m := by
  unfold Core.setCtx Core.ctx
  by_cases h1 : n < 11 <;> by_cases h2 : m < 11 <;> simp only [h1, h2, if_true, if_false]
  · exact Store.get_set_other _ _ _ h
  · exact Store.get_set_other _ _ _ (by omega)
@[simp] theorem Core.setCtx_setCtx (c : Core) (n : Nat) (x y : Ctx) : (c.setCtx n x).setCtx n y = c.setCtx n y := by
  unfold Core.setCtx; split_ifs <;> simp
@[simp] theorem State.ctx_setCtx_same (s : State) (w : Who) (x : Ctx) : (s.setCtx w x).ctx w = x := by
  simp [State.ctx, State.setCtx]
theorem State.ctx_setCtx_other (s : State) {w v : Who} (x : Ctx) (h : v ≠ w) : (s.setCtx w x).ctx v = s.ctx v := by
  unfold State.ctx State.setCtx
  by_cases hc : v.core = w.core
  · rw [hc, State.core_modCore_same]
    refine Core.ctx_setCtx_other _ _ (fun hs => h ?_)
    cases v; cases w; simp_all
  · rw [State.core_modCore_other _ _ hc]
@[simp] theorem State.setCtx_setCtx (s : State) (w : Who) (x y : Ctx) : (s.setCtx w x).setCtx w y = s.setCtx w y := by
  simp [State.setCtx]
@[simp] theorem State.ctx_modCtx_same (s : State) (w : Who) (f : Ctx → Ctx) : (s.modCtx w f).ctx w = f (s.ctx w) := by
  simp [State.modCtx]
theorem State.ctx_modCtx_other (s : State) {w v : Who} (f : Ctx → Ctx) (h : v ≠ w) : (s.modCtx w f).ctx v = s.ctx v :=
  State.ctx_setCtx_other _ _ h
@[simp] theorem State.modCtx_modCtx (s : State) (w : Who) (f g : Ctx → Ctx) :
    (s.modCtx w f).modCtx w g = s.modCtx w (fun c => g (f c)) := by simp [State.modCtx]
@[simp] theorem State.ctx_modHold_same (s : State) (w : Who) (f : Hold → Hold) :
    (s.modHold w f).ctx w = { s.ctx w with hold := f (s.ctx w).hold } := State.ctx_modCtx_same _ _ _
@[simp] theorem State.ctx_result_same (s : State) (w : Who) (d : Nat) (x : RegWrite) (fl : BitVec 5) :
    (s.result w d x fl).ctx w = (s.ctx w).result d x fl := State.ctx_modCtx_same _ _ _
@[simp] theorem State.ctx_advance_same (s : State) (w : Who) (i : Instr) :
    (s.advance w i).ctx w = (s.ctx w).loopEnd ((s.ctx w).pc + BitVec.ofNat 64 (sizeOf i)) := State.ctx_modCtx_same _ _ _
@[simp] theorem State.ctx_begun_same (s : State) (w : Who) : (s.begun w).ctx w = (s.ctx w).begun := State.ctx_modCtx_same _ _ _
theorem State.ctx_result_other (s : State) {w v : Who} (d : Nat) (x : RegWrite) (fl : BitVec 5) (h : v ≠ w) :
    (s.result w d x fl).ctx v = s.ctx v := State.ctx_modCtx_other _ _ h
theorem State.ctx_advance_other (s : State) {w v : Who} (i : Instr) (h : v ≠ w) : (s.advance w i).ctx v = s.ctx v :=
  State.ctx_modCtx_other _ _ h

/-- A context's update leaves everything else of its core alone. -/
theorem Core.setCtx_rest (c : Core) (n : Nat) (x : Ctx) :
    (c.setCtx n x).run = c.run ∧ (c.setCtx n x).jobId = c.jobId ∧ (c.setCtx n x).asid = c.asid ∧
    (c.setCtx n x).saved = c.saved ∧ (c.setCtx n x).preemption = c.preemption ∧ (c.setCtx n x).marks = c.marks ∧
    (c.setCtx n x).vault = c.vault ∧ (c.setCtx n x).requests = c.requests ∧
    (c.setCtx n x).vaultRequests = c.vaultRequests ∧ (c.setCtx n x).part.queues = c.part.queues ∧
    (c.setCtx n x).part.regs = c.part.regs ∧ (c.setCtx n x).part.mail = c.part.mail := by
  unfold Core.setCtx; split_ifs <;> simp

/-! ## Queues, clusters and group units -/

@[simp] theorem State.queue_modQueue_same (s : State) (core q : Nat) (f : Queue → Queue) :
    (s.modQueue core q f).queue core q = f (s.queue core q) := by
  simp [State.queue, State.modQueue]
theorem State.queue_modQueue_other (s : State) (core : Nat) {q r : Nat} (f : Queue → Queue) (h : r ≠ q) :
    (s.modQueue core q f).queue core r = s.queue core r := by
  simp [State.queue, State.modQueue, Store.get_set_other _ _ _ h]
@[simp] theorem State.cluster_modCluster_same (s : State) (k : Nat) (f : Cluster → Cluster) :
    (s.modCluster k f).cluster k = f (s.cluster k) := Store.get_set_same _ _ _ _
theorem State.cluster_modCluster_other (s : State) {k j : Nat} (f : Cluster → Cluster) (h : j ≠ k) :
    (s.modCluster k f).cluster j = s.cluster j := Store.get_set_other _ _ _ h
@[simp] theorem State.unit_modUnit_same (s : State) (k : Nat) (f : GroupUnit → GroupUnit) :
    (s.modUnit k f).unit k = f (s.unit k) := Store.get_set_same _ _ _ _
theorem State.unit_modUnit_other (s : State) {k j : Nat} (f : GroupUnit → GroupUnit) (h : j ≠ k) :
    (s.modUnit k f).unit j = s.unit j := Store.get_set_other _ _ _ h

/-- An update of a core that keeps its contexts keeps every context. -/
theorem State.ctx_modCore (s : State) (k : Nat) (f : Core → Core) (h : ∀ n, (f (s.core k)).ctx n = (s.core k).ctx n) (v : Who) :
    (s.modCore k f).ctx v = s.ctx v := by
  by_cases e : v.core = k
  · subst e; simp only [State.ctx, State.core_modCore_same, h]
  · simp only [State.ctx, State.core_modCore_other _ _ e]

/-! ## An access that is given up (R148, R177) -/

@[simp] theorem State.giveUp_memory (s : State) (w : Who) : (s.giveUp w).memory = s.memory := rfl
@[simp] theorem State.giveUp_units (s : State) (w : Who) : (s.giveUp w).units = s.units := rfl
@[simp] theorem State.giveUp_mod (s : State) (w : Who) : (s.giveUp w).mod = s.mod := rfl
@[simp] theorem State.giveUp_dx (s : State) (w : Who) : (s.giveUp w).dx = s.dx := rfl
@[simp] theorem State.giveUp_ctx (s : State) (w v : Who) : (s.giveUp w).ctx v = s.ctx v :=
  State.ctx_modCore s w.core (Core.giveUp w) (fun _ => rfl) v

end Sys2Proof.Machine
end

