-- ==== Sys2Proof/Laws/Issue.lean ====
section
/-! SUPPORT. What the shared operations of an instruction do: issuing, completing with a result, advancing, and the entry
into and return from trap service. -/

namespace Sys2Proof.Machine

/-! ## Issue -/

theorem Who.not_returnsAt {w : Who} (i : Instr) (h : w.isHandler = false) : w.returnsAt i = false := by
  simp [Who.returnsAt, h]

/-- A form without privilege, on a context of the core that does not stop at hazards, starts its own effect. -/
theorem ready_of_plain {i : Instr} {s : State} (hw : s.focus.isHandler = false) (hi : i.supervisorOnly = false)
    (hz : (s.ctx s.focus).status.hzd = false) : Ready i s :=
  ⟨Who.not_returnsAt i hw, by simp [hi], by simp [State.hazard, hz]⟩

/-- Every form on a context of the core above user privilege that does not stop at hazards starts its own effect. -/
theorem ready_of_privileged {i : Instr} {s : State} (hw : s.focus.isHandler = false) (hp : s.pl s.focus ≠ 0)
    (hz : (s.ctx s.focus).status.hzd = false) : Ready i s :=
  ⟨Who.not_returnsAt i hw, fun _ => hp, by simp [State.hazard, hz]⟩

/-- A ready instruction does what its effect does. -/
theorem issueWith_ready {i : Instr} {s : State} (h : Ready i s) (k : Who → Option Nat → State → Effect) :
    issueWith i s k = match k s.focus (s.ctx s.focus).hold.progress s.own with
      | .done t => t
      | .wait mark => (mark s).isWaiting s.focus i
      | .full => s := by
  obtain ⟨h1, h2, h3⟩ := h
  have hp : (i.supervisorOnly && decide (s.pl s.focus = 0)) = false := by
    by_cases hs : i.supervisorOnly = true
    · rw [hs, Bool.true_and, decide_eq_false_iff_not]; exact h2 hs
    · simp [hs]
  unfold issueWith State.own
  simp only [h1, h3, hp, Bool.false_eq_true, if_false] <;> rfl

theorem run_ready {i : Instr} {s t : State} {k : Who → State → Effect} (h : Ready i s)
    (hk : k s.focus s.own = .done t) : run i s k = .next t := by
  simp only [run, issueWith_ready h, hk]

theorem run_waits {i : Instr} {s : State} {k : Who → State → Effect} {mark : State → State} (h : Ready i s)
    (hk : k s.focus s.own = .wait mark) : run i s k = .next ((mark s).isWaiting s.focus i) := by
  simp only [run, issueWith_ready h, hk]

theorem run_full {i : Instr} {s : State} {k : Who → State → Effect} (h : Ready i s) (hk : k s.focus s.own = .full) :
    run i s k = .next s := by
  simp only [run, issueWith_ready h, hk]

theorem runFrom_ready {i : Instr} {s t : State} {k : Who → Option Nat → State → Effect} (h : Ready i s)
    (hk : k s.focus (s.ctx s.focus).hold.progress s.own = .done t) : runFrom i s k = .next t := by
  simp only [runFrom, issueWith_ready h, hk]

theorem runResult_ready {i : Instr} {s : State} {d : Nat} {k : Who → State → RegWrite × BitVec 5} (h : Ready i s) :
    runResult i s d k =
      .next ((s.own.result s.focus d (k s.focus s.own).1 (k s.focus s.own).2).advance s.focus i) := by
  exact run_ready h rfl

/-- A context written as it is leaves the state that an instruction starts from. -/
theorem State.modCtx_own (s : State) (f : Ctx → Ctx) (h : f (s.own.ctx s.focus) = s.own.ctx s.focus) :
    s.own.modCtx s.focus f = s.own := by
  unfold State.modCtx; rw [h]
  unfold State.own State.begun State.modCtx State.setCtx State.modCore State.setCore State.ctx State.core Core.setCtx Core.ctx
  by_cases hs : s.focus.slot < 11 <;> simp [hs, Store.get_set_same]

/-- Everything that issuing an instruction can come to. -/
theorem issueWith_cases (i : Instr) (s : State) (k : Who → Option Nat → State → Effect) :
    (s.focus.returnsAt i = true ∧ issueWith i s k = s.modHold s.focus (fun h => { h with returnTrap := true })) ∨
    (i.supervisorOnly = true ∧ s.pl s.focus = 0 ∧
      issueWith i s k = s.trapSync s.focus cPrivilege (illegalTval 9 (opcSubOf i).1 (opcSubOf i).2 0)) ∨
    (∃ r, s.hazard s.focus i = some r ∧ issueWith i s k = s.own.trapSync s.focus cHazard (tvalAt (s.ctx s.focus).hold.progress (hazardTval r))) ∨
    (Ready i s ∧ issueWith i s k = match k s.focus (s.ctx s.focus).hold.progress s.own with
      | .done t => t
      | .wait mark => (mark s).isWaiting s.focus i
      | .full => s) := by
  by_cases h1 : s.focus.returnsAt i = true
  · exact .inl ⟨h1, by simp [issueWith, h1]⟩
  · by_cases h2 : i.supervisorOnly = true ∧ s.pl s.focus = 0
    · exact .inr (.inl ⟨h2.1, h2.2, by simp [issueWith, h1, h2]⟩)
    · cases h3 : s.hazard s.focus i with
      | some r =>
        refine .inr (.inr (.inl ⟨r, rfl, ?_⟩))
        have hp : (i.supervisorOnly && decide (s.pl s.focus = 0)) = false := by
          rw [Bool.and_eq_false_iff, decide_eq_false_iff_not]
          by_cases hs : i.supervisorOnly = true
          · exact .inr (fun h => h2 ⟨hs, h⟩)
          · exact .inl (by simpa using hs)
        simp only [issueWith, h1, hp, h3, State.own, Bool.false_eq_true, if_false]
      | none =>
        have hr : Ready i s := ⟨by simpa using h1, fun h hp => h2 ⟨h, hp⟩, h3⟩
        exact .inr (.inr (.inr ⟨hr, issueWith_ready hr k⟩))

/-! ## A result (R44, R45, R60, R117) -/

/-- Of the register file, a write changes the register it names, and not `g0` or `p0`. -/
theorem RegFile.put_rest (r : RegFile) (x : RegWrite) :
    (∀ n, x.name ≠ .g n → (r.put x).g.get 0 n = r.g.get 0 n) ∧
    (∀ n, x.name ≠ .v n → (r.put x).v.get 0 n = r.v.get 0 n) ∧
    (∀ n, x.name ≠ .p n → (r.put x).p.get allOnes n = r.p.get allOnes n) ∧
    (r.put x).q = r.q ∧ (r.put x).h = r.h ∧ (r.put x).tb = r.tb := by
  cases x with
  | g k y =>
    refine ⟨fun n h => ?_, fun n _ => ?_, fun n _ => ?_, ?_⟩ <;> simp only [RegFile.put] <;> split_ifs <;>
      first | rfl | exact ⟨rfl, rfl, rfl⟩ | exact Store.get_set_other _ _ _ (fun e => h (by simp [RegWrite.name, e]))
  | v k y =>
    refine ⟨fun n _ => rfl, fun n h => ?_, fun n _ => rfl, rfl, rfl, rfl⟩
    exact Store.get_set_other _ _ _ (fun e => h (by simp [RegWrite.name, e]))
  | p k y =>
    refine ⟨fun n _ => ?_, fun n _ => ?_, fun n h => ?_, ?_⟩ <;> simp only [RegFile.put] <;> split_ifs <;>
      first | rfl | exact ⟨rfl, rfl, rfl⟩ | exact Store.get_set_other _ _ _ (fun e => h (by simp [RegWrite.name, e]))

/-- A result of a distance changes registers, flags and the list of flights, and nothing else of its context. -/
theorem Ctx.result_rest (c : Ctx) (d : Nat) (x : RegWrite) (fl : BitVec 5) :
    (c.result d x fl).pc = c.pc ∧ (c.result d x fl).live = c.live ∧ (c.result d x fl).trap = c.trap ∧
    (c.result d x fl).lc0 = c.lc0 ∧ (c.result d x fl).lc1 = c.lc1 ∧ (c.result d x fl).reply = c.reply ∧
    (c.result d x fl).held = c.held ∧ (c.result d x fl).remote = c.remote ∧
    (c.result d x fl).status = { c.status with fflags := (c.result d x fl).status.fflags } ∧
    (c.result d x fl).hold.hand = c.hold.hand ∧ (c.result d x fl).hold.gen = c.hold.gen := by
  unfold Ctx.result Hold.overtake; split_ifs <;> simp

/-- A result of distance 1 is in its register at once. -/
theorem Ctx.result_now (c : Ctx) (x : RegWrite) (fl : BitVec 5) :
    (c.result 1 x fl).regs = c.regs.put x ∧ (c.result 1 x fl).status.fflags = c.status.fflags ||| fl := by
  simp [Ctx.result]

/-- A later result leaves registers and flags as they are, and is in flight. -/
theorem Ctx.result_later (c : Ctx) {d : Nat} (hd : 1 < d) (x : RegWrite) (fl : BitVec 5) :
    (c.result d x fl).regs = c.regs ∧ (c.result d x fl).status = c.status ∧
    { left := d, write := some x, flags := fl } ∈ (c.result d x fl).hold.flights := by
  unfold Ctx.result; rw [if_neg (by omega)]; simp

/-! ## The sequential successor (R53) -/

/-- The loop-end check changes the PC and the loop registers, and nothing else of its context. -/
theorem Ctx.loopEnd_rest (c : Ctx) (next : Word) :
    c.loopEnd next = { c with pc := (c.loopEnd next).pc, lc0 := (c.loopEnd next).lc0, lc1 := (c.loopEnd next).lc1 } := by
  unfold Ctx.loopEnd; dsimp only; split_ifs <;> rfl

theorem Ctx.loopEnd_outside (c : Ctx) (next : Word) (h0 : c.lc0.active = false) (h1 : c.lc1.active = false) :
    c.loopEnd next = { c with pc := next } := by
  simp [Ctx.loopEnd, h0, h1]

@[simp] theorem Ctx.loopEnd_regs (c : Ctx) (next : Word) : (c.loopEnd next).regs = c.regs := by rw [Ctx.loopEnd_rest]
@[simp] theorem Ctx.loopEnd_status (c : Ctx) (next : Word) : (c.loopEnd next).status = c.status := by
  rw [Ctx.loopEnd_rest]
@[simp] theorem Ctx.loopEnd_hold (c : Ctx) (next : Word) : (c.loopEnd next).hold = c.hold := by rw [Ctx.loopEnd_rest]
@[simp] theorem Ctx.loopEnd_trap (c : Ctx) (next : Word) : (c.loopEnd next).trap = c.trap := by rw [Ctx.loopEnd_rest]
@[simp] theorem Ctx.loopEnd_live (c : Ctx) (next : Word) : (c.loopEnd next).live = c.live := by rw [Ctx.loopEnd_rest]
@[simp] theorem Ctx.loopEnd_held (c : Ctx) (next : Word) : (c.loopEnd next).held = c.held := by rw [Ctx.loopEnd_rest]
@[simp] theorem Ctx.loopEnd_remote (c : Ctx) (next : Word) : (c.loopEnd next).remote = c.remote := by
  rw [Ctx.loopEnd_rest]
@[simp] theorem Ctx.loopEnd_reply (c : Ctx) (next : Word) : (c.loopEnd next).reply = c.reply := by rw [Ctx.loopEnd_rest]

/-! ## The end of an arm (R31, R36, R58) -/

/-- On an empty shadow stack no inline frame stands. -/
theorem State.inlineFrame_none {s : State} {w : Who} (h : s.shadowEmpty w = true) (k : Option Word → State → Effect) :
    s.inlineFrame w k = k none s := by
  simp [State.inlineFrame, h]

/-- The word on top of a shadow stack in the own scratchpad, which is not poisoned, is read. -/
theorem State.topShadow_reads {s t : State} {w : Who} {a : Word} {off : Nat} (ha : (s.ctx w).trap.ssp - 8 = a)
    (hs : shadowOff a = some off)
    (he : (s.serveEarlier w (spKey w.core off) 8).earlierWaits w (spKey w.core off) 8 = false)
    (hp : (s.serveEarlier w (spKey w.core off) 8).poisonAt (spKey w.core off) 8 = (t, none)) (k : Word → State → Effect) :
    s.topShadow w k = k (t.word (spKey w.core off)) t := by
  have go : ∀ key, (s.serveEarlier w key 8).earlierWaits w key 8 = false →
      (s.serveEarlier w key 8).poisonAt key 8 = (t, none) → s.shadowWord w a key k = k (t.word key) t :=
    fun key he h => by simp only [State.shadowWord, State.afterEarlier, he, Bool.false_eq_true, if_false, h]
  rw [State.topShadow, ha, hs]
  exact go _ he hp

theorem State.topShadow_at {s u : State} {w : Who} {top : Word} (h : ShadowTop s u w top) (k : Word → State → Effect) :
    s.topShadow w k = k top u := by
  obtain ⟨off, ha, hl, he, hp, rfl⟩ := h
  refine State.topShadow_reads rfl ?_ he hp k
  unfold shadowOff
  rw [ha, if_pos (by omega), Nat.add_sub_cancel_left]

/-- The end of an arm finds its frame, or none. -/
theorem State.inlineFrame_at {s u : State} {w : Who} {frame : Option Word} (h : FrameIs s u w frame)
    (k : Option Word → State → Effect) : s.inlineFrame w k = k frame u := by
  rcases h with ⟨he, rfl, rfl⟩ | ⟨he, top, ht, rfl⟩
  · exact State.inlineFrame_none he k
  · simp only [State.inlineFrame, he, Bool.false_eq_true, if_false]
    exact State.topShadow_at ht _

/-! ## The writes of a context to its own storage (R283) -/

theorem State.whenOwn_goes {s : State} {w : Who} (h : (s.flushOwn w).ownWaits w = false) (k : State → Effect) :
    s.whenOwn w k = k (s.flushOwn w) := by
  simp [State.whenOwn, h]

theorem State.whenReads_goes {s : State} {w : Who} {i : Instr} (h : readsOwn i = true → (s.flushOwn w).ownWaits w = false)
    (k : State → Effect) : s.whenReads w i k = k (if readsOwn i then s.flushOwn w else s) := by
  unfold State.whenReads
  split_ifs with hr
  · exact State.whenOwn_goes (h hr) k
  · rfl

theorem State.whenOwn_waits {s : State} {w : Who} (h : (s.flushOwn w).ownWaits w = true) (k : State → Effect) :
    s.whenOwn w k = .wait (fun s0 => s0.flushOwn w) := by
  simp [State.whenOwn, h]

/-! ## Group requests -/

@[simp] theorem State.askUnit_cores (s : State) (u : Nat) (r : GroupRequest) : (s.askUnit u r).cores = s.cores := rfl
@[simp] theorem State.askUnit_memory (s : State) (u : Nat) (r : GroupRequest) : (s.askUnit u r).memory = s.memory := rfl
@[simp] theorem State.askUnit_mod (s : State) (u : Nat) (r : GroupRequest) : (s.askUnit u r).mod = s.mod := rfl

/-- Asking group units changes nothing but their queues. -/
theorem foldl_askUnit {α : Type} (f : α → Nat × GroupRequest) (l : List α) (s : State) :
    ∃ u, l.foldl (fun s a => s.askUnit (f a).1 (f a).2) s = { s with units := u } := by
  induction l generalizing s with
  | nil => exact ⟨s.units, rfl⟩
  | cons a l ih =>
    obtain ⟨u, h⟩ := ih (s.askUnit (f a).1 (f a).2)
    exact ⟨u, by rw [List.foldl_cons, h]; rfl⟩

/-- Pausing memberships changes nothing but the queues of group units (R259). -/
theorem State.pauseMembers_rest (s : State) (w : Who) (enter : Bool) :
    ∃ u, s.pauseMembers w enter = { s with units := u } := by
  unfold State.pauseMembers forEach
  exact foldl_askUnit (fun (m : Nat × Handle) => (unitOfHandle m.2.value, .pause w m.2.value enter)) _ s

/-! ## Trap service (R313 to R315) -/

/-- Everything that entering trap service does, on a context of the core whose trapping instruction does not stand at the
entry. -/
theorem State.enterTrap_spec (s : State) (w : Who) (cause : Nat) (tval epc : Word) (trapping : Option Word)
    (hw : w.isHandler = false) (hk : ∀ a, trapping = some a → a ≠ s.trapEntry w) :
    let t := s.enterTrap w cause tval epc trapping
    let c := t.ctx w
    c.pc = s.trapEntry w ∧ c.status.ppl = s.pl w ∧ c.status.pl = (if s.toFirmware w then 2 else 1) ∧
    c.status.intrap = true ∧ c.trap.epc = epc &&& 0x1FFFFFFFFFFFFF8 ∧ c.trap.tcause = BitVec.ofNat 64 cause ∧
    c.trap.tval = tval ∧ c.hold.hand = none ∧ t.memory = s.memory ∧ t.mod = s.mod ∧ t.dx = s.dx ∧
    (∀ v, v ≠ w → t.ctx v = s.ctx v) := by
  have landed : ∀ (l : List Flight) (c : Ctx), (l.foldl Ctx.land c).status.pl = c.status.pl := by
    intro l
    induction l with
    | nil => simp
    | cons f l ih => intro c; simpa [Ctx.land] using ih (c.land f)
  have paused : ∃ u, (if (s.ctx w).status.intrap then s else s.pauseMembers w true) = { s with units := u } := by
    split_ifs
    · exact ⟨s.units, rfl⟩
    · exact s.pauseMembers_rest w true
  obtain ⟨u, hu⟩ := paused
  have hctx : ({ s with units := u }).ctx w = s.ctx w := rfl
  cases trapping with
  | none =>
    simp only [State.enterTrap, hw, Bool.false_eq_true, if_false, hu, State.ctx_modCtx_same, State.giveUp_ctx, hctx, Ctx.landAll,
      landed, State.pl, State.modCtx_memory, State.modCtx_mod, State.modCtx_dx, State.giveUp_memory, State.giveUp_mod,
      State.giveUp_dx, true_and]
    exact fun v hv => (State.ctx_modCtx_other _ _ hv).trans (State.giveUp_ctx _ _ _)
  | some a =>
    simp only [State.enterTrap, hw, decide_eq_false (hk a rfl), Bool.false_eq_true, if_false, hu, State.ctx_modCtx_same,
      State.giveUp_ctx, hctx, Ctx.landAll, landed, State.pl, State.modCtx_memory, State.modCtx_mod, State.modCtx_dx,
      State.giveUp_memory, State.giveUp_mod, State.giveUp_dx, true_and]
    exact fun v hv => (State.ctx_modCtx_other _ _ hv).trans (State.giveUp_ctx _ _ _)

/-- Everything that returning from trap service does to its context. -/
theorem State.returnTrap_spec (s : State) (w : Who) (hd : (s.ctx w).hold.dramTrap = []) :
    let t := s.returnTrap w
    let c := s.ctx w
    t.ctx w = { c with
      pc := c.trap.epc
      status := { c.status with pl := c.status.ppl, intrap := false }
      trap := { c.trap with tval := c.trap.tval &&& 0x7FFFFFFFFFFFFFFF }
      hold := { c.hold with
        dramTrap := []
        fwEntry := none
        progress := if c.trap.tval.getLsbD 63 then some ((c.trap.tval >>> 57) &&& 0x3F).toNat else none } } ∧
    t.memory = s.memory ∧ (∀ v, v ≠ w → t.ctx v = s.ctx v) := by
  obtain ⟨u, hu⟩ := s.pauseMembers_rest w false
  simp only [State.returnTrap, hd, hu, forEach, List.foldl_nil, State.ctx_modCtx_same, State.modCtx_memory]
  exact ⟨rfl, trivial, fun v hv => State.ctx_modCtx_other _ _ hv⟩

end Sys2Proof.Machine
end

