-- ==== Sys2Proof/Laws/Forms.lean ====
section
/-! SUPPORT. What the parts of a form's result come to: elements of a packed register, masks, and FP results that meet no
upset. -/

namespace Sys2Proof.Machine

/-! ## Packed registers (R111, R474) -/

theorem packNat_lt (w : Nat) (l : List Nat) : packNat w l < 2 ^ (w * l.length) := by
  induction l with
  | nil => simp [packNat]
  | cons a l ih =>
    have h1 : a % 2 ^ w < 2 ^ w := Nat.mod_lt _ (Nat.two_pow_pos w)
    have h2 : 2 ^ (w * (a :: l).length) = 2 ^ w * 2 ^ (w * l.length) := by
      rw [List.length_cons, Nat.mul_succ, Nat.pow_add, Nat.mul_comm]
    calc packNat w (a :: l) = a % 2 ^ w + 2 ^ w * packNat w l := rfl
      _ < 2 ^ w + 2 ^ w * packNat w l := by omega
      _ = 2 ^ w * (packNat w l + 1) := by rw [Nat.mul_succ, Nat.add_comm]
      _ ≤ 2 ^ w * 2 ^ (w * l.length) := Nat.mul_le_mul_left _ ih
      _ = _ := h2.symm

/-- Element `e` of the packed number is element `e` of the list, and 0 above it. -/
theorem packNat_elem (w : Nat) (l : List Nat) (e : Nat) : packNat w l / 2 ^ (w * e) % 2 ^ w = l.getD e 0 % 2 ^ w := by
  induction l generalizing e with
  | nil => simp [packNat]
  | cons a l ih =>
    have h1 : a % 2 ^ w < 2 ^ w := Nat.mod_lt _ (Nat.two_pow_pos w)
    cases e with
    | zero => simp [packNat, Nat.add_mul_mod_self_left]
    | succ e =>
      have h2 : (a % 2 ^ w + 2 ^ w * packNat w l) / 2 ^ w = packNat w l := by
        rw [Nat.add_mul_div_left _ _ (Nat.two_pow_pos w), Nat.div_eq_of_lt h1, Nat.zero_add]
      have h3 : 2 ^ (w * (e + 1)) = 2 ^ w * 2 ^ (w * e) := by rw [Nat.mul_succ, Nat.pow_add, Nat.mul_comm]
      rw [List.getD_cons_succ, ← ih e, packNat, h3, ← Nat.div_div_eq_div_mul, h2]

/-- An element of a packed register is the listed one, in the width of the view. -/
theorem elemAt_packElems {w : Nat} {l : List Nat} (e : Nat) (h : w * l.length ≤ 2048) :
    elemAt w (packElems w l) e = l.getD e 0 % 2 ^ w := by
  unfold elemAt packElems
  rw [BitVec.toNat_ofNat, Nat.mod_eq_of_lt (lt_of_lt_of_le (packNat_lt w l) (Nat.pow_le_pow_right (by decide) h))]
  exact packNat_elem w l e

theorem elemAt_lt (w : Nat) (x : VWord) (e : Nat) : elemAt w x e < 2 ^ w := Nat.mod_lt _ (Nat.two_pow_pos w)

@[simp] theorem length_elems (w n : Nat) (x : VWord) : (elems w n x).length = n := by simp [elems, upTo]

theorem getD_elems {w n e : Nat} (x : VWord) (h : e < n) : (elems w n x).getD e 0 = elemAt w x e := by
  simp [elems, upTo, List.getD_eq_getElem?_getD, h]

theorem elemType_bits (t : ElemType) : t.bits = 32 ∨ t.bits = 16 ∨ t.bits = 8 ∨ t.bits = 4 := by cases t <;> simp [ElemType.bits]

/-- A view fills its register. -/
theorem viewSize_fits (w : Nat) : w * viewSize w ≤ 2048 := Nat.mul_div_le 2048 w

/-! ## FP results (R321, R326) -/

/-- Where no upset strikes, an FP form writes its result at its distance. -/
theorem State.finishFp_plain {s : State} {w : Who} (i : Instr) (d : Nat) (o : FpOut) (scales : List Nat)
    (h : (s.core w.core).marks.upsets = []) :
    s.finishFp w i d o scales = (s.result w (s.fpDistance w.core o.units d) o.write o.flags).advance w i := by
  simp [State.finishFp, h]

end Sys2Proof.Machine
end

