-- ==== Sys2Proof/Laws/Memory.lean ====
section
/-! SUPPORT. Memory: reading a byte after a write, and that every memory operation keeps the canonical form. -/

namespace Sys2Proof.Machine

/-! ## Rising lists of marks -/

theorem rising_tail {a : Nat} {l : List Nat} (h : rising (a :: l) = true) : rising l = true := by
  cases l with
  | nil => rfl
  | cons b l => simp only [rising, Bool.and_eq_true] at h; exact h.2

theorem rising_lt {a : Nat} {l : List Nat} (h : rising (a :: l) = true) : ∀ b ∈ l, a < b := by
  induction l generalizing a with
  | nil => simp
  | cons b l ih =>
    simp only [rising, Bool.and_eq_true, decide_eq_true_eq] at h
    intro c hc
    rcases List.mem_cons.mp hc with rfl | hc
    · exact h.1
    · exact lt_trans h.1 (ih h.2 c hc)

theorem rising_cons {a : Nat} {l : List Nat} (h : ∀ b ∈ l, a < b) (hl : rising l = true) : rising (a :: l) = true := by
  cases l with
  | nil => rfl
  | cons b l => simp only [rising, Bool.and_eq_true, decide_eq_true_eq]; exact ⟨h b (by simp), hl⟩

theorem rising_insertNat (l : List Nat) (n : Nat) (h : rising l = true) : rising (insertNat l n) = true := by
  induction l with
  | nil => rfl
  | cons a l ih =>
    simp only [insertNat]
    split_ifs with h1 h2
    · simp only [rising, Bool.and_eq_true, decide_eq_true_eq]; exact ⟨h1, h⟩
    · exact h
    · refine rising_cons (fun b hb => ?_) (ih (rising_tail h))
      rcases (mem_insertNat l n b).mp hb with rfl | hb
      · omega
      · exact rising_lt h b hb

theorem rising_eraseNat (l : List Nat) (n : Nat) (h : rising l = true) : rising (eraseNat l n) = true := by
  induction l with
  | nil => rfl
  | cons a l ih =>
    simp only [eraseNat]
    split_ifs
    · exact rising_tail h
    · exact rising_cons (fun b hb => rising_lt h b (mem_of_mem_eraseNat l n b hb)) (ih (rising_tail h))

theorem rising_filter (l : List Nat) (f : Nat → Bool) (h : rising l = true) : rising (l.filter f) = true := by
  induction l with
  | nil => rfl
  | cons a l ih =>
    rw [List.filter_cons]
    split
    · exact rising_cons (fun b hb => rising_lt h b (List.mem_of_mem_filter hb)) (ih (rising_tail h))
    · exact ih (rising_tail h)

/-! ## One byte, one mark -/

theorem Memory.wf_iff (m : Memory) : m.wf = true ↔ Store.rising m.bytes = true ∧ Store.proper 0 m.bytes = true ∧
    rising m.flips = true ∧ rising m.wordPoison = true ∧ rising m.full = true ∧ rising m.logFlips = true := by
  simp only [Memory.wf, Bool.and_eq_true, and_assoc]

theorem Memory.wf_setByte {m : Memory} (key : Nat) (b : Byte) (h : m.wf = true) : (m.setByte key b).wf = true := by
  rw [Memory.wf_iff] at h ⊢
  exact ⟨Store.rising_put _ _ _ _ h.1, Store.proper_put _ _ _ _ h.2.1, h.2.2⟩

/-- Only the poison marks matter for a change of them. -/
theorem Memory.wf_flips {m : Memory} {l : List Nat} (hl : rising l = true) (h : m.wf = true) :
    ({ m with flips := l } : Memory).wf = true := by
  rw [Memory.wf_iff] at h ⊢
  exact ⟨h.1, h.2.1, hl, h.2.2.2⟩

theorem Memory.wf_setMark {m : Memory} (key : Nat) (b : Bool) (h : m.wf = true) : (m.setMark key b).wf = true := by
  have h' := (Memory.wf_iff m).mp h
  unfold Memory.setMark
  split
  · rw [Memory.wf_iff]
    refine ⟨h'.1, h'.2.1, h'.2.2.1, ?_, h'.2.2.2.2⟩
    dsimp only
    split
    · exact rising_insertNat _ _ h'.2.2.2.1
    · exact rising_eraseNat _ _ h'.2.2.2.1
  · refine Memory.wf_flips ?_ h
    split
    · exact rising_eraseNat _ _ h'.2.2.1
    · exact rising_insertNat _ _ h'.2.2.1

theorem Memory.wf_clear {m : Memory} (key : Nat) (h : m.wf = true) : (m.clear key).wf = true := wf_setMark key false h
theorem Memory.wf_mark {m : Memory} (key : Nat) (h : m.wf = true) : (m.mark key).wf = true := wf_setMark key true h

theorem Memory.wf_setFull {m : Memory} (key : Nat) (b : Bool) (h : m.wf = true) : (m.setFull key b).wf = true := by
  rw [Memory.wf_iff] at h
  unfold Memory.setFull
  split_ifs <;> rw [Memory.wf_iff]
  · exact ⟨h.1, h.2.1, h.2.2.1, h.2.2.2.1, rising_insertNat _ _ h.2.2.2.2.1, h.2.2.2.2.2⟩
  · exact ⟨h.1, h.2.1, h.2.2.1, h.2.2.2.1, rising_eraseNat _ _ h.2.2.2.2.1, h.2.2.2.2.2⟩

/-- A repair log that has been written whole (R189). -/
theorem Memory.wf_cleanLog {m : Memory} (log : Nat) (h : m.wf = true) : (m.cleanLog log).wf = true := by
  rw [Memory.wf_iff] at h
  unfold Memory.cleanLog
  rw [Memory.wf_iff]
  refine ⟨h.1, h.2.1, rising_filter _ _ h.2.2.1, h.2.2.2.1, h.2.2.2.2.1, ?_⟩
  dsimp only
  split
  · exact rising_eraseNat _ _ h.2.2.2.2.2
  · exact rising_insertNat _ _ h.2.2.2.2.2

@[simp] theorem Memory.byte_cleanLog (m : Memory) (log k : Nat) : (m.cleanLog log).byte k = m.byte k := rfl

/-- Reading one byte after writing one. -/
theorem Memory.byte_setByte {m : Memory} (key k : Nat) (b : Byte) (h : m.wf = true) :
    (m.setByte key b).byte k = if k = key then b else m.byte k :=
  Store.get_put 0 m.bytes key k b ((Memory.wf_iff m).mp h).1

theorem Memory.byte_setByte_other (m : Memory) {key k : Nat} (b : Byte) (h : k ≠ key) :
    (m.setByte key b).byte k = m.byte k := by
  unfold Memory.setByte Memory.byte Store.put
  split_ifs
  · exact Store.get_erase_other _ _ h
  · exact Store.get_set_other _ _ _ h

@[simp] theorem Memory.bytes_setMark (m : Memory) (key : Nat) (b : Bool) : (m.setMark key b).bytes = m.bytes := by
  unfold Memory.setMark; split <;> rfl
@[simp] theorem Memory.bytes_clear (m : Memory) (key : Nat) : (m.clear key).bytes = m.bytes := m.bytes_setMark key false
@[simp] theorem Memory.bytes_mark (m : Memory) (key : Nat) : (m.mark key).bytes = m.bytes := m.bytes_setMark key true
@[simp] theorem Memory.bytes_setFull (m : Memory) (key : Nat) (b : Bool) : (m.setFull key b).bytes = m.bytes := rfl
@[simp] theorem Memory.byte_setMark (m : Memory) (key : Nat) (b : Bool) (k : Nat) :
    (m.setMark key b).byte k = m.byte k := by simp [Memory.byte]
@[simp] theorem Memory.byte_setFull (m : Memory) (key : Nat) (b : Bool) (k : Nat) :
    (m.setFull key b).byte k = m.byte k := rfl
@[simp] theorem Memory.full_setMark (m : Memory) (key : Nat) (b : Bool) : (m.setMark key b).full = m.full := by
  unfold Memory.setMark; split <;> rfl
@[simp] theorem Memory.full_setByte (m : Memory) (key : Nat) (b : Byte) : (m.setByte key b).full = m.full := rfl
@[simp] theorem Memory.marked_setByte (m : Memory) (key : Nat) (b : Byte) (k : Nat) :
    (m.setByte key b).marked k = m.marked k := rfl
@[simp] theorem Memory.marked_setFull (m : Memory) (key : Nat) (b : Bool) (k : Nat) :
    (m.setFull key b).marked k = m.marked k := rfl

/-! ## Many bytes, many marks -/

/-- A fold of operations that keep a property keeps it. -/
theorem foldl_keeps {α σ : Type} (P : σ → Prop) (f : σ → α → σ) (hf : ∀ s a, P s → P (f s a)) (l : List α) (s : σ)
    (h : P s) : P (l.foldl f s) := by
  induction l generalizing s with
  | nil => exact h
  | cons a l ih => exact ih _ (hf s a h)

theorem Memory.wf_writeBytes {m : Memory} (key : Nat) (l : List Byte) (h : m.wf = true) : (m.writeBytes key l).wf = true := by
  induction l generalizing m key with
  | nil => exact h
  | cons b l ih => exact ih _ (wf_setByte key b h)

theorem Memory.byte_writeBytes_outside (m : Memory) (key k : Nat) (l : List Byte) (h : k < key ∨ key + l.length ≤ k) :
    (m.writeBytes key l).byte k = m.byte k := by
  induction l generalizing m key with
  | nil => rfl
  | cons b l ih =>
    simp only [List.length_cons] at h
    rw [Memory.writeBytes, ih _ _ (by omega), m.byte_setByte_other b (by omega)]

theorem Memory.byte_writeBytes {m : Memory} (key j : Nat) (l : List Byte) (h : m.wf = true) (hj : j < l.length) :
    (m.writeBytes key l).byte (key + j) = l[j] := by
  induction l generalizing m key j with
  | nil => simp at hj
  | cons b l ih =>
    rw [Memory.writeBytes]
    cases j with
    | zero =>
      rw [Memory.byte_writeBytes_outside _ _ _ _ (by omega), Memory.byte_setByte _ _ _ h]
      simp
    | succ j =>
      have := ih (m := m.setByte key b) (key + 1) j (wf_setByte key b h) (by simpa using hj)
      rw [show key + (j + 1) = key + 1 + j by omega, this]
      rfl

theorem Memory.wf_clears {α : Type} (f : α → Nat) (l : List α) {m : Memory} (h : m.wf = true) :
    (l.foldl (fun m a => m.clear (f a)) m).wf = true :=
  foldl_keeps (fun m : Memory => m.wf = true) _ (fun _ a h => wf_clear (f a) h) l m h

@[simp] theorem Memory.byte_clears {α : Type} (f : α → Nat) (l : List α) (m : Memory) (k : Nat) :
    (l.foldl (fun m a => m.clear (f a)) m).byte k = m.byte k := by
  induction l generalizing m with
  | nil => rfl
  | cons a l ih => rw [List.foldl_cons, ih]; exact m.byte_setMark _ _ _

theorem Memory.wf_place {m : Memory} (key : Nat) (l : List Byte) (h : m.wf = true) : (m.place key l).wf = true :=
  wf_clears _ _ (wf_writeBytes key l h)

theorem Memory.wf_load {m : Memory} (key : Nat) (l : List Byte) (h : m.wf = true) : (m.load key l).wf = true := by
  refine wf_clears _ _ (wf_writeBytes key l (foldl_keeps (fun m : Memory => m.wf = true) _ (fun m u h => ?_) _ m h))
  split
  · exact wf_writeBytes u _ h
  · exact h

theorem Memory.wf_zeroSp {m : Memory} (core : Nat) (h : m.wf = true) : (m.zeroSp core).wf = true := by
  rw [Memory.wf_iff] at h ⊢
  exact ⟨Store.rising_filter _ _ h.1, Store.proper_filter _ _ _ h.2.1, h.2.2.1, rising_filter _ _ h.2.2.2.1,
    rising_filter _ _ h.2.2.2.2.1, h.2.2.2.2.2⟩

theorem Memory.wf_placeSp {m : Memory} (core : Nat) (l : List (Nat × Byte)) (h : m.wf = true) :
    (m.placeSp core l).wf = true :=
  foldl_keeps (fun m : Memory => m.wf = true) _ (fun _ _ h => wf_setByte _ _ h) l m h

theorem Memory.wf_restoreSp {m : Memory} (core : Nat) (im : Image) (h : m.wf = true) : (m.restoreSp core im).wf = true :=
  foldl_keeps (fun m : Memory => m.wf = true) _ (fun _ _ h => wf_mark _ h) _ _
    (foldl_keeps (fun m : Memory => m.wf = true) _ (fun _ _ h => wf_setFull _ _ h) _ _
      (foldl_keeps (fun m : Memory => m.wf = true) _ (fun _ _ h => wf_setByte _ _ h) _ _ (wf_zeroSp core h)))

/-! ## Memory in the state -/

theorem State.canonical_store {s t : State} {key : Nat} {l : List Byte} (h : s.memory.wf = true)
    (hs : s.store key l = some t) : t.memory.wf = true := by
  unfold State.store at hs
  split at hs
  · cases hs; exact h
  · extract_lets u n units whole blocked m at hs
    split at hs
    · cases hs
    · cases hs; exact Memory.wf_clears _ _ (Memory.wf_writeBytes key l h)

/-- A write that is performed changes no byte outside it. -/
theorem State.store_outside {s t : State} {key : Nat} {l : List Byte} (hs : s.store key l = some t) (k : Nat)
    (hk : k < key ∨ key + l.length ≤ k) : t.memory.byte k = s.memory.byte k := by
  unfold State.store at hs
  split at hs
  · cases hs; rfl
  · extract_lets u n units whole blocked m at hs
    split at hs
    · cases hs
    · cases hs
      simp only [Memory.byte_clears]
      exact Memory.byte_writeBytes_outside _ _ _ _ hk

/-- A write that is performed leaves its bytes, unless it goes to another device or the reserved area. -/
theorem State.store_inside {s t : State} {key : Nat} {l : List Byte} (h : s.memory.wf = true)
    (hs : s.store key l = some t) (hk : isHere key = true) (hr : isReserved key = false) (j : Nat) (hj : j < l.length) :
    t.memory.byte (key + j) = l[j] := by
  unfold State.store at hs
  rw [if_neg (by simp [hk, hr])] at hs
  extract_lets u n units whole blocked m at hs
  split at hs
  · cases hs
  · cases hs
    simp only [Memory.byte_clears]
    exact Memory.byte_writeBytes key j l h hj

theorem State.store_cores {s t : State} {key : Nat} {l : List Byte} (hs : s.store key l = some t) :
    t = { s with memory := t.memory } := by
  unfold State.store at hs
  split at hs
  · cases hs; rfl
  · extract_lets u n units whole blocked m at hs
    split at hs
    · cases hs
    · cases hs; rfl

theorem State.canonical_setFull {s : State} (key : Nat) (b : Bool) (h : s.memory.wf = true) :
    (s.setFull key b).memory.wf = true := Memory.wf_setFull key b h

theorem State.canonical_storePoison {s : State} (key : Nat) (h : s.memory.wf = true) :
    (s.storePoison key).memory.wf = true := Memory.wf_mark key h

theorem State.canonical_clearValid {s : State} (core : Nat) (h : s.memory.wf = true) :
    (s.clearValid core).memory.wf = true :=
  Memory.wf_setByte (validKey core) (Store.get 0 s.memory.bytes (validKey core) &&& 0x7F) h

theorem State.canonical_writeSaveArea {s : State} (core : Nat) (im : Image) (h : s.memory.wf = true) :
    (s.writeSaveArea core im).memory.wf = true := by
  unfold State.writeSaveArea
  dsimp only
  generalize upTo 0x8000 = l
  generalize saveBytes s.tick im = bytes
  refine foldl_keeps (fun r : Memory × List Byte => r.1.wf = true) _ (fun r j h => ?_) l (s.memory, bytes) h
  dsimp only
  split
  · exact Memory.wf_clear _ (Memory.wf_writeBytes _ _ h)
  · exact h

/-- An evacuation keeps the canonical form. -/
theorem State.canonical_evacuate {s : State} (old new : Nat) (copy : Bool) (h : s.memory.wf = true) :
    (s.evacuate old new copy).memory.wf = true := by
  have h' := (Memory.wf_iff s.memory).mp h
  unfold State.evacuate
  extract_lets m inside sent taken cells units m' m1 m''
  have hm : m'.wf = true := by
    rw [Memory.wf_iff]
    exact ⟨Store.rising_filter _ _ h'.1, Store.proper_filter _ _ _ h'.2.1, rising_filter _ _ h'.2.2.1, h'.2.2.2⟩
  show m''.wf = true
  simp only [m'']
  split
  · refine foldl_keeps (fun m : Memory => m.wf = true) _ (fun m x h => ?_) _ _
      (foldl_keeps (fun m : Memory => m.wf = true) _ (fun _ _ h => Memory.wf_setByte _ _ h) _ _ hm)
    rw [Memory.wf_iff] at h ⊢
    exact ⟨h.1, h.2.1, rising_insertNat _ _ h.2.2.1, h.2.2.2⟩
  · exact hm

theorem State.canonical_loadBytes {s : State} (key : Nat) (l : List Byte) (h : s.memory.wf = true) :
    (s.loadBytes key l).memory.wf = true := by
  unfold State.loadBytes forEach
  refine foldl_keeps (fun s : State => s.memory.wf = true) _ (fun s j h => ?_) _ _ h
  dsimp only
  split
  · exact h
  · exact Memory.wf_load _ _ h

theorem State.canonical_putRing {s : State} (core : Nat) (block : Option (Nat × Nat)) (payload : List Byte) (src : Word)
    (h : s.memory.wf = true) : (s.putRing core block payload src).2.memory.wf = true := by
  have key : ∀ (l : List Nat) (a : Nat → Nat) (b : Nat → Byte) (s : State), s.memory.wf = true →
      (forEach l s (fun k s => { s with memory := (s.memory.setByte (a k) (b k)).clear (a k) })).memory.wf = true :=
    fun l a b s h => foldl_keeps (fun s : State => s.memory.wf = true) _
      (fun s k h => Memory.wf_clear _ (Memory.wf_setByte _ _ h)) l s h
  exact key _ _ _ s h

theorem State.canonical_rewriteCopy {s : State} (core key : Nat) (l : List (Word × Word)) (h : s.memory.wf = true) :
    (s.rewriteCopy core key l).memory.wf = true := by
  unfold State.rewriteCopy
  generalize upTo 1024 = units
  dsimp only
  split
  · exact Memory.wf_cleanLog _ (Memory.wf_writeBytes _ _ h)
  · exact h

/-- What a warm reset keeps (R188). -/
theorem Memory.wf_warm {m : Memory} (h : m.wf = true) :
    ({ m with bytes := m.bytes.filter (fun p => !isSp p.1), wordPoison := [], full := [] } : Memory).wf = true := by
  rw [Memory.wf_iff] at h ⊢
  exact ⟨Store.rising_filter _ _ h.1, Store.proper_filter _ _ _ h.2.1, h.2.2.1, rfl, rfl, h.2.2.2.2.2⟩

theorem State.canonical_withFetchWord {s : State} (nbits w : Nat) (h : s.memory.wf = true) :
    (s.withFetchWord nbits w).memory.wf = true := Memory.wf_place _ _ h

/-- Reset lists nothing. -/
theorem State.canonical_reset : State.reset.memory.wf = true := by decide

end Sys2Proof.Machine
end

