-- ==== Sys2Proof/Laws/Reach.lean ====
section
/-! SUPPORT. What the shared accesses of storage come to, once each of their checks has passed: reaching an address,
reading, writing and updating at it, releases, handles, and descriptor words. -/

namespace Sys2Proof.Machine

@[simp] theorem State.unhold_memory (s : State) (w : Who) : (s.unhold w).memory = s.memory := by
  unfold State.unhold; split <;> rfl
@[simp] theorem State.unhold_ctx (s : State) (w v : Who) : (s.unhold w).ctx v = s.ctx v := by
  unfold State.unhold; split
  · rfl
  · exact State.ctx_modCore s w.core _ (fun _ => rfl) v

/-- An address that translates goes on with what it names. -/
theorem State.locates {s : State} {w : Who} {need : Need} {va tval : Word} {pa : Nat}
    (hx : s.resolve (.ctx w) w.core (s.asid w.core) (s.pl w) need va.toNat = .ok pa) (k : Loc → State → Effect) :
    s.locateVa w need va tval k = k ((s.arrived w va).locate pa) (s.arrived w va) := by
  simp only [State.locateVa, hx]
  rfl

/-- It names a place there. -/
theorem State.locates_at {s : State} {w : Who} {need : Need} {va : Word} {pa : Nat} {l : Loc}
    (hx : s.resolve (.ctx w) w.core (s.asid w.core) (s.pl w) need va.toNat = .ok pa) (hl : (s.arrived w va).locate pa = l) :
    Locates s (s.arrived w va) w need va l := by
  intro tval k
  rw [State.locates hx, hl]

/-- A core's own scratchpad is held only while the core is being saved. -/
theorem State.isHeld_own (s : State) (core : Nat) : s.isHeld core core = s.isSaving core := by simp [State.isHeld]

/-- An address of a scratchpad of the own core is reached. -/
theorem State.reaches_scratch {s : State} {w : Who} {need : Need} {r : Reach} {va : Word} {n pa off : Nat}
    (hx : s.resolve (.ctx w) w.core (s.asid w.core) (s.pl w) need va.toNat = .ok pa)
    (hl : (s.arrived w va).locate pa = .scratch w.core off)
    (hr : refuse r w.core w.isHandler (.scratch w.core off) = none) (hs : (s.arrived w va).isSaving w.core = false)
    (hp : (need.write && (s.arrived w va).isUser w && inShadow off n) = false) :
    Reaches s (s.reached w va) w need r va n (spKey w.core off) := by
  intro k progress
  simp only [State.reachVa, State.reachLoc, State.locates hx, hl, hr, State.isHeld_own, hs, hp]
  simp [Loc.key, State.reached]

/-- An address of the own vault is reached. -/
theorem State.reaches_vault {s : State} {w : Who} {need : Need} {r : Reach} {va : Word} {n pa off : Nat}
    (hx : s.resolve (.ctx w) w.core (s.asid w.core) (s.pl w) need va.toNat = .ok pa)
    (hl : (s.arrived w va).locate pa = .vault w.core off)
    (hr : refuse r w.core w.isHandler (.vault w.core off) = none) :
    Reaches s (s.arrived w va) w need r va n (coreKey w.core off) := by
  intro k progress
  simp only [State.reachVa, State.reachLoc, State.locates hx, hl, hr, Loc.key]

/-- An address that names storage has a physical address. -/
theorem State.physical_ok {s : State} {w : Who} {need : Need} {va : Word} {pa : Nat}
    (hx : s.translate (.ctx w) w.core (s.asid w.core) (s.pl w) need va.toNat = .ok pa) (hl : s.locate pa ≠ .nowhere) :
    ∀ k, s.physical w need va k = k pa (s.arrived w va) := by
  intro k
  simp only [State.physical, hx, hl, if_false]
  rfl

/-- A poison check that finds nothing goes on. -/
theorem State.checkPoison_none {s : State} {w : Who} {va : Word} {key n : Nat} (h : (s.poisonAt key n).2 = none)
    (k : State → Effect) (progress : Option Nat) : s.checkPoison w va key n k progress = k (s.poisonAt key n).1 := by
  have e : s.poisonAt key n = ((s.poisonAt key n).1, none) := by rw [← h]
  simp only [State.checkPoison]
  rw [e]

/-- An access goes on behind the earlier writes of its context to the unit, once they are performed (R144). -/
theorem State.afterEarlier_goes {s : State} {w : Who} {key n : Nat}
    (he : (s.serveEarlier w key n).earlierWaits w key n = false) (k : State → Effect) (keep : State → State := id) :
    s.afterEarlier w key n k keep = k (s.serveEarlier w key n) := by
  simp only [State.afterEarlier, he, Bool.false_eq_true, if_false]

/-- Outside a vault no bank is waited for. -/
theorem State.atBank_other {s : State} {w : Who} {need : Need} {va : Word} {key n : Nat} (h : isVault key = false)
    (he : (s.serveEarlier w key n).earlierWaits w key n = false) (k : State → Effect) :
    s.atBank w need va key n k = k (s.serveEarlier w key n) := by
  simp only [State.atBank, h, Bool.false_eq_true, if_false]
  exact State.afterEarlier_goes he k _

/-- Outside a vault a write carries no beats. -/
theorem State.writeBeat_other {s : State} {key n : Nat} (h : isVault key = false) : s.writeBeat key n = s := by
  simp [State.writeBeat, State.takeBeat, State.beatStrikes, State.spoil, h, forEach]

/-- A read outside a vault delivers the bytes there, after the context's own earlier writes. -/
theorem State.loads {s t : State} {w : Who} {va : Word} {n key : Nat} (ha : va.toNat % n = 0)
    (hr : Reaches s t w {} .direct va n key) (hv : isVault key = false)
    (he : (t.serveEarlier w key n).earlierWaits w key n = false)
    (hp : ((t.serveEarlier w key n).poisonAt key n).2 = none) :
    LoadsAs s ((t.serveEarlier w key n).poisonAt key n).1 w va n
      (leNat (((t.serveEarlier w key n).poisonAt key n).1.fetchBytes key n)) := by
  intro k progress
  simp only [State.loadDirect, ha, ne_eq, not_true_eq_false, if_false]
  rw [hr, State.atBank_other hv he, State.checkPoison_none hp]

/-- A write leaves its context as a request. -/
theorem State.stores {s t : State} {w : Who} {va : Word} {bytes : List Byte} {key : Nat}
    (ha : va.toNat % bytes.length = 0) (hr : Reaches s t w { write := true } .direct va bytes.length key) :
    StoresAs s (t.sendReq { kind := .store, who := w, gen := (t.ctx w).hold.gen, va := va, key := key, bytes := bytes }) w
      va bytes := by
  intro k progress
  simp only [State.storeDirect, ha, ne_eq, not_true_eq_false, if_false]
  rw [hr]

/-- An atomic outside a vault that writes. -/
theorem State.updates {s t v : State} {w : Who} {va : Word} {n key x : Nat} {f : Nat → Option Nat} (ha : va.toNat % n = 0)
    (hr : Reaches s t w { write := true } .direct va n key) (hv : isVault key = false)
    (he : (t.serveEarlier w key n).earlierWaits w key n = false)
    (hp : ((t.serveEarlier w key n).poisonAt key n).2 = none)
    (hf : f (leNat (((t.serveEarlier w key n).poisonAt key n).1.fetchBytes key n)) = some x)
    (hs : ((t.serveEarlier w key n).poisonAt key n).1.store key (natLE n x) = some v) :
    UpdatesAs s v w va n f (leNat (((t.serveEarlier w key n).poisonAt key n).1.fetchBytes key n)) := by
  intro k
  simp only [State.atomicDirect, ha, ne_eq, not_true_eq_false, if_false]
  have e : v.writeBeat key n = v := State.writeBeat_other hv
  rw [hr, State.atBank_other hv he, State.checkPoison_none hp]
  simp only [hf, hs, e]

/-- An atomic outside a vault that leaves its word alone. -/
theorem State.updates_nothing {s t : State} {w : Who} {va : Word} {n key : Nat} {f : Nat → Option Nat}
    (ha : va.toNat % n = 0) (hr : Reaches s t w { write := true } .direct va n key) (hv : isVault key = false)
    (he : (t.serveEarlier w key n).earlierWaits w key n = false)
    (hp : ((t.serveEarlier w key n).poisonAt key n).2 = none)
    (hf : f (leNat (((t.serveEarlier w key n).poisonAt key n).1.fetchBytes key n)) = none) :
    UpdatesAs s ((t.serveEarlier w key n).poisonAt key n).1 w va n f
      (leNat (((t.serveEarlier w key n).poisonAt key n).1.fetchBytes key n)) := by
  intro k
  simp only [State.atomicDirect, ha, ne_eq, not_true_eq_false, if_false]
  rw [hr, State.atBank_other hv he, State.checkPoison_none hp]
  simp only [hf]

/-- No scale words are read; one more is read before the others. -/
theorem State.scales_none {s : State} {w : Who} {base : Word} {acc : List Nat} (k : List Nat → State → Effect) :
    s.readScales w base 0 acc k = k acc s := rfl
theorem State.scales_one {s t : State} {w : Who} {base : Word} {x : Nat} (h : LoadsAs s t w base 8 x) :
    ScalesAs s t w base 1 [x] := by
  intro k
  have e : base + BitVec.ofNat 64 (8 * ([] : List Nat).length) = base := by simp
  simp only [State.readScales, e]
  exact h _ _

/-- A release that finds no operation it covers goes on once the covered writes are performed. -/
theorem State.releases {s : State} {w : Who} {sc : Scope}
    (hf : (s.flush w (scopeDirect sc w.core)).flushed w (scopeDirect sc w.core) = true)
    (h : ((s.flush w (scopeDirect sc w.core)).ctx w).remote = []) : Releases s (s.flush w (scopeDirect sc w.core)) w sc := by
  intro k
  simp [State.release, h, hf]

/-- The release of an object likewise. -/
theorem State.releases_object {s : State} {w : Who} {regions : List (Nat × Nat)}
    (hf : (s.flush w (fun r => meets regions r.va.toNat r.size)).flushed w (fun r => meets regions r.va.toNat r.size) = true)
    (h : ((s.flush w (fun r => meets regions r.va.toNat r.size)).ctx w).remote = []) :
    ReleasesObject s (s.flush w (fun r => meets regions r.va.toNat r.size)) w regions := by
  intro k
  simp [State.releaseObject, h, hf]

/-- A member's handle finds its record. -/
theorem State.member {s : State} {w : Who} {n : Nat} {x : Group} (hz : (s.h w n).value ≠ 0) (hk : (s.h w n).kind = .member)
    (hx : (s.unitFirst w.core (unitOfHandle (s.h w n).value)).recordOf
      ((s.unitFirst w.core (unitOfHandle (s.h w n).value)).asid w.core) (s.h w n).value = some x) :
    Member s (s.unitFirst w.core (unitOfHandle (s.h w n).value)) w n (ridOf (s.h w n).value)
      ((s.unitFirst w.core (unitOfHandle (s.h w n).value)).h w n) x := by
  intro k
  simp only [State.checkHandle, hz, hk, ne_eq, not_true_eq_false, or_self, if_false, hx]

/-- The word of a join in the own scratchpad of a part of the job is found, and holds more than zero. -/
theorem State.joins_word {s t : State} {w : Who} {va : Word} {off : Nat} (ha : va.toNat % 8 = 0)
    (hl : Locates s t w { write := true } va (.scratch w.core off)) (hs : t.isSaving w.core = false)
    (hu : (t.isUser w && inShadow off 8) = false) (hj : (t.sameJob w.core w.core).1 = true) {u : State} (ht : u = t.unhold w)
    {key : Nat} (hk : key = spKey w.core off) (hh : isHere key = true) (hv : 0x10000000 ≤ keyOff key)
    (he : (u.serveEarlier w key 8).earlierWaits w key 8 = false) (hp : ((u.serveEarlier w key 8).poisonAt key 8).2 = none)
    (hw : ((u.serveEarlier w key 8).poisonAt key 8).1.word key ≠ 0) :
    JoinsAt s ((u.serveEarlier w key 8).poisonAt key 8).1 w va key := by
  intro k
  have e : decide (t.sameJob w.core w.core = (false, false)) = false :=
    decide_eq_false (fun h => by rw [h] at hj; exact Bool.noConfusion hj)
  have hr : refuse .remote w.core w.isHandler (.scratch w.core off) = none := by simp [refuse]
  generalize hq : (u.serveEarlier w key 8).poisonAt key 8 = q at hp hw ⊢
  obtain ⟨v, o⟩ := q
  subst hp
  simp only [State.joinWord, ha, ne_eq, not_true_eq_false, if_false]
  rw [hl]
  simp only [State.noPart, e, Bool.false_eq_true, if_false, State.reachLoc, hr, State.isHeld_own, hs, false_or, false_and,
    hu, Bool.true_and, Loc.key, ← hk, ← ht, ne_eq, not_true_eq_false]
  simp only [hh, Nat.not_lt.mpr hv, decide_eq_true_eq, Bool.not_true, Bool.false_eq_true, if_false]
  rw [State.afterEarlier_goes he _ _]
  simp only [hq]
  rw [if_neg hw]

/-- A word of the own scratchpad without poison is read. -/
theorem State.owns_word {s : State} {w : Who} {va tval : Word} {pa off : Nat}
    (hi : ¬ (va.toNat / 2 ^ 32 = 0x1FFFFFF ∧
      s.translate (.ctx w) w.core (s.asid w.core) (s.pl w) {} va.toNat = .fault cTranslation))
    (hx : s.resolve (.ctx w) w.core (s.asid w.core) (s.pl w) {} va.toNat = .ok pa)
    (hl : (s.arrived w va).locate pa = .scratch w.core off)
    (hk : isSp (spKey w.core off) = true ∧ keyCore (spKey w.core off) = w.core)
    (hp : ((s.arrived w va).poisonAt (spKey w.core off) 8).2 = none) (k : Option Word → State → Effect) :
    s.ownWord w va tval k = k (some (((s.arrived w va).poisonAt (spKey w.core off) 8).1.word (spKey w.core off)))
      ((s.arrived w va).poisonAt (spKey w.core off) 8).1 := by
  rw [State.ownWord]
  simp only [if_neg hi, State.locates hx, hl]
  have e : (Loc.scratch w.core off).key = spKey w.core off := rfl
  rw [e]
  generalize spKey w.core off = key at hk hp ⊢
  generalize hq : (s.arrived w va).poisonAt key 8 = q at hp ⊢
  obtain ⟨v, o⟩ := q
  subst hp
  rw [if_pos hk]

/-- What reading descriptor words comes to where all lie in the own scratchpad and are free of poison. -/
def State.descWords (w : Who) (va : Word) (from_ : Nat) : List (Nat × Nat) → Store Word → State → Option (Store Word × State)
  | [], m, s => some (m, s)
  | (dim, j) :: rest, m, s =>
    if dim < from_ ∧ m.any (fun p => decide (p.1 = j)) then State.descWords w va from_ rest m s
    else
      let a := va + BitVec.ofNat 64 (8 * j)
      if a.toNat / 2 ^ 32 = 0x1FFFFFF ∧ s.translate (.ctx w) w.core (s.asid w.core) (s.pl w) {} a.toNat = .fault cTranslation then none
      else
      match s.resolve (.ctx w) w.core (s.asid w.core) (s.pl w) {} a.toNat with
      | .ok pa =>
        match (s.arrived w a).locate pa with
        | .scratch c off =>
          let p := (s.arrived w a).poisonAt (spKey w.core off) 8
          if c = w.core ∧ (isSp (spKey w.core off) = true ∧ keyCore (spKey w.core off) = w.core) ∧ p.2 = none then
            State.descWords w va from_ rest (m.set j (p.1.word (spKey w.core off))) p.1
          else none
        | _ => none
      | _ => none

/-- Reading them goes on to what ends the issue (R464). -/
theorem State.readDesc_done {w : Who} {va : Word} {from_ : Nat} : ∀ (l : List (Nat × Nat)) (m : Store Word) (s : State)
    (m' : Store Word) (t : State), State.descWords w va from_ l m s = some (m', t) →
    ∀ k u, k m' t = .done u → State.readDesc w va from_ l m s k = .done u := by
  intro l
  induction l with
  | nil =>
    intro m s m' t h k u hu
    simp only [State.descWords, Option.some.injEq, Prod.mk.injEq] at h
    simpa only [State.readDesc, h.1, h.2] using hu
  | cons p rest ih =>
    obtain ⟨dim, j⟩ := p
    intro m s m' t h
    simp only [State.descWords] at h
    split at h
    · next hn =>
      intro k u hu
      simp only [State.readDesc, hn, if_true, and_self]
      exact ih _ _ _ _ h k u hu
    · next hn =>
      split at h
      · exact absurd h (by simp)
      next hi =>
      split at h
      · next pa hx =>
        split at h
        · next c off hl =>
          split at h
          · next hc =>
            obtain ⟨rfl, hk, hp⟩ := hc
            intro k u hu
            simp only [State.readDesc, if_neg hn]
            rw [State.owns_word hi hx hl hk hp]
            dsimp only
            rw [ih _ _ _ _ h k u hu]
            rfl
          · exact absurd h (by simp)
        · exact absurd h (by simp)
      · exact absurd h (by simp)

end Sys2Proof.Machine
end

