-- ==== Sys2Proof/Tests/Slice0.lean ====
section
/-! SUPPORT. Tests: the spec's example words decode to their instructions, ill-formed instructions are refused, small steps
give what the spec's examples give, and witnesses that the hypotheses of the statements can be met. -/

namespace Sys2Proof.Tests
open Machine

set_option Elab.async false

/-! ## Small states -/

/-- A context at supervisor privilege with some `g` registers. -/
def ctxWith (g : List (Nat × Word)) : Ctx :=
  { Ctx.fresh 0 with live := true, pc := 0x1000, status := { pl := 1 }, regs := { g } }

/-- The machine after reset, with core 0's control context as given. -/
def with0 (c : Ctx) (f : Core → Core := id) : State :=
  { State.reset with cores := [(0, f { part := { ctxs := [(0, c)] } })] }

/-- With some `g` registers alone. -/
def withG (g : List (Nat × Word)) : State := with0 (ctxWith g)

/-- A machine whose core 0 runs part 0 of job 7, which has one part. -/
def job7 : Running := { job := 7, asid := 0, index := 0, count := 1, domain := 0, tier := 0, notify := false, since := 0,
                        preempting := false }

/-- The address of an offset in the own scratchpad (R139). -/
def spVa (off : Nat) : Word := BitVec.ofNat 64 (ownAperture + off)

theorem ready_with0 (i : Instr) (c : Ctx) (f : Core → Core)
    (h : ((with0 c f).ctx ⟨0, 0⟩).status.pl ≠ 0 ∧ ((with0 c f).ctx ⟨0, 0⟩).status.hzd = false) : Ready i (with0 c f) :=
  ready_of_privileged rfl h.1 h.2

/-- Every form can be ready, at every value of the `g` registers. -/
theorem witness_ready (i : Instr) (g : List (Nat × Word)) : Ready i (withG g) :=
  ready_with0 i _ _ ⟨by show (1 : BitVec 2) ≠ 0; decide, rfl⟩

/-! ## Witnesses for the hypotheses of the statements -/

theorem witness_IntegerBitsAndComparisons : 0 + 64 ≤ 64 ∧ 63 + 1 ≤ 64 ∧ 63 < 64 := by decide

theorem witness_ScalarFpForms : (Fp.f32.value 0x7FC00000).isNan = true ∧ (Fp.f32.value 0x7F800001).isNan = true := by
  decide

theorem witness_ResultDistances : (Ctx.fresh 0).Timely ∧ (Ctx.fresh 0).hold.flights = [] ∧ 2 ≤ 4 ∧ 31 ≠ 0 := by
  refine ⟨fun f hf => ?_, rfl, by decide, by decide⟩
  cases hf

/-- A context with a result of `g1` three instructions ahead. -/
def ahead (hzd : Bool) : State :=
  with0 { ctxWith [] with status := { pl := 1, hzd }, hold := { flights := [{ left := 3, write := some (.g 1 5) }] } }

theorem witness_HazardsAndFixedRegisters :
    let w : Who := ⟨0, 0⟩
    w.returnsAt (.add 2 1 1) = false ∧ (Instr.add 2 1 1).supervisorOnly = false ∧
    (ahead true).hazard w (.add 2 1 1) = some (.g 1) ∧ ((ahead true).ctx w).status.hzd = true ∧
    RegName.g 1 ∈ (Instr.add 2 1 1).reads ∧ ((ahead true).own.ctx w).hold.inFlight (.g 1) = true ∧
    ((ahead false).ctx w).status.hzd = false := by decide

theorem witness_RegisterFormFrame : (Instr.add 3 1 2).resultReg = some (.g 3) ∧ Ready (.add 3 1 2) (withG []) ∧
    ∃ t, exec (.add 3 1 2) (withG []) = .next t := ⟨rfl, witness_ready _ _, _, rfl⟩

theorem witness_BranchesAndGuards :
    ((withG [(1, 0x2000)]).own.g ⟨0, 0⟩ 1).toNat % 8 = 0 ∧ ((withG [(1, 0x2001)]).own.g ⟨0, 0⟩ 1).toNat % 8 ≠ 0 := by
  decide

/-- A loop that ends at 0x2000 with a count. -/
def loopOf (count : BitVec 32) (active : Bool) : Loop := { count, active, first := 0x1008, last := 0x2000 }

theorem witness_LoopEndCheck :
    let c := fun (a b : Loop) => ({ Ctx.fresh 0 with lc0 := a, lc1 := b } : Ctx)
    ((c (loopOf 3 true) (loopOf 2 true)).lc1.active = true ∧ (c (loopOf 3 true) (loopOf 2 true)).lc1.count ≠ 0) ∧
    ((c (loopOf 3 true) (loopOf 0 false)).lc1.active = false ∧ (c (loopOf 3 true) (loopOf 0 false)).lc0.count ≠ 0) ∧
    (loopOf 0 true).count = 0 := by decide

theorem witness_LoopsOpenAndClose :
    let s := withG [(2, 0), (3, 5)]
    let x := s.own.ctx ⟨0, 0⟩
    (s.own.g ⟨0, 0⟩ 2 = 0 ∧ s.own.g ⟨0, 0⟩ 3 ≠ 0 ∧ s.own.g ⟨0, 0⟩ 3 ≤ 0xFFFFFFFF#64) ∧
    (x.pc + 8 < x.pc + BitVec.ofInt 64 (8 * 4) ∧ (x.loop 0).active = false ∧ x.lc1.active = false ∧
      (x.loop 1).active = false ∧ x.lc0.active = false) ∧
    (((with0 { ctxWith [] with lc0 := loopOf 3 true, lc1 := loopOf 0 true }).own.ctx ⟨0, 0⟩).loop 0).active = true ∧
    (((with0 { ctxWith [] with lc0 := loopOf 3 true, lc1 := loopOf 0 true }).own.ctx ⟨0, 0⟩).loop 1).active = true := by
  decide

/-- A context that has called once: one return address on its shadow stack. -/
def called (link : Word) : State :=
  let s := with0 { ctxWith [(31, link)] with trap := { ssp := shadowBase 0 + 8, sslim := shadowBase 0 + 0x200 } }
  { s with memory := s.memory.writeBytes (spKey 0 0x7B000) (natLE 8 0x1008) }

theorem witness_CallsAndReturns :
    (let x := (withG []).own.ctx ⟨0, 0⟩
     x.trap.ssp ≠ x.trap.sslim ∧ x.trap.ssp.toNat = ownAperture + 0x7B000 ∧ 0x7B000 < 0x80000 ∧
     x.trap.ssp = x.trap.sslim - 0x200) ∧
    (let s := called 0x1008
     let x := s.own.ctx ⟨0, 0⟩
     let u := s.own.serveEarlier ⟨0, 0⟩ (spKey 0 0x7B000) 8
     x.trap.ssp ≠ x.trap.sslim - 0x200 ∧ (x.trap.ssp - 8).toNat = ownAperture + 0x7B000 ∧
     u.poisoned (spKey 0 0x7B000) = false ∧ u.word (spKey 0 0x7B000) = s.own.g ⟨0, 0⟩ 31 ∧
     (u.word (spKey 0 0x7B000)).toNat % 8 = 0 ∧ u.word (spKey 0 0x7B000) ≠ (called 0x1010).own.g ⟨0, 0⟩ 31) := by decide

theorem witness_CallsAndReturns_full :
    let s := with0 { ctxWith [] with trap := { ssp := shadowBase 0 + 0x200, sslim := shadowBase 0 + 0x200 } }
    (s.own.ctx ⟨0, 0⟩).trap.ssp = (s.own.ctx ⟨0, 0⟩).trap.sslim := by decide

/-- A task. -/
def anyTask : TaskRecord := { pc := 0x3000, args := [1, 2, 3, 4], stackless := false, join := 0, pl := 0 }

/-- A helper's state: context 1 of core 0 in focus. -/
def helper : State :=
  { State.reset with
    cores := [(0, { part := { ctxs := [(0, ctxWith []), (1, { ctxWith [] with trap := (Ctx.fresh 1).trap })] } })]
    focus := ⟨0, 1⟩ }

theorem witness_TasksStartAndEnd :
    ((withG []).own.core 0).part.deque.length < 32 ∧
    32 ≤ ((with0 (ctxWith []) (fun c => { c with part := { c.part with deque := List.replicate 32 anyTask } })).own.core
      0).part.deque.length ∧
    (withG []).own.freeHelper 0 = some 1 ∧
    (helper.own.ctx ⟨0, 1⟩).status.intrap = false ∧ (helper.own.ctx ⟨0, 1⟩).reply = none ∧
    helper.own.shadowEmpty ⟨0, 1⟩ = true ∧ ((withG []).own.core 0).part.mail.anyPresent = false ∧
    ((withG []).own.ctx ⟨0, 0⟩).hold.anyPending = false ∧ (helper.own.ctx ⟨0, 1⟩).hold.joinAt = none := by decide

/-- Context `slot` of core 0, in job 7, at a join of the word at 0x100, which holds `n` and is full or not; `frames` says that
its shadow stack has one entry, whose word is `top`. -/
def joiner (slot n : Nat) (full : Bool) (frames : Bool := false) (top : Nat := 0) : State :=
  let ctx := fun (k : Nat) => { ctxWith [(2, spVa 0x100)] with
    trap := { (Ctx.fresh k).trap with ssp := (Ctx.fresh k).trap.ssp + (if frames then 8 else 0) } }
  { State.reset with
    cores := [(0, { part := { ctxs := [(0, ctx 0), (1, ctx 1)] }, run := some job7, jobId := 7 })]
    memory := ((State.reset.memory.writeBytes (spKey 0 0x100) (natLE 8 n)).writeBytes
      (spKey 0 (0x7B000 + 0x200 * slot)) (natLE 8 top)).setFull (spKey 0 0x100) full
    focus := ⟨0, slot⟩ }

/-- The word of a joiner is found, and what the join leaves behind. -/
def FindsWord (slot n : Nat) (full frames : Bool) (top : Nat) : Prop :=
  let o := (joiner slot n full frames top).own
  let w : Who := ⟨0, slot⟩
  ∃ u v, Releases o u w (o.taskScope 0) ∧ (∀ k, u.joinWord w (o.g w 2) k = k (spKey 0 0x100) v) ∧
    (let z := (v.modHold w (fun h => { h with joinAt := none })).lower (spKey 0 0x100)
     z.word (spKey 0 0x100) = BitVec.ofNat 64 (n - 1) ∧ z.memory.isFull (spKey 0 0x100) = full ∧ z.shadowEmpty w = !frames ∧
       (z.serveEarlier w (spKey 0 0x7B000) 8).poisoned (spKey 0 0x7B000) = false)

theorem finds_last : FindsWord 1 1 true false 0 :=
  ⟨_, _, State.releases (by decide) (by decide),
    State.joins_word (off := 0x100) (by decide) (State.locates_at (pa := 0x10000100) (by decide) (by decide)) (by decide) (by decide)
      (by decide) rfl rfl (by decide) (by decide) (by decide) (by decide) (by decide), by decide⟩

theorem finds_waited : FindsWord 1 1 false false 0 :=
  ⟨_, _, State.releases (by decide) (by decide),
    State.joins_word (off := 0x100) (by decide) (State.locates_at (pa := 0x10000100) (by decide) (by decide)) (by decide) (by decide)
      (by decide) rfl rfl (by decide) (by decide) (by decide) (by decide) (by decide), by decide⟩

theorem finds_more : FindsWord 1 2 true false 0 :=
  ⟨_, _, State.releases (by decide) (by decide),
    State.joins_word (off := 0x100) (by decide) (State.locates_at (pa := 0x10000100) (by decide) (by decide)) (by decide) (by decide)
      (by decide) rfl rfl (by decide) (by decide) (by decide) (by decide) (by decide), by decide⟩

theorem finds_inline : FindsWord 0 1 true true 0x1009 :=
  ⟨_, _, State.releases (by decide) (by decide),
    State.joins_word (off := 0x100) (by decide) (State.locates_at (pa := 0x10000100) (by decide) (by decide)) (by decide) (by decide)
      (by decide) rfl rfl (by decide) (by decide) (by decide) (by decide) (by decide), by decide⟩

theorem finds_inline_more : FindsWord 0 2 true true 0x1009 :=
  ⟨_, _, State.releases (by decide) (by decide),
    State.joins_word (off := 0x100) (by decide) (State.locates_at (pa := 0x10000100) (by decide) (by decide)) (by decide) (by decide)
      (by decide) rfl rfl (by decide) (by decide) (by decide) (by decide) (by decide), by decide⟩

theorem finds_root : FindsWord 0 1 true true 0x1008 :=
  ⟨_, _, State.releases (by decide) (by decide),
    State.joins_word (off := 0x100) (by decide) (State.locates_at (pa := 0x10000100) (by decide) (by decide)) (by decide) (by decide)
      (by decide) rfl rfl (by decide) (by decide) (by decide) (by decide) (by decide), by decide⟩

/-- A join that a trap withdrew while it waited. -/
def rejoiner : State := (joiner 1 1 false).modHold ⟨0, 1⟩ (fun h => { h with joinAt := some (0x1000, spVa 0x100) })

theorem witness_TaskEndsAndJoins :
    (∀ full, ((joiner 1 1 full).own.ctx ⟨0, 1⟩).hold.joinAt = none) ∧
    (∀ top ∈ [0x1009, 0x1008], let o := (joiner 0 1 true true top).own
      let u := o.serveEarlier ⟨0, 0⟩ (spKey 0 0x7B000) 8
      o.shadowEmpty ⟨0, 0⟩ = false ∧ ((o.ctx ⟨0, 0⟩).trap.ssp - 8).toNat = ownAperture + 0x7B000 ∧ u = o ∧
        u.poisoned (spKey 0 0x7B000) = false ∧ u.word (spKey 0 0x7B000) = BitVec.ofNat 64 top ∧
        (o.ctx ⟨0, 0⟩).hold.joinAt = none) ∧
    (joiner 0 1 true).own.shadowEmpty ⟨0, 0⟩ = true ∧
    ((rejoiner.own.ctx ⟨0, 1⟩).hold.joinAt = some ((rejoiner.own.ctx ⟨0, 1⟩).pc, rejoiner.own.g ⟨0, 1⟩ 2) ∧
      ∃ v, Reaches rejoiner.own v ⟨0, 1⟩ { write := true } .remote (rejoiner.own.g ⟨0, 1⟩ 2) 8 (spKey 0 0x100)) :=
  ⟨by decide, by decide +kernel, by decide, by decide,
    ⟨_, State.reaches_scratch (pa := 0x10000100) (off := 0x100) (by decide) (by decide) (by decide)
      (by decide) (by decide)⟩⟩

theorem witness_TrapEntry :
    (withG []).trapEntry ⟨0, 0⟩ = (withG []).firmwareVector ∧
    (let s := with0 (ctxWith []) (fun c => { c with part := { c.part with regs := { tvec := 0x4000 } } })
     s.trapEntry ⟨0, 0⟩ = 0x4000 ∧ (s.ctx ⟨0, 0⟩).pc ≠ s.trapEntry ⟨0, 0⟩) ∧
    (let s := with0 (ctxWith []) (fun c => { c with part := { c.part with regs := { tvec := 0x1000 } } })
     (s.ctx ⟨0, 0⟩).pc = s.trapEntry ⟨0, 0⟩) := ⟨rfl, by decide, by decide⟩

theorem witness_SretReturns :
    ((with0 { ctxWith [] with status := { pl := 1, intrap := true } }).own.ctx ⟨0, 0⟩).status.intrap = true ∧
    ((withG []).own.ctx ⟨0, 0⟩).status.intrap = false ∧
    (let x := ((with0 { ctxWith [] with status := { pl := 1, ppl := 2 } }).own.ctx ⟨0, 0⟩).status
     x.pl < x.ppl) := by decide

theorem witness_SystemCallsAndPrivilege :
    (let s := with0 (ctxWith []) (fun c => { c with part := { c.part with regs := { tvec := 0x4000 } } })
     s.focus.isHandler = false ∧ (s.own.ctx ⟨0, 0⟩).pc ≠ s.own.trapEntry ⟨0, 0⟩) ∧
    (Instr.sret.supervisorOnly = true ∧ (with0 { ctxWith [] with status := {} }).pl ⟨0, 0⟩ = 0) := by decide

theorem witness_VectorElements : ElemType.i8.fp = none ∧ ElemType.bf16.fp = some Fp.bf16 ∧
    ((withG []).own.core 0).marks.upsets = [] ∧ 63 < 64 := ⟨rfl, rfl, rfl, by decide⟩

/-- A machine whose own scratchpad word at 0x100 is written, with its address in `g1` and in `g2` the address at 0x200. -/
def scratch : State :=
  let s := withG [(1, spVa 0x100), (2, spVa 0x200), (4, 1), (7, 0x55667788)]
  { s with memory := s.memory.writeBytes (spKey 0 0x100) (natLE 8 0x1122334455667788) }

/-- The word at 0x100 is reached. -/
theorem scratch_reaches (wr : Bool) (r : Reach) (n : Nat) (hr : r = .direct ∨ r = .fullEmpty ∨ r = .copy) :
    Reaches scratch.own (scratch.own.reached ⟨0, 0⟩ (spVa 0x100)) ⟨0, 0⟩ { write := wr } r (spVa 0x100) n
      (spKey 0 0x100) := by
  refine State.reaches_scratch (pa := 2 ^ 28 + 0x100) ?_ (by decide) ?_ (by decide) ?_
  · cases wr <;> decide
  · rcases hr with rfl | rfl | rfl <;> decide
  · have h : (scratch.own.arrived ⟨0, 0⟩ (spVa 0x100)).isUser ⟨0, 0⟩ = false := by decide
    rw [h]
    cases wr <;> rfl

theorem scratch_loads : ∃ u, LoadsAs scratch.own u ⟨0, 0⟩ (spVa 0x100) 8 0x1122334455667788 :=
  ⟨_, State.loads (by decide) (scratch_reaches false .direct 8 (.inl rfl)) (by decide) (by decide) (by decide)⟩

theorem witness_VectorConversionsAndReductions :
    ∃ u, ScalesAs scratch.own u ⟨0, 0⟩ (scratch.own.g ⟨0, 0⟩ 1) 1 [0x1122334455667788] ∧ (u.core 0).marks.upsets = [] :=
  ⟨_, State.scales_one (State.loads (by decide) (scratch_reaches false .direct 8 (.inl rfl)) (by decide) (by decide) (by decide)),
    by decide⟩

/-- An offset of the own scratchpad at which `scratch` is quiet. -/
theorem quiet_scratch (off n : Nat) (h : off + n ≤ 0x80000) (ha : (spVa off).toNat = ownAperture + off)
    (hn : (spVa off).toNat % n = 0) : QuietScratch scratch.own ⟨0, 0⟩ (spVa off) n off := by
  refine ⟨⟨ha, h, by decide, by decide, by decide⟩, hn, ?_, rfl, rfl, rfl⟩
  · intro j hj
    have h1 : isSp (spKey 0 (off + j)) = true := by
      simp only [isSp, isHere, spKey, coreKey, keyCore, keyOff, Bool.and_eq_true]
      refine ⟨⟨decide_eq_true ?_, decide_eq_true ?_⟩, decide_eq_true ?_⟩ <;> omega
    simp only [Memory.marked, h1, if_true]
    exact decide_eq_false (fun h => by cases h)

theorem scratch_loads_register : ∃ u x, LoadsAs scratch.own u ⟨0, 0⟩ (spVa 0x100) 256 x :=
  ⟨_, _, State.loads (by decide) (scratch_reaches false .direct 256 (.inl rfl)) (by decide) (by decide) (by decide)⟩

theorem witness_VectorMemoryForms :
    (∃ u x, LoadsAs scratch.own u ⟨0, 0⟩ (scratch.own.g ⟨0, 0⟩ 1 + BitVec.ofInt 64 0) 256 x) ∧
    (∃ u key, Reaches scratch.own u ⟨0, 0⟩ { write := true } .direct (scratch.own.g ⟨0, 0⟩ 1 + BitVec.ofInt 64 0) 256 key) ∧
    (scratch.own.g ⟨0, 0⟩ 1 + BitVec.ofInt 64 0).toNat % 256 = 0 ∧ ElemType.i32.bits = 32 ∧
    (∀ k < 64, QuietScratch scratch.own ⟨0, 0⟩ (scratch.own.g ⟨0, 0⟩ 1 + BitVec.ofNat 64 k * scratch.own.g ⟨0, 0⟩ 4) 1
      (0x100 + k)) ∧
    (∀ k < 64, 0 ≤ k → QuietScratch scratch.own ⟨0, 0⟩ (laneVa (scratch.own.g ⟨0, 0⟩ 1) (scratch.own.v ⟨0, 0⟩ 5) k) 4 0x100) := by
  have h : scratch.own.g ⟨0, 0⟩ 1 + BitVec.ofInt 64 0 = spVa 0x100 := by decide
  rw [h]
  refine ⟨scratch_loads_register, ⟨_, _, scratch_reaches true .direct 256 (.inl rfl)⟩, by decide, rfl, ?_, ?_⟩
  · intro k hk
    have : ∀ k < 64, scratch.own.g ⟨0, 0⟩ 1 + BitVec.ofNat 64 k * scratch.own.g ⟨0, 0⟩ 4 = spVa (0x100 + k) ∧
      (spVa (0x100 + k)).toNat = ownAperture + (0x100 + k) := by decide
    rw [(this k hk).1]
    exact quiet_scratch _ _ (by omega) (this k hk).2 (Nat.mod_one _)
  · intro k hk _
    have : ∀ k < 64, laneVa (scratch.own.g ⟨0, 0⟩ 1) (scratch.own.v ⟨0, 0⟩ 5) k = spVa 0x100 := by decide +kernel
    rw [this k hk]
    exact quiet_scratch _ _ (by decide) (by decide) (by decide)

/-- The own vault's row at 0x1000, through the firmware window. -/
def vaultRow : State := with0 { ctxWith [(1, 0x1C0000000001000)] with status := { pl := 2 } }

theorem witness_ScalarMemoryForms :
    (∃ u, LoadsAs scratch.own u ⟨0, 0⟩ (spVa 0x100) 8 0x1122334455667788) ∧
    (∃ u, StoresAs scratch.own u ⟨0, 0⟩ (spVa 0x100) (natLE 4 7)) ∧
    (∃ u key, Reaches vaultRow.own u ⟨0, 0⟩ {} .row (vaultRow.own.g ⟨0, 0⟩ 1) 1 key) ∧
    (∃ u, UpdatesAs scratch.own u ⟨0, 0⟩ (spVa 0x100) 4 (fun x => some (amoResult .add 32 x 1)) 0x55667788) ∧
    (∃ u, UpdatesAs scratch.own u ⟨0, 0⟩ (spVa 0x100) 4 (fun x => if x = 0 then some 1 else none) 0x55667788) :=
  ⟨scratch_loads, ⟨_, State.stores (by decide) (scratch_reaches true .direct _ (.inl rfl))⟩,
    ⟨_, _, State.reaches_vault (pa := 0x1000) (off := 0x1000) (by decide) (by decide) (by decide)⟩,
    ⟨_, State.updates (x := 0x55667789) (by decide) (scratch_reaches true .direct 4 (.inl rfl)) (by decide) (by decide)
      (by decide) (by decide) rfl⟩,
    ⟨_, State.updates_nothing (by decide) (scratch_reaches true .direct 4 (.inl rfl)) (by decide) (by decide) (by decide)
      (by decide)⟩⟩

theorem witness_ScratchpadAccesses : OwnScratch scratch.own ⟨0, 0⟩ (spVa 0x100) 8 0x100 ∧
    QuietScratch scratch.own ⟨0, 0⟩ (spVa 0x100) 8 0x100 ∧ scratch.own.memory.wf = true ∧ (natLE 8 7).length = 8 :=
  have h := quiet_scratch 0x100 8 (by decide) (by decide) (by decide)
  ⟨h.1, h, by decide, rfl⟩

theorem witness_MisalignedAccessTraps :
    ((withG [(1, 0x101)]).own.g ⟨0, 0⟩ 1 + BitVec.ofInt 64 0).toNat % Width.h.bytes ≠ 0 ∧
    ((withG [(1, 0x104)]).own.g ⟨0, 0⟩ 1).toNat % AtomWidth.d.bytes ≠ 0 ∧
    ((withG [(1, 0x104)]).own.g ⟨0, 0⟩ 1 + BitVec.ofInt 64 0).toNat % 8 ≠ 0 ∧
    ((withG [(1, 0x180)]).own.g ⟨0, 0⟩ 1 + BitVec.ofInt 64 0).toNat % 256 ≠ 0 := by decide

/-- A full/empty operation that waits at the word at 0x100. -/
def waiting (i : Instr) : FeWait := { key := spKey 0 0x100, who := ⟨0, 0⟩, instr := i, va := spVa 0x100, value := 5 }

theorem witness_FullEmptyForms :
    (scratch.own.g ⟨0, 0⟩ 1 + BitVec.ofInt 64 0).toNat % 8 = 0 ∧
    (∃ u key, Reaches scratch.own u ⟨0, 0⟩ { write := true } .fullEmpty (scratch.own.g ⟨0, 0⟩ 1 + BitVec.ofInt 64 0) 8 key ∧
      ∃ v, ReleasesObject u v ⟨0, 0⟩ (u.wordRegions (u.asid 0) key)) ∧
    (∃ u key, Reaches scratch.own u ⟨0, 0⟩ {} .fullEmpty (scratch.own.g ⟨0, 0⟩ 1 + BitVec.ofInt 64 0) 8 key) ∧
    scratch.memory.isFull (waiting (.ldf 3 1 0)).key = false ∧
    (scratch.setFull (spKey 0 0x100) true).memory.isFull (waiting (.ldfe 3 1 0)).key = true ∧
    (scratch.setFull (spKey 0 0x100) true).poisoned (waiting (.ldfe 3 1 0)).key = false ∧
    (scratch.setFull (spKey 0 0x100) true).memory.wf = true ∧
    isSp (waiting (.stef 1 0 2)).key = true ∧ (waiting (.stef 1 0 2)).key % 8 = 0 :=
  ⟨by decide, ⟨_, _, scratch_reaches true .fullEmpty 8 (.inr (.inl rfl)), _, State.releases_object (by decide) (by decide)⟩,
    ⟨_, _, scratch_reaches false .fullEmpty 8 (.inr (.inl rfl))⟩, by decide, by decide, by decide, by decide, by decide, by decide⟩

/-- A request of a context of core 0 for a key. -/
def request (key : Nat) : Req := { kind := .store, who := ⟨0, 0⟩, gen := 0, va := 0, key, bytes := natLE 8 5 }

theorem witness_StoresArePerformed :
    (isSp (spKey 0 0x100) = true ∧ spKey 0 0x100 % 8 + (natLE 4 7).length ≤ 8 ∧ 0 < (natLE 4 7).length ∧
      State.reset.memory.wf = true ∧ State.reset.memory.marked (spKey 0 0x100) = false ∧
      (State.reset.memory.mark (spKey 0 0x100)).wf = true ∧
      (State.reset.memory.mark (spKey 0 0x100)).marked (spKey 0 0x100) = true ∧ (natLE 4 7).length < 8) ∧
    (let s := with0 (ctxWith []) (fun c => { c with requests := [request (spKey 0 0x100)] })
     s.agentOn = true ∧ (s.core 0).requests = [request (spKey 0 0x100)]) ∧
    (let f := fun (b : BankBusy) => with0 (ctxWith []) (fun c => { c with
       vaultRequests := [request (coreKey 0 0x1000)], vault := { banks := [(0, { busy := b })] } })
     (f .idle).agentOn = true ∧ (f .idle).bankBusy 0 0x1000 = false ∧ ((f .idle).bank 0 0).waiting = [] ∧
     (f .refresh).agentOn = true ∧ (f .refresh).bankBusy 0 0x1000 = true ∧ ((f .refresh).bank 0 0).waiting = []) ∧
    (let f := fun (r : Req) => ({ with0 (ctxWith []) (fun c => { c with requests := [r, request (spKey 0 0x108)] }) with
       units := [(0, { words := [(0, spKey 0 0x100, 0x1000, 0x1040)] })] } : State)
     let r := { request (spKey 0 0x100) with kind := .storeFull, no := 2, va := 0x1000 }
     (f r).agentOn = true ∧ (f r).isBlocked r [] = false ∧ (f r).isBlocked { r with no := 3 } [] = true) ∧
    (let y : Waiting := { client := .ctx ⟨0, 0⟩, since := 3, off := 0x1000, len := 8, charged := ⟨0, 0⟩ }
     let r := { request (coreKey 0 0x1000) with since := 4 }
     let s := with0 (ctxWith []) (fun c => { c with vaultRequests := [r], vault := { banks := [(0, { waiting := [y] })] } })
     s.agentOn = true ∧ (s.core 0).vaultRequests = [r] ∧ y ∈ (s.bank 0 0).waiting ∧ y.since < r.since ∧
       s.stillWaits y.client = true ∧ r.kind ≠ .activate) := by
  decide

theorem witness_BanksAndRows :
    let f := fun (v : Vault) => with0 (ctxWith []) (fun c => { c with vault := v })
    (((f { banks := [(0, { row := some 2 })] }).bank 0 (bankOf 0x1000)).row = some (rowOf 0x1000)) ∧
    (((f {}).bank 0 (bankOf 0x1000)).row ≠ some (rowOf 0x1000) ∧ 0 + 1 < 4096) ∧
    (4096 ≤ ((f { counts := [(2, 4095)] }).core 0).vault.counts.get 0 (0 * 2048 + 2) + 1) ∧
    ((f { banks := [(0, { busy := .refresh })] }).bankBusy 0 0x1000 = true) ∧
    (let s := f { banks := [(0, { waiting := [{ client := .ctx ⟨0, 0⟩, since := 3, off := 0x1000, len := 8, charged := ⟨0, 0⟩ }] })], arrivals := 4 }
     s.turnAt 0 0 (.ctx ⟨0, 1⟩) = 4 ∧ s.behindOther 0 0 (.ctx ⟨0, 1⟩) 4 = true) ∧
    (let r := { request (coreKey 0 0x1000) with since := 3 }
     let v : Vault := { banks := [(0, { busy := .refresh })], arrivals := 4 }
     let s := with0 (ctxWith []) (fun c => { c with vaultRequests := [r], vault := v })
     ∃ r ∈ ((s.serveBank 0 0 (s.turnAt 0 0 (.ctx ⟨0, 0⟩))).core 0).vaultRequests, isVault r.key = true ∧
       bankOf (keyOff r.key) = 0 ∧ r.since < s.turnAt 0 0 (.ctx ⟨0, 0⟩)) ∧
    (let s := f {}
     let w : Who := ⟨0, 0⟩
     let u := s.serveBank 0 0 (s.turnAt 0 0 (.ctx w))
     s.behindOther 0 0 (.ctx w) (s.turnAt 0 0 (.ctx w)) = false ∧ s.bankBusy 0 0x1000 = false ∧ u.bankBusy 0 0x1000 = false ∧
       (u.core 0).vaultRequests = [] ∧ 8 ≤ 64) ∧
    (let s := f { banks := [(47, { due := some 5000 })] }
     let at_ := fun n => { s with dram := n }
     (at_ 5000).agentOn = true ∧ 47 < 48 ∧ ((at_ 5000).bank 0 47).busy = .idle ∧ (at_ 5000).bankDue 0 47 ≤ (at_ 5000).dram ∧
       ((at_ 5000).part 0).loads = [] ∧ (at_ 5000).soloHead 0 2 = none ∧ (at_ 4999).dram < (at_ 4999).bankDue 0 47) ∧
    (((f { banks := [(0, { busy := .targeted [1, 3] })] }).bank 0 0).busy = .targeted (1 :: [3]) ∧
      ((f { banks := [(0, { busy := .targeted [1, 3] })] }).bank 0 0).rowAt 1 = some 1) ∧
    ((f { banks := [(0, { busy := .refresh })] }).agentOn = true ∧ ((f { banks := [(0, { busy := .refresh })] }).bank 0 0).busy = .refresh) ∧
    (11 < 12 ∧ (State.reset.core 0).vault.throttled = []) ∧
    (5 < 12 ∧ ((f { throttled := [5] }).core 0).vault.throttled = [5] ∧ (f { throttled := [5] }).agentOn = true) := by decide

theorem witness_CommandsEnterTheirQueue :
    (Instr.mz 1 ⟨none, none⟩).plainCommand = true ∧ (withG []).own.room ⟨0, 0⟩ (.mz 1 ⟨some ⟨false, 2⟩, none⟩) ∧
    (Instr.cbcfg 1 0 2 true ⟨none, none⟩).isJoint = true ∧ (Instr.mz 1 ⟨none, none⟩).isJoint = false ∧
    (withG []).own.room ⟨0, 0⟩ (Instr.cbcfg 1 0 2 true ⟨none, none⟩) := by
  refine ⟨rfl, ⟨by decide, fun _ g hg => ?_, fun _ => by decide⟩, rfl, rfl, ⟨by decide, fun h => ?_, fun _ => by decide⟩⟩
  · cases hg
    decide
  · cases h

/-- A command without a guard finds room in an empty queue. -/
theorem room_empty {s : State} {w : Who} {i : Instr} (h : i.guard = none) (hr : s.hasRoom w i = true)
    (hf : (s.flushOwn w).ownWaits w = false) : s.room w i := by
  refine ⟨hr, ?_, fun _ => hf⟩
  intro _ g hg
  rw [h] at hg
  cases hg

/-- Bound tables: of 256 entries of 8 bits, and of 8,192 entries of 16 bits. -/
def table256 : Word := BitVec.ofNat 64 (2 ^ 63 + 2 ^ 58 + 256 * 2 ^ 33)
def table8192 : Word := BitVec.ofNat 64 (2 ^ 63 + 2 * 2 ^ 58 + 8192 * 2 ^ 33)

/-- A tile load of a stream. -/
def loadOf (c : Nat) : Instr := .tld .i8 c 1 2 3 4 ⟨none, none⟩

/-- A machine with a ring stream, a flat one and bound tables. -/
def engines : State := with0 { ctxWith [(1, 4095), (2, 4096), (3, 65535)] with
    regs := { g := [(1, 4095), (2, 4096), (3, 65535)], tb := [(1, table256), (2, table8192)] } }
  (fun c => { c with part := { c.part with streams := [(1, { ring := true, nslots := 2, resv := 1 }), (2, { nslots := 2 })] } })

theorem witness_CheckedCommandsEnterTheirQueue :
    (engines.own.room ⟨0, 0⟩ (.apRd 5 1 ⟨none, none⟩) ∧ (engines.own.g ⟨0, 0⟩ 1).toNat ≤ 4095) ∧
    (engines.own.room ⟨0, 0⟩ (.apWrr 1 5 ⟨none, none⟩) ∧ 4095 < (engines.own.g ⟨0, 0⟩ 2).toNat) ∧
    (engines.own.room ⟨0, 0⟩ (.apSweep 0 1 3 0 8 0 1 2 0 0 ⟨none, none⟩) ∧ (engines.own.g ⟨0, 0⟩ 3).toNat ≤ 65535) ∧
    (engines.own.room ⟨0, 0⟩ (loadOf 1) ∧ (engines.issuing (loadOf 1)).configuring 0 1 = false ∧
      ((engines.issuing (loadOf 1)).stream 0 1).ring = true ∧ ((engines.issuing (loadOf 1)).stream 0 1).resv < ((engines.issuing (loadOf 1)).stream 0 1).nslots) ∧
    ((engines.issuing (loadOf 2)).configuring 0 2 = false ∧ ((engines.issuing (loadOf 2)).stream 0 2).ring = false) ∧
    (tbBound ((engines.issuing (loadOf 1)).tb ⟨0, 0⟩ 1) = true ∧
      tableFits (.tqDot true 5 1 2 ⟨none, none⟩) ((engines.issuing (loadOf 1)).tb ⟨0, 0⟩ 1) = true ∧
      tableFits (.tqFnDir .u 5 1 2 ⟨none, none⟩) ((engines.issuing (loadOf 1)).tb ⟨0, 0⟩ 1) = true ∧
      tableFits (.tqFnSeg 5 1 2 ⟨none, none⟩) ((engines.issuing (loadOf 1)).tb ⟨0, 0⟩ 2) = true ∧
      tableFits (.tqLk .bf 5 1 2 ⟨none, none⟩) ((engines.issuing (loadOf 1)).tb ⟨0, 0⟩ 2) = true ∧
      tableFits (.tqPair true .u 5 1 2 3 ⟨none, none⟩) ((engines.issuing (loadOf 1)).tb ⟨0, 0⟩ 1) = true ∧
      tableFits (.tqLk .bf 5 1 2 ⟨none, none⟩) ((engines.issuing (loadOf 1)).tb ⟨0, 0⟩ 1) = false) ∧
    engines.own.room ⟨0, 0⟩ (.tqDot true 5 1 2 ⟨none, none⟩) ∧ tbBound ((engines.issuing (loadOf 1)).tb ⟨0, 0⟩ 3) = false :=
  ⟨⟨room_empty rfl (by decide) (by decide), by decide⟩, ⟨room_empty rfl (by decide) (by decide), by decide⟩,
    ⟨room_empty rfl (by decide) (by decide), by decide⟩, ⟨room_empty rfl (by decide) (by decide), by decide⟩, by decide,
    by decide, room_empty rfl (by decide) (by decide), by decide⟩

/-- A machine with one engine queue holding `n` commands of one form. -/
def queued (q n : Nat) (i : Instr) (c : Ctx := ctxWith []) : State :=
  with0 c (fun c => { c with part := { c.part with
    queues := [(q, { entries := List.replicate n (.cmd { instr := i, slot := 0, gen := 0, pc := 0, seq := 0 }) })]
    streams := [(1, { ring := true, nslots := 2, resv := 2 })] } })

theorem witness_FullQueuesAndRefusals :
    let cnt := Instr.apCnt 5 1 ⟨none, none⟩
    let cfg := Instr.cbcfg 1 0 2 true ⟨none, none⟩
    let ld := Instr.tld .i8 1 1 2 3 4 ⟨none, none⟩
    let held := with0 { ctxWith [] with regs := { q := [(2, .pending)] } }
    (cnt.eng.isSome = true ∧ (queued cnt.queueOf 8 cnt).own.queueFull 0 cnt.queueOf = true) ∧
    (cfg.isJoint = true ∧ (queued 0 16 cnt).own.queueFull 0 0 = true) ∧
    ((Instr.apCnt 5 1 ⟨some ⟨false, 2⟩, none⟩).ownsRegister = true ∧ held.own.hasRoom ⟨0, 0⟩ (.apCnt 5 1 ⟨some ⟨false, 2⟩, none⟩) = true ∧
      held.own.q ⟨0, 0⟩ 2 = .pending) ∧
    (engines.own.room ⟨0, 0⟩ (.apRd 5 2 ⟨none, none⟩) ∧ 4095 < (engines.own.g ⟨0, 0⟩ 2).toNat) ∧
    ((withG [(3, 65536)]).own.room ⟨0, 0⟩ (.apSweep 0 1 3 0 8 0 1 2 0 0 ⟨none, none⟩) ∧
      65535 < ((withG [(3, 65536)]).own.g ⟨0, 0⟩ 3).toNat) ∧
    ((queued 1 1 cfg).own.room ⟨0, 0⟩ ld ∧ ((queued 1 1 cfg).issuing ld).configuring 0 1 = true) ∧
    ((queued 1 0 cfg).own.configuring 0 1 = false ∧ ((queued 1 0 cfg).own.stream 0 1).ring = true ∧
      ((queued 1 0 cfg).own.stream 0 1).nslots ≤ ((queued 1 0 cfg).own.stream 0 1).resv) :=
  ⟨by decide, by decide, by decide, ⟨room_empty rfl (by decide) (by decide), by decide⟩,
    ⟨room_empty rfl (by decide) (by decide), by decide⟩, ⟨room_empty rfl (by decide) (by decide), by decide⟩, by decide⟩

/-- The own Gazetteer region, through the firmware window. -/
def region : State := with0 { ctxWith [(1, 0x1C000000B800000), (2, 256)] with status := { pl := 2 } }

theorem witness_TableBinding :
    let va := region.own.g ⟨0, 0⟩ 1
    let n := (region.own.g ⟨0, 0⟩ 2).toNat
    let key := coreKey 0 0x0B800000
    (va.toNat % 64 = 0 ∧ 1 ≤ n ∧ n ≤ 0x1000000 ∧ 8 ∈ [4, 8, 16, 32]) ∧
    (∃ u v, Reaches region.own u ⟨0, 0⟩ {} .copy va 1 key ∧
      Reaches region.own v ⟨0, 0⟩ {} .copy (va + BitVec.ofNat 64 ((n * 8 + 7) / 8 - 1)) 1 (key + 255)) ∧
    gazOffset 0 false key = .ok (keyOff key - 0x0B800000) ∧ key + 255 = key + ((n * 8 + 7) / 8 - 1) ∧
    keyCore (key + 255) = keyCore key ∧ isVault (key + 255) = true ∧ isGaz (keyOff (key + 255)) = true :=
  ⟨by decide, ⟨_, _, State.reaches_vault (pa := 0x0B800000) (off := 0x0B800000) (by decide) (by decide) (by decide),
    State.reaches_vault (pa := 0x0B8000FF) (off := 0x0B8000FF) (by decide) (by decide) (by decide)⟩, rfl, by decide, by decide,
    by decide, by decide⟩

/-- A full overflow queue. -/
def overflowing : State := with0 (ctxWith []) (fun c => { c with part := { c.part with mail := { reserved := 16 } } })

theorem witness_RemoteCommandsAtIssue :
    let s := withG [(1, 24), (2, 0)]
    let w : Who := ⟨0, 0⟩
    (w.isHandler = false ∧ (s.own.ctx w).remote.length < 0xFFFF) ∧
    (s.own.room w (.rpcAmo .add true 1 2 ⟨none, none⟩) ∧ s.own.room w (.rpcPut .full 1 2 none ⟨none, none⟩) ∧
      s.own.room w (.sendm 1 3 2 ⟨none, none⟩) ∧ s.own.room w (.rpcGet .d false 5 1 ⟨none, none⟩)) ∧
    (∀ k, s.own.checkCredit w none k = k none) ∧
    ((s.own.g w 1).toNat < 2 ^ 17 ∧ ¬ ((sendTarget (s.own.g w 1)).1 = s.own.mod.devId ∧
      s.own.physOf (sendTarget (s.own.g w 1)).2 = some w.core)) ∧
    (((s.own.mail w.core).box 5).state = .absent) ∧
    (s.own.room w (.rpcCall false 1 0 4 2 0 ⟨none, none⟩) ∧ 4 % 4 = 0 ∧ 5 % 4 ≠ 0 ∧
      ∀ j < 4, ((s.own.mail w.core).box (4 + j)).state = .absent) ∧
    ((s.own.g w 2).toNat < 2 ^ 17 ∧ (sendTarget (s.own.g w 2)).1 = s.own.mod.devId ∧
      s.own.physOf (sendTarget (s.own.g w 2)).2 = some w.core ∧
      (s.own.mail w.core).overflow.length + (s.own.mail w.core).reserved < 16) ∧
    (overflowing.own.room w (.sendm 2 3 2 ⟨none, none⟩) ∧
      16 ≤ (overflowing.own.mail w.core).overflow.length + (overflowing.own.mail w.core).reserved) :=
  ⟨by decide, ⟨room_empty rfl (by decide) (by decide), room_empty rfl (by decide) (by decide),
    room_empty rfl (by decide) (by decide), room_empty rfl (by decide) (by decide)⟩, fun _ => rfl, by decide, by decide,
    ⟨room_empty rfl (by decide) (by decide), by decide⟩, by decide, room_empty rfl (by decide) (by decide), by decide⟩

theorem witness_pendingBox :
    (((with0 (ctxWith []) (fun c => { c with part := { c.part with
      mail := { boxes := [(5, { state := .pending })] } } })).own.mail 0).box 5).state ≠ .absent := by decide

/-- The reply that a handler owes. -/
def owed (sent : Bool) : Reply :=
  { caller := 0, who := ⟨1, 0⟩, gen := 0, mail := 4, sent, nr := false, idx := 0, op := 0, entry := none, va := 0, job := 7 }

/-- A handler of core 0 in focus. -/
def handling (sent : Bool) : State :=
  { State.reset with cores := [(0, { handlers := [(0, { ctxWith [] with reply := some (owed sent) })] })], focus := ⟨0, 11⟩ }

theorem witness_MailboxesAndReplies :
    (let s := with0 (ctxWith []) (fun c => { c with part := { c.part with
       mail := { boxes := [(5, { state := .plain, value := 9 })] } } })
     ((s.own.mail 0).box 5).state = .plain ∧ (s.own.mail 0).waiters = [] ∧ (s.own.mail 0).overflow = [] ∧
     s.focus.slot < 11 ∧ (s.own.ctx ⟨0, 0⟩).remote = []) ∧
    (∀ sent, ∃ u r, ((handling sent).own.ctx ⟨0, 11⟩).reply = some r ∧ r.sent = sent ∧
      Releases (handling sent).own u ⟨0, 11⟩ .domain) := by
  refine ⟨by decide, fun sent => ?_⟩
  cases sent <;> exact ⟨_, owed _, rfl, rfl, State.releases (by decide) (by decide)⟩

theorem any_some {α : Type} {o : Option α} {p : α → Bool} (h : o.any p = true) : ∃ x, o = some x ∧ p x = true := by
  cases o with
  | none => cases h
  | some x => exact ⟨x, rfl, h⟩

/-- A copy descriptor of one dimension in the own scratchpad at 0x100: 16 elements of 8 bytes, from 0x10000 to 0x20000. -/
def descriptor : State :=
  let s := withG [(1, spVa 0x100), (2, 7)]
  { s with memory := ((((((s.memory.writeBytes (spKey 0 0x100) (natLE 8 0x31)).writeBytes (spKey 0 0x108) (natLE 8 0x10000)).writeBytes
      (spKey 0 0x110) (natLE 8 0x20000)).writeBytes (spKey 0 0x120) (natLE 8 16)).writeBytes
      (spKey 0 0x150) (natLE 8 8)).writeBytes (spKey 0 0x158) (natLE 8 8)) }

theorem witness_CopyCommandsAtIssue :
    let w : Who := ⟨0, 0⟩
    let u := (descriptor.issuing (.tcopy 0 1 3 none ⟨none, none⟩))
    let va := descriptor.own.g w 1
    (descriptor.own.room w (.tcopy 0 1 3 none ⟨none, none⟩) ∧ va.toNat % 8 = 0) ∧
    (∃ v v' m m', DescIs u v w va 0 [(0, 0), (0, 1), (0, 2), (0, 3)] [] m ∧
      (1 ≤ descDims m ∧ descDims m ≤ 12) ∧
      DescIs v v' w va 0 ((upTo (descDims m)).flatMap (fun i => [(i, 4 + i / 2), (i, 10 + 2 * i), (i, 11 + 2 * i)])) m m' ∧
      descBad m' = false ∧ descSkew m' = none) ∧
    (let s := with0 (ctxWith [(1, 3)]) (fun c => { c with part := { c.part with regs := { cdone := [(0, 4)] } } })
     let gap := ((s.own.core 0).part.regs.cdone.get 0 0 - (s.own.g w 1).setWidth 32).toNat
     1 ≤ gap ∧ gap ≤ 0x80000000) := by
  refine ⟨⟨room_empty rfl (by decide) (by decide), by decide⟩, ?_, by decide⟩
  have h : (State.descWords ⟨0, 0⟩ (descriptor.own.g ⟨0, 0⟩ 1) 0 [(0, 0), (0, 1), (0, 2), (0, 3)] []
      (descriptor.issuing (.tcopy 0 1 3 none ⟨none, none⟩))).any (fun x => decide (1 ≤ descDims x.1 ∧ descDims x.1 ≤ 12) &&
        (State.descWords ⟨0, 0⟩ (descriptor.own.g ⟨0, 0⟩ 1) 0
          ((upTo (descDims x.1)).flatMap (fun i => [(i, 4 + i / 2), (i, 10 + 2 * i), (i, 11 + 2 * i)])) x.1 x.2).any
          (fun y => decide (descBad y.1 = false ∧ descSkew y.1 = none))) = true := by decide
  obtain ⟨⟨m, v⟩, hx, h⟩ := any_some h
  obtain ⟨h1, h⟩ := Bool.and_eq_true_iff.mp h
  obtain ⟨⟨m', v'⟩, hy, h⟩ := any_some h
  exact ⟨v, v', m, m', State.readDesc_done _ _ _ _ _ hx, of_decide_eq_true h1, State.readDesc_done _ _ _ _ _ hy,
    of_decide_eq_true h⟩

/-- A group of name 5 with one member, the control context of core 0, at record 0 of the name's home unit. -/
def grouped (x : Group) (h : Handle) (g : List (Nat × Word)) : State :=
  { with0 { ctxWith g with regs := { g, h := [(1, h)] } } with
    units := [(homeOf 5, { groups := [(0, { x with live := true, name := 5, epoch := 3 })] })] }

def home5 : Nat := homeOf 5 * 256
def member5 : Handle := { value := Machine.handleOf (homeOf 5 * 256) 3, kind := .member }

theorem witness_FencesAndBindings :
    (∃ u, Releases (withG []).own u ⟨0, 0⟩ .domain) ∧
    (DrainPath.vault ≠ .table ∧ ((withG []).own.ctx ⟨0, 0⟩).hold.drain = none ∧
      (withG []).own.undrained 0 .vault (writingQueues.flatMap (fun q => ((withG []).own.queue 0 q).cmds.map (fun c => (q, c.seq)))) =
        false) ∧
    (let s := grouped { isOpen := true } member5 [(2, 0x1000), (3, 64)]
     1 ≤ (s.own.g ⟨0, 0⟩ 3).toNat ∧ (s.own.g ⟨0, 0⟩ 3).toNat ≤ 2 ^ 48 ∧
       (s.own.g ⟨0, 0⟩ 2).toNat + (s.own.g ⟨0, 0⟩ 3).toNat ≤ 2 ^ 57) ∧
    (∃ u rid hd x, Member (grouped { isOpen := true } member5 [(2, 0x1000), (3, 64)]).own u ⟨0, 0⟩ 1 rid hd x ∧
      (0x1000, 0x1040) ∉ x.regions ∧ x.regions.length < 4) ∧
    (∃ u rid hd x, Member (grouped { isOpen := true, regions := [(0x1000, 0x1040)] } member5 [(2, 0x1000), (3, 64)]).own u
      ⟨0, 0⟩ 1 rid hd x ∧ (0x1000, 0x1040) ∈ x.regions) ∧
    (∃ u key, (scratch.own.g ⟨0, 0⟩ 1).toNat % 8 = 0 ∧
      Reaches scratch.own u ⟨0, 0⟩ {} .fullEmpty (scratch.own.g ⟨0, 0⟩ 1) 8 key ∧
      (u.asid 0, key, 0x1000, 0x1040) ∉ (u.unit (clusterOf (keyCore key))).words ∧
      (u.unit (clusterOf (keyCore key))).words.length < 64) ∧
    ((withG [(1, 0x1000)]).own.g ⟨0, 0⟩ 1).toNat < 2 ^ 57 :=
  ⟨⟨_, State.releases (by decide) (by decide)⟩, by decide, by decide,
    ⟨_, _, _, _, State.member (x := { isOpen := true, live := true, name := 5, epoch := 3 }) (by decide) (by decide) (by decide),
      by decide⟩,
    ⟨_, _, _, _, State.member (x := { isOpen := true, regions := [(0x1000, 0x1040)], live := true, name := 5, epoch := 3 })
      (by decide) (by decide) (by decide), by decide⟩,
    ⟨_, _, by decide, scratch_reaches false .fullEmpty 8 (.inr (.inl rfl)), by decide, by decide⟩, by decide⟩

theorem witness_GroupMembership :
    (let s := withG [(2, 5), (3, 0)]
     nameOk (s.own.g ⟨0, 0⟩ 2) = true ∧ nameOk (s.own.g ⟨0, 0⟩ 3) = false ∧ (s.own.h ⟨0, 0⟩ 1).kind ≠ .member ∧
       ((s.own.unitFirst 0 (homeOf (s.own.g ⟨0, 0⟩ 2))).findName (s.own.asid 0) (s.own.g ⟨0, 0⟩ 2) = none) ∧
       0 < 256 ∧ ((s.own.unitFirst 0 (homeOf (s.own.g ⟨0, 0⟩ 2))).group (homeOf (s.own.g ⟨0, 0⟩ 2) * 256)).live = false) ∧
    (let s := grouped { isOpen := true, phase := 1 } { member5 with kind := .joining } [(2, 5)]
     let u := s.own.unitFirst 0 (homeOf (s.own.g ⟨0, 0⟩ 2))
     (u.findName (s.own.asid 0) (s.own.g ⟨0, 0⟩ 2)).isSome = true ∧
       u.findName (s.own.asid 0) (s.own.g ⟨0, 0⟩ 2) = some home5 ∧ (s.own.h ⟨0, 0⟩ 1).kind = .joining ∧
       (s.own.h ⟨0, 0⟩ 1).value = Machine.handleOf home5 (u.group home5).epoch ∧ (u.group home5).phase ≠ (s.own.h ⟨0, 0⟩ 1).ap) ∧
    (∀ hd ∈ [member5, { member5 with arrived := true }], ∀ o ∈ [true, false],
      ∃ v rid x, Member (grouped { isOpen := o } hd []).own v ⟨0, 0⟩ 1 rid hd x ∧ (v.ctx ⟨0, 0⟩).status.intrap = false) := by
  refine ⟨by decide, by decide, ?_⟩
  intro hd h o ho
  simp only [List.mem_cons, List.not_mem_nil, or_false] at h ho
  rcases h with rfl | rfl <;> rcases ho with rfl | rfl <;>
    first
    | exact ⟨_, _, { isOpen := true, live := true, name := 5, epoch := 3 },
        State.member (by decide) (by decide) (by decide), by decide⟩
    | exact ⟨_, _, { isOpen := false, live := true, name := 5, epoch := 3 },
        State.member (by decide) (by decide) (by decide), by decide⟩

theorem witness_GroupArrivalsAndWaits :
    (∃ u v, Member (grouped { isOpen := true } member5 [(2, 7)]).own u ⟨0, 0⟩ 1 home5 member5
        { isOpen := true, live := true, name := 5, epoch := 3 } ∧ ReleasesObject u v ⟨0, 0⟩ [] ∧ member5.arrived = false ∧
      (({ isOpen := true, live := true, name := 5, epoch := 3 } : Group).arrive (.red .add .u32) 7).isSome = true ∧
      (({ isOpen := true, live := true, name := 5, epoch := 3 } : Group).arrive (.vote .all) 7).isSome = true ∧
      (({ isOpen := true, live := true, name := 5, epoch := 3 } : Group).arrive .none 0).isSome = true ∧
      0 + ((grouped { isOpen := true } member5 [(2, 7)]).own.g ⟨0, 0⟩ 2).toNat ≤ 2 ^ 48 - 1 ∧
      ((grouped { isOpen := true } member5 [(2, 7)]).own.g ⟨0, 0⟩ 2).toNat < 2 ^ 32) ∧
    (∃ u, Member (grouped {} member5 []).own u ⟨0, 0⟩ 1 home5 member5 { live := true, name := 5, epoch := 3 }) ∧
    (∃ u, Member (grouped { isOpen := true, phase := 1 } { member5 with arrived := true } []).own u ⟨0, 0⟩ 1 home5
        { member5 with arrived := true } { isOpen := true, phase := 1, live := true, name := 5, epoch := 3 } ∧
      u.arrivalHeld ⟨0, 0⟩ 1 { member5 with arrived := true } = false ∧ (1 : BitVec 32) ≠ member5.ap) ∧
    (∃ u, Member (grouped { isOpen := true, fired := true } { member5 with arrived := true } []).own u ⟨0, 0⟩ 1 home5
        { member5 with arrived := true } { isOpen := true, fired := true, live := true, name := 5, epoch := 3 } ∧
      (0 : BitVec 32) = member5.ap) ∧
    (let x := (grouped { isOpen := true } member5 []).own.h ⟨0, 0⟩ 1
     x.value ≠ 0 ∧ x.kind = .member ∧ x.arrived = false) ∧ ((withG []).own.h ⟨0, 0⟩ 1).value = 0 :=
  ⟨⟨_, _, State.member (by decide) (by decide) (by decide), State.releases_object (by decide) (by decide), by decide⟩,
    ⟨_, State.member (by decide) (by decide) (by decide)⟩, ⟨_, State.member (by decide) (by decide) (by decide), by decide⟩,
    ⟨_, State.member (by decide) (by decide) (by decide), by decide⟩, by decide⟩

theorem witness_PhaseCompletion :
    (({ live := true, isOpen := true, m0 := 2, a := 2 } : Group).a = 2 ∧ 0 ≤ 0) ∧
    ¬ (({ live := true, isOpen := true, m0 := 2, a := 1 } : Group).a = 2 ∧ 0 ≤ 0) := by decide

theorem witness_SystemRegisters :
    (withG []).own.pl ⟨0, 0⟩ ≠ 0 ∧ (with0 { ctxWith [] with status := {} }).own.pl ⟨0, 0⟩ = 0 ∧
    Ready (.sysr 1 .ts) (with0 { ctxWith [] with status := {} }) ∧ ((withG []).ctx ⟨0, 0⟩).hold.flights = [] :=
  ⟨by decide, by decide, ready_of_plain (by decide) (by decide) (by decide), by decide⟩

theorem witness_SystemRegisterWrites :
    let s := withG [(1, 0x0B150400), (2, 0x1000), (3, 0x7C800)]
    s.own.pl ⟨0, 0⟩ ≠ 0 ∧ 7 < 8 ∧ 8 * 11 + 7 ≤ 96 ∧ ((s.own.core 0).part.ring = []) ∧
    ringFits (s.own.g ⟨0, 0⟩ 3 &&& 0x7FFC0).toNat (s.own.core 0).part.regs.ringSize.toNat = true ∧
    ringFits (s.own.core 0).part.regs.ringBase.toNat (s.own.g ⟨0, 0⟩ 2 &&& 0x7FFC0).toNat = true ∧
    ((s.own.g ⟨0, 0⟩ 1).toNat % 1024 = 0 ∧ 0x0B150000 ≤ (s.own.g ⟨0, 0⟩ 1).toNat ∧ (s.own.g ⟨0, 0⟩ 1).toNat ≤ 0x0B153C00) ∧
    s.own.planeRuns 0 = false ∧
    ((with0 (ctxWith []) (fun c => { c with part := { c.part with ring := [{ id := 0, start := 0, units := 1 }] } })).own.core
      0).part.ring ≠ [] := by decide

/-- A machine whose queue 1 a fault holds. -/
def faulted : State := with0 (ctxWith []) (fun c => { c with part := { c.part with
  regs := { cfr := some { queue := 1, slot := 0, gen := 0, cause := 0x0B, seq := 0, pc := 0, tval := 0 } } } })

theorem witness_EventsFaultsAndQuarantine :
    (((with0 (ctxWith []) (fun c => { c with marks := { events := 1 } })).own.core 0).marks.events ≠ 0) ∧
    ((withG []).own.cluster 0).fbuf = [] ∧
    (({ withG [] with clusters := [(0, { fbuf := [9, 8] })] } : State).own.cluster (clusterOf 0)).fbuf = [9, 8] ∧
    ((withG [(1, 96)]).own.g ⟨0, 0⟩ 1).toNat ≤ 96 ∧ 96 < ((withG [(1, 97)]).own.g ⟨0, 0⟩ 1).toNat ∧
    ((withG []).own.core 0).part.regs.cfr = none ∧
    (∃ f, (faulted.own.core 0).part.regs.cfr = some f ∧ f.joint = false ∧ f.stream = none ∧
      (faulted.own.core 0).part.regs.faults = []) ∧
    ((withG []).own.ctx ⟨0, 0⟩).hold.divergence = [] ∧
    ((with0 { ctxWith [] with hold := { divergence := [{ instr := .vmov 1 2, write := .v 1 0, flags := 0, units := [] }] } }).own.ctx
      ⟨0, 0⟩).hold.divergence ≠ [] :=
  ⟨by decide, by decide, by decide, by decide, by decide, by decide, ⟨_, rfl, rfl, rfl, by decide⟩, by decide, by decide⟩

/-- A walk of core 0's control context in its last level, over a table at far offset 0x2000. -/
def walkAt : Walk :=
  { client := .ctx ⟨0, 0⟩, asid := 0, va := 0x1000, write := false, exec := false, user := true, state := .walking 0 0x2000 }

/-- A machine in that walk, whose table entry is `e`. -/
def walking (e : Nat) : State :=
  let s := { with0 (ctxWith []) (fun c => { c with run := some job7 }) with clusters := [(0, { walks := [walkAt] })] }
  { s with memory := (s.memory.writeBytes (farKey 0x2008) (natLE 8 e)).setMark (farKey 0x2000) false }

/-- Two leaf entries of 4 KiB: the far page at 0x5000, present with U, and the same one absent. -/
def presentLeaf : Nat := 0x7FF * 2 ^ 47 + 0x5000 + 0x27
def absentLeaf : Nat := 0x7FF * 2 ^ 47 + 0x5000 + 0x23

theorem witness_TranslationCaches :
    (((walking presentLeaf).cluster 0).walks[0]? = some walkAt ∧ walkAt.state = .walking 0 0x2000) ∧
    (∃ m, ((walking presentLeaf).walkLevel walkAt).state = .done (some m) ∧ ((walking presentLeaf).cluster 0).pages = []) ∧
    (∃ size page, ((walking absentLeaf).walkLevel walkAt).state = .parked size page ∧ ((walking absentLeaf).cluster 0).fbuf = []) ∧
    (BitVec.ofNat 16 0 ∉ ((walking 0).cluster 0).read ∧ (walking 0).mod.powered = true ∧
      (∃ k ∈ coresOfCluster 0, ((walking 0).core k).run.isSome = true ∧ ((walking 0).core k).asid = BitVec.ofNat 16 0)) := by
  refine ⟨by decide, ⟨{ asid := 0, base := 0x1000, size := 0x1000, target := 0x7FF * 2 ^ 47 + 0x5000, w := false, x := false, u := true },
    by decide, by decide⟩, ⟨0, 0x1000, by decide, by decide⟩, by decide⟩

theorem witness_TranslationWindows :
    let m : Mapping := { asid := 0, base := 0x1000, size := 0x1000, target := 0, w := false, x := false, u := true }
    let s : State := { State.reset with
      dx := { asids := [(1, { ptroot := some 0x2000 })] }
      clusters := [(0, { read := [1], pages := [{ m with asid := 1 }] })] }
    0x1000 < 0x1C0 * 2 ^ 48 ∧ (s.dx.asids.get {} (0 : BitVec 16).toNat).ptroot = none ∧
    (0x1C0 * 2 ^ 48 ≤ 0x1C0 * 2 ^ 48 ∧ 0x1C0 * 2 ^ 48 < 0x1E0 * 2 ^ 48 ∧ 0x1E0 * 2 ^ 48 - 1 < 0x1E0 * 2 ^ 48) ∧
    (0x1E0 * 2 ^ 48 ≤ 0x1FFFFFE00000000 ∧ 0x1FFFFFE00000000 / 2 ^ 32 ≠ 0x1FFFFFF) ∧
    (s.dx.asids.get {} (1 : BitVec 16).toNat).ptroot.isSome = true ∧ (1 : BitVec 16) ∈ (s.cluster (clusterOf 0)).read ∧
    s.cached 0 1 0x1000 = some { m with asid := 1 } := by decide

/-- A scan by core 0 of the core in column 1. -/
def scanning (stop : Bool) : State := { withG [(1, 1)] with clusters := [(0, { scan := some (0, 1, stop) })] }

theorem witness_Scans :
    (let o := (withG [(1, 1)]).own
     (o.g ⟨0, 0⟩ 1).toNat / 24 = clusterOf 0 ∧ o.physOf (o.g ⟨0, 0⟩ 1).toNat = some 1 ∧ 1 ≠ 0 ∧ (o.core 1).run = none ∧
       (o.core 1).saved = none ∧ (o.core 1).marks.underScan = false ∧ o.taken (o.g ⟨0, 0⟩ 1).toNat = false ∧
       (o.cluster (clusterOf 0)).scan = none ∧ (o.core 0).marks.scanState ≠ 1) ∧
    ((scanning false).own.cluster (clusterOf 0)).scan = some (0, 1, false) ∧
    ((scanning true).cluster 0).scan = some (0, 1, true) ∧ (scanning true).mod.powered = true ∧ 0 ≠ 1 := by decide

/-- A request to replace the core of logical slot 1. -/
def moving (unmap : Bool) : State :=
  { withG [(1, 1)] with dx := { moving := [{ who := ⟨0, 0⟩, gen := 0, core := 1, evac := false, unmap := unmap }] } }

theorem witness_CoreMapChanges :
    (let o := (withG [(1, 1), (2, 0), (3, 2)]).own
     let x := (o.g ⟨0, 0⟩ 1).toNat
     x ≤ 1151 ∧ (o.g ⟨0, 0⟩ 3).toNat < 4 ∧ o.logicalOf 0 ≠ some x ∧ o.physOf x = some 1 ∧ (o.core 1).run = none ∧
       (o.core 1).saved = none ∧ (o.core 1).marks.underScan = false ∧ o.taken x = false ∧
       ((o.g ⟨0, 0⟩ 2).getLsbD 1 = false ∧ x / 24 ∉ o.dx.spareUsed) ∧ (o.g ⟨0, 0⟩ 3).getLsbD 0 = false) ∧
    (∀ unmap : Bool, (moving unmap).physOf 1 = some 1 ∧ 1 < 1152 ∧ ((moving unmap).ctx ⟨0, 0⟩).hold.hand = none ∧
      (moving unmap).dx.moving = [{ who := ⟨0, 0⟩, gen := 0, core := 1, evac := false, unmap := unmap }]) := ⟨by decide, by decide⟩

/-- A job of one part that waits. -/
def waitingJob : Job :=
  { id := 7, deadline := 0, entry := 0x1000, arg := 0, cw := 0, keepkey := false, notify := false, count := 1, domain := 0,
    tier := 0, asid := 0, key := 0, queue := 0, enq := 0, edl := 5, slice := 1000000 }

/-- A machine with that job. -/
def jobWaits (ts : Nat) : State := { State.reset with dx := { jobs := [waitingJob] }, ts }

/-- A machine whose core 0 runs the job's part. -/
def jobRuns (c : Ctx) (p : Part → Part := id) : State :=
  { with0 (ctxWith []) (fun k => { k with part := p { ctxs := [(0, c)] }, run := some job7, jobId := 7 }) with
    dx := { jobs := [{ waitingJob with started := true, launched := true, parts := [0] }] }, ts := 2000000 }

theorem witness_JobSubmissionAndDispatch :
    (2048 ≤ ((withG [(1, spVa 0x180), (2, 2048)]).own.g ⟨0, 0⟩ 2).toNat) ∧
    ((scratch.own.g ⟨0, 0⟩ 4).toNat < 2048 ∧ (scratch.own.g ⟨0, 0⟩ 7).toNat % 128 ≠ 0) ∧
    ((scratch.own.g ⟨0, 0⟩ 2).toNat % 128 = 0 ∧ ∃ u v x pa, (∀ k, scratch.own.physical ⟨0, 0⟩ {} (scratch.own.g ⟨0, 0⟩ 2) k = k pa u) ∧
      u.locate pa = .scratch 0 0x200 ∧
      (∀ k, (u.flushOwn ⟨0, 0⟩).checkPoison ⟨0, 0⟩ (scratch.own.g ⟨0, 0⟩ 2) (spKey 0 0x200) 128 k = k v) ∧
      ((upTo 16).map (fun k => v.word (spKey 0 0x200 + 8 * k))).getD 3 0 = 0 ∧ Releases v x ⟨0, 0⟩ .device) ∧
    ((jobWaits 5).dx.jobs = [waitingJob] ∧ waitingJob.edl ≤ (jobWaits 5).ts) ∧
    (((jobRuns (ctxWith [])).core 0).run = some job7 ∧
      (jobRuns (ctxWith [])).jobOf 0 = some { waitingJob with started := true, launched := true, parts := [0] } ∧
      1000000 ≤ (jobRuns (ctxWith [])).ts - job7.since + 20000) :=
  ⟨by decide, by decide, ⟨by decide, _, _, _, _, State.physical_ok (pa := 2 ^ 28 + 0x200) (by decide) (by decide), by decide,
    fun k => State.checkPoison_none (by decide) k none, by decide, State.releases (by decide) (by decide)⟩, by decide, by decide⟩

theorem witness_dispatch :
    (jobWaits 0).mod.powered = true ∧ 7 ≤ (jobWaits 0).mod.step ∧ (jobWaits 0).dx.jobs = [waitingJob] ∧
    waitingJob.started = false ∧ waitingJob.closing = none ∧ waitingJob.count ≤ (jobWaits 0).available ∧
    (∃ cores, (jobWaits 0).pick waitingJob false = some cores ∧ cores.length = waitingJob.count) := by
  refine ⟨rfl, by decide, rfl, rfl, rfl, by decide +kernel, [0], by decide +kernel, rfl⟩

theorem witness_PartLaunch : (State.reset.core 3).requests = [] ∧ (State.reset.core 3).vaultRequests = [] ∧ 3 < 0x7FF := by
  decide

/-- A saved image of the job's part. -/
def image (held : Bool) : Image := { part := {}, run := job7, logical := 0, ts := 9, held }

theorem witness_PreemptionAndRestore :
    (let f := fun (p : Preemption) => with0 (ctxWith []) (fun c => { c with run := some job7, preemption := p })
     ((f .called).core 0).preemption = .called ∧ ((f .called).core 0).run = some job7 ∧
     ((f .stopping).core 0).preemption = .stopping ∧ (f .stopping).mayBeginSave 0 = true ∧
     ((f (.saving 9)).core 0).preemption = .saving 9 ∧ (f (.saving 9)).logicalOf 0 = some 0 ∧ ((f (.saving 9)).core 0).saved = none ∧
     ((f (.saving 9)).core 0).requester = none ∧ ((f (.saving 9)).queue 0 1).head = none) ∧
    (let s : State := { State.reset with cores := [(0, { saved := some (image false) })] }
     (s.core 0).saved = some (image false) ∧ s.mod.powered = true ∧ 7 ≤ s.mod.step ∧ (s.core 0).run = none ∧
     (s.core 0).preemption = .none ∧ s.taken 0 = false ∧ s.physOf 0 = some 0 ∧ (image false).part = {} ∧ (s.core 0).spill = []) ∧
    (let s : State := { withG [(1, 1)] with cores := [(0, { part := { ctxs := [(0, ctxWith [(1, 1)])] } }), (1, { run := some job7 })] }
     let o := s.own
     (o.g ⟨0, 0⟩ 1).toNat ≤ 1151 ∧ o.logicalOf 0 ≠ some (o.g ⟨0, 0⟩ 1).toNat ∧ o.physOf (o.g ⟨0, 0⟩ 1).toNat = some 1 ∧
     (o.core 1).preemption = .none ∧ (o.core 1).requester = none ∧ (o.core 1).run = some job7 ∧ job7.preempting = false ∧
     (o.core 1).saved = none ∧ (o.core 1).marks.underScan = false) ∧
    (let s : State := { withG [(1, 1)] with
       cores := [(0, { part := { ctxs := [(0, ctxWith [(1, 1), (2, 1152)])] } }), (1, { saved := some (image true) })] }
     let o := s.own
     o.physOf (o.g ⟨0, 0⟩ 1).toNat = some 1 ∧ (o.core 1).run = none ∧ (o.core 1).saved = some (image true) ∧
     (image true).held = true ∧ 1151 < (o.g ⟨0, 0⟩ 2).toNat) := by decide +kernel

/-- One failing line. -/
def line1 : WeltLine := { welt := 1, seg := 11, line := 5 }

theorem witness_VaultDegradation :
    (State.reset.agentOn = true ∧ 0 < 0x7FF ∧ 0x2000 < 0x0B140000 ∧ (State.reset.bank 0 (bankOf 0x2000)).busy = .idle ∧
      (State.reset.bank 0 (bankOf 0x2000)).scrubs.get 0 (rowOf 0x2000) = 0 ∧ State.reset.memory.wf = true) ∧
    (line1.welt < 2 ∧ line1.seg < 12 ∧ (line1.welt, line1.seg) ∉ (State.reset.core 0).vault.retired ∧
      (State.reset.core 0).vault.lanesUsed line1.welt line1.seg < 16) ∧
    (withG []).own.weltOwner 0 .weltRestore = none ∧
    (with0 { ctxWith [] with hold := { hand := some .weltRestore } } (fun c => { c with vault := { operations := [0] } })).weltOwner 0
      .weltRestore = some 0 ∧
    (withG []).own.weltTurn ⟨0, 0⟩ = true ∧ ((withG []).own.core 0).vault.switching = [] ∧ 0 ∉ ((withG []).own.core 0).vault.operations ∧
    (with0 (ctxWith []) (fun c => { c with vault := { operations := [3, 0] } })).own.weltTurn ⟨0, 0⟩ = false ∧
    (let s := with0 (ctxWith []) (fun c => { c with vault := { banks := [(bankOf 0x2000, { scrubs := [(rowOf 0x2000, 1)] })] } })
     s.agentOn = true ∧ s.bankBusy 0 0x2000 = false ∧ (s.bank 0 (bankOf 0x2000)).scrubs.get 0 (rowOf 0x2000) = 1 ∧
       (s.bank 0 (bankOf 0x2000)).spares.length < 32 ∧ s.memory.wf = true) := by decide

theorem witness_TaskUnitSteps :
    (let s := jobRuns { ctxWith [] with hold := { pending := { preempt := some 5 } } }
     s.mod.powered = true ∧ 7 ≤ s.mod.step ∧ (s.ctx ⟨0, 0⟩).live = true ∧ (s.core 0).marks.underScan = false ∧
     (s.core 0).preemption = .none ∧ (s.ctx ⟨0, 0⟩).hold.hand = none ∧ (s.ctx ⟨0, 0⟩).hold.divergence = [] ∧
     ((s.endWait ⟨0, 0⟩).nextAsync ⟨0, 0⟩).isSome = true ∧ (s.nextAsync ⟨0, 0⟩).isSome = true) ∧
    (let s := jobRuns (ctxWith []) (fun p => { p with deque := [anyTask, anyTask] })
     s.partOn 0 = true ∧ s.freeHelper 0 = some 1 ∧ (s.core 0).part.returns = [] ∧ (s.core 0).part.deque = [anyTask] ++ [anyTask]) ∧
    (let s := jobRuns (ctxWith []) (fun p => { p with steal := { answer := some (some anyTask), victim := some 1 } })
     s.partOn 0 = true ∧ s.freeHelper 0 = some 1 ∧ (s.core 0).part.steal.answer = some (some anyTask)) ∧
    (let s := jobRuns { ctxWith [] with hold := { hand := some .hexit } }
     s.partOn 0 = true ∧ (s.ctx ⟨0, 0⟩).hold.hand = some .hexit ∧ (s.core 0).part.deque = [] ∧ (s.core 0).part.returns = [] ∧
     s.queuesEmpty 0 = true ∧ (s.ctx ⟨0, 0⟩).remote = [] ∧ (s.core 0).run = some job7 ∧ s.logicalOf 0 = some 0 ∧
     (waitingJob.id = job7.job ∧ waitingJob.ended = [] ∧ waitingJob.count = 1 ∧ waitingJob.closing = none)) := by decide

theorem witness_TaskUnitSteps_partEnd :
    let s := jobRuns { ctxWith [] with hold := { hand := some .hexit } }
    (∀ m, 1 ≤ m → m ≤ 10 → (s.ctx ⟨0, m⟩).live = false) ∧ (∀ p ∈ s.cores, p.2.saved = none) ∧
    s.dx.jobs = [{ waitingJob with started := true, launched := true, parts := [0] }] := by
  refine ⟨?_, by decide, rfl⟩
  intro m h1 h2
  have : ∀ m < 11, 1 ≤ m → ((jobRuns { ctxWith [] with hold := { hand := some .hexit } }).ctx ⟨0, m⟩).live = false := by decide
  exact this m (by omega) h1

/-- Two cores of one cluster that run the parts of a job in stealing domain 1. -/
def thieves (steal : Steal) : State :=
  { State.reset with
    cores := [(0, { part := { ctxs := [(0, ctxWith [])], steal }, run := some { job7 with count := 2, domain := 1 } }),
              (1, { part := { ctxs := [(0, ctxWith [])], deque := [anyTask] }, run := some { job7 with index := 1, count := 2, domain := 1 } })]
    dx := { jobs := [{ waitingJob with started := true, launched := true, count := 2, parts := [0, 1] }] } }

theorem witness_steals :
    (let s := thieves {}
     s.partOn 0 = true ∧ (s.core 0).part.deque = [] ∧ s.freeHelper 0 = some 1 ∧ (s.core 0).part.steal.victim = none ∧
     (s.core 0).part.steal.waiting = false ∧ (s.victims 0).head? = some 1) ∧
    (let s := thieves { victim := some 1 }
     let j := { waitingJob with started := true, launched := true, count := 2, parts := [0, 1] }
     (s.core 0).part.steal.victim = some 1 ∧ (s.core 0).part.steal.answer = none ∧ s.jobOf 0 = some j ∧
     (j.parts[1]?).bind s.physOf = some 1 ∧ 1 ≠ 0 ∧ (s.core 1).run = some { job7 with index := 1, count := 2, domain := 1 } ∧
     s.partOn 1 = true ∧ (s.core 1).part.deque = anyTask :: []) := by decide

/-- The control context of core 0 at an address of its own vault, whose block holds zeros. -/
def fetching : State :=
  let s := with0 { ctxWith [] with pc := 0x1C0000000001000, status := { pl := 2 } }
  { s with memory := s.memory.place (coreKey 0 0x1000) (List.replicate 32 0) }

theorem witness_fetch :
    fetching.mayIssue ⟨0, 0⟩ = true ∧ (fetching.ctx ⟨0, 0⟩).hold.fwEntry = none ∧ fetching.nextAsync ⟨0, 0⟩ = none ∧
    (∃ l t, fetching.fetchBlock ⟨0, 0⟩ true = .bytes l t ∧ ∃ e, decodeBlock (t.ctx ⟨0, 0⟩).pc l = .error e) := by
  refine ⟨by decide, by decide, by decide, ?_⟩
  have h : (match fetching.fetchBlock ⟨0, 0⟩ true with
    | .bytes l t => (match decodeBlock (t.ctx ⟨0, 0⟩).pc l with
      | .error _ => true
      | .ok _ => false)
    | _ => false) = true := by decide +kernel
  split at h
  · next l t hb =>
    split at h
    · next e he => exact ⟨l, t, hb, e, he⟩
    · cases h
  · cases h

/-- A machine whose core 0 runs job 7's part with some engine state. -/
def running (p : Part → Part) : State :=
  with0 (ctxWith []) (fun k => { k with part := p k.part, run := some job7, jobId := 7 })

/-- A command of core 0's control context. -/
def commandOf (i : Instr) (passed running : Bool := false) : Cmd :=
  { instr := i, slot := 0, gen := 0, pc := 0x1000, seq := 0, passed, running }

/-- Queue `q` with one command at its head. -/
def atHead (q : Nat) (c : Cmd) (f : Part → Part := id) : State :=
  running (fun p => f { p with queues := [(q, { entries := [.cmd c] })] })

theorem witness_EngineQueueSteps :
    (let c := commandOf (.mz 1 ⟨some ⟨false, 2⟩, none⟩)
     let s := atHead 1 c
     s.queueOn 0 1 = true ∧ s.soloHead 0 1 = some c ∧ c.ready = false ∧ c.instr.guard = some ⟨false, 2⟩) ∧
    (let c := commandOf (.mz 1 ⟨some ⟨false, 2⟩, none⟩)
     let f := fun (g : GuardState) => running (fun p => { p with
       ctxs := [(0, { ctxWith [] with regs := { q := [(2, g)] } })], queues := [(1, { entries := [.cmd c] })] })
     (f .pending).guardRuns 0 c ⟨false, 2⟩ = none ∧ (f .yes).guardRuns 0 c ⟨false, 2⟩ = some true ∧
       (f .no).guardRuns 0 c ⟨false, 2⟩ = some false) ∧
    (let c := commandOf (.mz 1 ⟨none, none⟩)
     let s := atHead 1 c
     s.soloHead 0 1 = some c ∧ c.ready = true ∧ c.running = false ∧ c.stream = none ∧ s.operandsReady 0 c.instr = .ready) ∧
    (let c := commandOf (.mz 1 ⟨none, none⟩) false true
     let s := atHead 1 c
     s.soloHead 0 1 = some c ∧ c.ready = true ∧ c.running = true) ∧
    (let c : Cmd := { commandOf (.cbcfg 1 0 2 true ⟨none, none⟩) with joint := some 0 }
     let s := running (fun p => { p with queues := [(0, { entries := [.cmd c] }), (1, { entries := [.cmd c] })] })
     s.queueOn 0 0 = true ∧ s.queueOn 0 1 = true ∧ (s.queue 0 0).head = some c ∧ (s.queue 0 1).head = some c ∧
       c.instr.isJoint = true ∧ c.joint = some c.seq ∧ c.instr.guard = none) ∧
    (let s := running (fun p => { p with queues := [(3, { entries := [.barrier 0 8] })] })
     s.queueOn 0 3 = true ∧ (s.queue 0 3).entries = .barrier 0 8 :: []) := by decide +kernel

theorem witness_LoadsAddInsAndSweeps :
    (let c := commandOf (.tld .i8 1 2 3 4 5 ⟨none, none⟩)
     let s := atHead 0 c
     s.soloHead 0 0 = some c ∧ c.stream = some 1 ∧ s.queueOn 0 0 = true ∧ c.ready = true ∧ (s.part 0).loads = []) ∧
    (let c := commandOf (.tld .i8 1 2 3 4 5 ⟨none, none⟩)
     let s := running (fun p => { p with loads := [c] })
     (s.part 0).loads = c :: [] ∧ s.engineOn 0 = true ∧ (s.queue 0 0).suspended = none) ∧
    (let c : Cmd := { commandOf (.mdrainr true 1 2 3 ⟨none, none⟩) with done := 1, ops := [1] }
     let s0 := atHead 1 c
     let s : State := { s0 with cores := s0.cores ++ [(1, { run := some job7 })] }
     s.soloHead 0 1 = some c ∧ s.mod.powered = true ∧ s.addInTarget 0 (c.op1 0) = some 1 ∧
       s.savedFor 1 (s.core 0).jobId = none ∧ (s.acc 1 3).recv = none) ∧
    (let c : Cmd := { commandOf (.mdrainr true 1 2 3 ⟨none, none⟩) with done := 3 }
     (atHead 1 c).soloHead 0 1 = some c ∧ (atHead 1 c).engineOn 0 = true) ∧
    (let c := commandOf (.apSweep 0 1 3 0 8 0 1 2 0 0 ⟨none, none⟩) false true
     let s := atHead 2 c (fun p => { p with regs := { arbwin := 64 } })
     let s : State := s.modCore 0 (fun k => { k with vaultRequests := [{ kind := .store, who := ⟨0, 0⟩, gen := 0, va := 0, key := 0x1000 }] })
     s.soloHead 0 2 = some c ∧ s.queueOn 0 2 = true ∧ c.running = true ∧ sweepStage (s.plane 0).apsweep ≠ 1 ∧
       s.mayTransfer 0 c = false) := by decide +kernel

/-- Record 0 of unit 0, live at epoch 3, with a request on its way. -/
def unitWith (r : GroupRequest) : State :=
  { State.reset with units := [(0, { groups := [(0, { live := true, isOpen := true, epoch := 3, wdogT := 5, wdogRun := 5 })], queue := [r] })] }

def handle0 : Word := Machine.handleOf 0 3

theorem witness_GroupUnitSteps :
    (∀ r ∈ [GroupRequest.credit handle0 8, .arrive ⟨0, 0⟩ 7 1 handle0 4 {},
        .depart handle0 (some 0) false false ⟨0, 0⟩ 1 4, .depart handle0 none false false ⟨0, 0⟩ 1 4,
        .depart handle0 (some 1) true false ⟨0, 0⟩ 1 4, .pause ⟨0, 0⟩ handle0 true, .pause ⟨0, 0⟩ handle0 false],
      ((unitWith r).group (ridOf handle0)).live = true ∧ ((unitWith r).group (ridOf handle0)).epoch = epochOf handle0 ∧
      0 = ridOf handle0 / 256 ∧ ((unitWith r).unit 0).queue = r :: [] ∧ ((unitWith r).group (ridOf handle0)).isOpen = true ∧
      ((unitWith r).group (ridOf handle0)).phase = 0) ∧
    (((unitWith (.credit 0 0)).group 0).live = true ∧ ((unitWith (.credit 0 0)).group 0).wdogT ≠ 0 ∧
      ((unitWith (.credit 0 0)).group 0).wdogT ≤ ((unitWith (.credit 0 0)).group 0).wdogRun) ∧
    (let s := running (fun p => { p with ctxs := [(0, { ctxWith [] with held := [{ h := 1, handle := handle0, waits := [] }] })] })
     (s.ctx ⟨0, 0⟩).held = { h := 1, handle := handle0, waits := [] } :: [] ∧ s.mod.powered = true ∧
       (s.core 0).run.isSome = true ∧ s.isSaving 0 = false ∧ s.recordOf (s.asid 0) handle0 = none ∧ (s.ctx ⟨0, 0⟩).remote = []) := by
  decide +kernel

/-- A message from core 1 to core 0. -/
def message (b : Body) (refused : Option Resource := none) : Msg :=
  { src := ⟨1, 0⟩, gen := 0, job := 7, dst := 0, lane := 0, refused, body := b }

/-- A machine with that message on its way. -/
def arriving (m : Msg) : State := { State.reset with
  cores := [(0, { run := some job7, jobId := 7 }), (1, { run := some job7, jobId := 7 })], fabric := [m] }

/-- A machine whose core 0 runs handler 0. -/
def handler0 (h : Hold) : State :=
  { State.reset with cores := [(0, { handlers := [(0, { ctxWith [] with reply := some (owed false), hold := h })] })] }

theorem witness_FabricSteps :
    (let m := message (.send 5 9)
     let s := arriving m
     s.agentOn = true ∧ s.fabric = [m] ∧ m.refused = none ∧ m.noticed = false ∧ m.dst < 0x1000 ∧ (s.core m.dst).spill = [] ∧
       s.diverts m.dst m.job = false ∧ m.dst ≠ m.src.core ∧ ((s.mail m.dst).box 5).state = .absent) ∧
    (let m := message (.put (spKey 0 0x100) (natLE 8 5) false none)
     let s := arriving m
     isVault (spKey 0 0x100) = false ∧ s.diverts m.dst m.job = false ∧
       (({ s with fabric := [] } : State).store (spKey 0 0x100) (natLE 8 5)).isSome = true) ∧
    (let m := message (.send 5 9) (some .overflow)
     let s := arriving m
     s.fabric = [m] ∧ m.refused = some .overflow ∧ s.resourceFree m = true) ∧
    (let s := handler0 { returnTrap := true }
     0 < 8 ∧ (s.ctx ⟨0, 11⟩).live = true ∧ (s.ctx ⟨0, 11⟩).hold.returnTrap = true ∧ (s.core 0).part.returns.length < 8) ∧
    (let s := handler0 { fwEntry := some 5 }
     (s.ctx ⟨0, 11⟩).live = true ∧ (s.ctx ⟨0, 11⟩).hold.fwEntry = some 5 ∧ (s.ctx ⟨0, 11⟩).reply = some (owed false)) ∧
    (∀ b ∈ [Body.ended, .mail 4 [(.plain, 9)] true, .failed 3 5 0],
      let m := message b
      (arriving m).fabric = [m] ∧ (arriving m).diverts m.dst m.job = false ∧ ((arriving m).core m.dst).jobId = m.job ∧
        ((arriving m).core m.src.core).jobId = m.job) := by decide +kernel

theorem witness_links :
    let s := arriving (message .ended)
    s.agentOn = true ∧ 7 ≤ s.mod.step ∧ 0 < 16 ∧ 0 ∉ s.mod.failedLinks ∧ ([] : List Byte).length ≤ 256 ∧
    (∃ n k, (s.gatewaySet 0)[0 % (s.gatewaySet 0).length]? = some n ∧ s.physOf n = some k) ∧
    ({ s with fabric := [] } : State).fabric = [] := by
  refine ⟨rfl, by decide, by decide, by decide, by decide, ?_, rfl⟩
  have h : (((arriving (message .ended)).gatewaySet 0)[0 % ((arriving (message .ended)).gatewaySet 0).length]?).any
      (fun n => ((arriving (message .ended)).physOf n).isSome) = true := by decide +kernel
  obtain ⟨n, hn, h⟩ := any_some h
  obtain ⟨k, hk⟩ := Option.isSome_iff_exists.mp h
  exact ⟨n, k, hn, hk⟩

/-- Channel 0 with a transfer of 16 elements of 8 bytes at its head. -/
def copying (done : Nat) (failed : Option (Nat × Nat)) (legs : List Leg) : State :=
  atHead (chQueue 0) { commandOf (.tcopy 0 1 3 none ⟨none, none⟩) with
    desc := [0x31, 0x10000, 0x20000, 0, 16, 0, 0, 0, 0, 0, 8, 8], done, failed } (fun p => { p with legs := [(0, legs)] })

def leg0 : Leg := { key := spKey 0 0x100, bytes := natLE 8 5, offset := 0, va := 0x20000 }

theorem witness_CopySteps :
    (∀ s ∈ [copying 0 none [], copying 128 none [], copying 8 (some (5, 8)) [], copying 8 none [leg0]],
      ((s.queue 0 (chQueue 0)).head).any (fun c => s.copyOn 0 0 c && c.ready && !c.squashed && decide (c.transfer.total = 128)
        && decide (c.credit = none)) = true ∧ (s.legsOf 0 0).length < 16) ∧
    (isHere leg0.key = true ∧ isVault leg0.key = false ∧ (copying 8 none [leg0]).diverts (keyCore leg0.key) 7 = false ∧
      ((copying 8 none [leg0]).store leg0.key leg0.bytes).isSome = true) := by decide +kernel

/-- A device at a bring-up step. -/
def atStep (n : Nat) : State := { State.reset with mod := { step := n } }

theorem witness_PortMessages :
    ((atStep 3).mod.powered = true ∧ 3 ≤ (atStep 3).mod.step ∧ (atStep 3).mod.step < 7 ∧ 7 ≤ State.reset.mod.step) ∧
    (47 < 48 ∧ (List.replicate 16 (0 : Word)).length = 16 ∧ State.reset.queued 47 < 32) ∧
    (∀ j ∈ State.reset.dx.jobs, j.id.toNat ≠ 7) ∧
    ([5000000, 20000000, 80000000, 250000000].length = 4 ∧ 1000000 ≤ 10000000 ∧ 10000000 ≤ 100000000) ∧
    (0xFFFF < 2 ^ 16 ∧ 0x3000 % 4096 = 0 ∧ 0x3000 < 2 ^ 47 ∧ 64 ≤ 64 ∧ ((0x4000 : Word) &&& 0xFE0000000000001F) = 0) ∧
    (State.reset.memory.wf = true ∧ State.reset.loadKey 0x1000 16 = some (coreKey 0 0x1000)) := by decide +kernel

theorem witness_PortMessages_queues :
    (let j : Job := { id := 7, deadline := 0, entry := 0x1000, arg := 0, cw := 0, keepkey := false, notify := false, count := 1,
                      domain := 0, tier := 0, asid := 0, key := 0, queue := 5, enq := 0, edl := 5, slice := 1000000 }
     let s : State := { State.reset with dx := { jobs := List.replicate 32 j } }
     32 ≤ s.queued 5 ∧ ({ State.reset with dx := { jobs := [j] } } : State).dx.jobs = [j] ∧ j.id.toNat = 7) ∧
    (let s : State := { State.reset with mod := { nonce := some 6 } }
     s.mod.nonce ≠ some 7 ∧ s.mod.nonce = some 6) ∧
    (([5, 1, 9] : List Word).getD 1 0 ≠ 0 ∧ (([5, 0, 9] : List Word).drop 2).length ≠ 2 * ((5 : Word).toNat / 2 ^ 16 % 2 ^ 16)) := by
  decide +kernel

/-- An image of 512 bytes of header and the body that its header gives. -/
def firmware : List Byte := List.replicate (512 + Config.imageLength (List.replicate 512 0)) 0

theorem firmware_whole : 512 ≤ firmware.length ∧ 512 + Config.imageLength (firmware.take 512) ≤ firmware.length := by
  have h : firmware.take 512 = List.replicate 512 0 := by
    simp only [firmware, List.take_replicate]
    congr 1
    omega
  have hl : firmware.length = 512 + Config.imageLength (List.replicate 512 0) := List.length_replicate
  rw [h, hl]
  exact ⟨Nat.le_add_right _ _, Nat.le_refl _⟩

theorem witness_BringupSteps :
    (∀ n ∈ [1, 2, 3, 4, 5, 6, 7], (atStep n).mod.powered = true ∧ (atStep n).mod.step = n ∧ (atStep n).mod.loaded = none ∧
      (atStep n).mod.pieces = []) ∧
    (let s : State := { State.reset with mod := { step := 5, trained := false, routed := true, untrained := [3] } }
     s.mod.step = 5 ∧ s.mod.trained = false ∧ s.mod.routed = true ∧ (atStep 5).mod.trained = true ∧ (atStep 5).mod.routed = false) ∧
    ({ State.reset with mod := { loaded := some firmware } } : State).mod.loaded = some firmware ∧
    (let s : State := { State.reset with mod := { step := 3, valid := false } }
     s.mod.step = 3 ∧ s.boots = false) ∧
    (¬ (512 ≤ ([] ++ [7] : List Byte).length)) ∧
    (512 ≤ ([] ++ firmware).length ∧ 512 + Config.imageLength (([] ++ firmware).take 512) ≤ ([] ++ firmware).length) ∧
    (dvfsPoint 540 1600 = true ∧ dvfsPoint 540 1601 = false ∧ dvfsPoint 720 2400 = true ∧
      dvfsPoint State.reset.mod.mv State.reset.mod.mhz = true ∧ 99 < 100 ∧ 110 ≤ 110 ∧ 100 ≤ 109 ∧ 109 < 110) ∧
    ({ State.reset with mod := { powered := false } } : State).mod.powered = false :=
  ⟨by decide, by decide, rfl, by decide, by decide, firmware_whole, by decide, rfl⟩

theorem witness_ReservedWords : 4 % 4 = 0 ∧ 1 % 4 ≠ 0 ∧ 32 < 28 % 32 + 8 ∧ 2 % 4 ≠ 0 ∧ 32 < 24 % 32 + 16 := by decide

theorem witness_EncodeDecodeRoundTrip : (Instr.addi 31 30 (-1)).isWord = true ∧ (Instr.addi 31 30 (-1)).wf = true := by decide

/-! ## Witnesses for further clauses -/

theorem shadow_top {s : State} {w : Who} {off : Nat} {top : Word} (h1 : ((s.ctx w).trap.ssp - 8).toNat = ownAperture + off)
    (h2 : off < 0x80000)
    (he : (s.serveEarlier w (spKey w.core off) 8).earlierWaits w (spKey w.core off) 8 = false)
    (h3 : ((s.serveEarlier w (spKey w.core off) 8).poisonAt (spKey w.core off) 8).2 = none)
    (h4 : top = ((s.serveEarlier w (spKey w.core off) 8).poisonAt (spKey w.core off) 8).1.word (spKey w.core off)) :
    ∃ u, ShadowTop s u w top := by
  generalize hq : (s.serveEarlier w (spKey w.core off) 8).poisonAt (spKey w.core off) 8 = q at h3 h4
  obtain ⟨u, o⟩ := q
  change o = none at h3
  subst h3
  exact ⟨u, off, h1, h2, he, hq, h4⟩

theorem witness_CallsAndReturns_tops :
    (∃ u, ShadowTop (called 0x1008).own u ⟨0, 0⟩ 0x1008) ∧ (∃ u, ShadowTop (called 0x1010).own u ⟨0, 0⟩ 0x1008) ∧
    (∃ u, ShadowTop (joiner 0 1 true true 0x1009).own u ⟨0, 0⟩ 0x1009) ∧
    (called 0x1008).own.shadowEmpty ⟨0, 0⟩ = false ∧ (called 0x1010).own.shadowEmpty ⟨0, 0⟩ = false ∧
    (joiner 0 1 true true 0x1009).own.shadowEmpty ⟨0, 0⟩ = false ∧ (0x1008 : Word) = (called 0x1008).own.g ⟨0, 0⟩ 31 ∧
    (0x1008 : Word).toNat % 8 = 0 ∧ (0x1008 : Word).getLsbD 0 = false ∧ (0x1008 : Word) ≠ (called 0x1010).own.g ⟨0, 0⟩ 31 ∧
    (0x1009 : Word).getLsbD 0 = true :=
  ⟨shadow_top (off := 0x7B000) (by decide +kernel) (by decide +kernel) (by decide +kernel) (by decide +kernel) (by decide +kernel),
    shadow_top (off := 0x7B000) (by decide +kernel) (by decide +kernel) (by decide +kernel) (by decide +kernel) (by decide +kernel),
    shadow_top (off := 0x7B000) (by decide +kernel) (by decide +kernel) (by decide +kernel) (by decide +kernel) (by decide +kernel), by decide +kernel⟩

/-- A helper whose task is a shipped handler, with the reply it owes. -/
def shipped : State :=
  { helper with cores := [(0, { part := { ctxs := [(0, ctxWith []), (1, { ctxWith [] with
      trap := (Ctx.fresh 1).trap
      reply := some { caller := 0, who := ⟨1, 0⟩, gen := 0, mail := 4, sent := false, nr := false, idx := 0, op := 0, entry := none,
                      va := 0, job := 7 } })] } })] }

theorem witness_frames :
    FrameIs helper.own helper.own ⟨0, 1⟩ none ∧ FrameIs shipped.own shipped.own ⟨0, 1⟩ none ∧
    (∃ u, Releases shipped.own u ⟨0, 1⟩ .domain) ∧
    (∃ u, FrameIs (joiner 0 1 true true 0x1009).own u ⟨0, 0⟩ (some 0x1009)) ∧
    (∃ u, FrameIs (joiner 0 1 true true 0x1008).own u ⟨0, 0⟩ none) ∧
    (shipped.own.ctx ⟨0, 1⟩).reply.isSome = true ∧ (shipped.own.ctx ⟨0, 1⟩).status.intrap = false ∧
    (⟨0, 1⟩ : Who).isHandler = false := by
  refine ⟨.inl ⟨by decide +kernel, rfl, rfl⟩, .inl ⟨by decide +kernel, rfl, rfl⟩, ⟨_, State.releases (by decide +kernel) (by decide +kernel)⟩, ?_, ?_, by decide +kernel⟩
  · obtain ⟨u, h⟩ : ∃ u, ShadowTop (joiner 0 1 true true 0x1009).own u ⟨0, 0⟩ 0x1009 :=
      shadow_top (off := 0x7B000) (by decide +kernel) (by decide +kernel) (by decide +kernel) (by decide +kernel) (by decide +kernel)
    exact ⟨u, .inr ⟨by decide +kernel, _, h, by decide +kernel⟩⟩
  · obtain ⟨u, h⟩ : ∃ u, ShadowTop (joiner 0 1 true true 0x1008).own u ⟨0, 0⟩ 0x1008 :=
      shadow_top (off := 0x7B000) (by decide +kernel) (by decide +kernel) (by decide +kernel) (by decide +kernel) (by decide +kernel)
    exact ⟨u, .inr ⟨by decide +kernel, _, h, by decide +kernel⟩⟩

theorem witness_Writable : Writable scratch.own ⟨0, 0⟩ 8 0x100 ∧
    ¬ Writable (with0 { ctxWith [] with status := {} }).own ⟨0, 0⟩ 8 0x7B000 :=
  ⟨fun h => absurd h (by decide), fun h => absurd (h (by decide)) (by decide)⟩

theorem witness_credits : CreditIs (withG []).own ⟨0, 0⟩ none none ∧
    CreditIs (grouped { isOpen := true } member5 []).own ⟨0, 0⟩ (some 1) (some member5.value) ∧
    ((withG []).own.h ⟨0, 0⟩ 1).value = 0 := by
  refine ⟨rfl, ?_, by decide⟩
  show _ ∧ _ ∧ _
  decide

theorem witness_payloads : PayloadIs scratch.own scratch.own ⟨0, 0⟩ [] [] ∧
    ∃ u ws, PayloadIs scratch.own u ⟨0, 0⟩ [spVa 0x100] ws := by
  refine ⟨fun _ => rfl, ?_⟩
  refine ⟨(scratch.own.arrived ⟨0, 0⟩ (spVa 0x100)).poisonAt (spKey 0 0x100) 8 |>.1,
    [((scratch.own.arrived ⟨0, 0⟩ (spVa 0x100)).poisonAt (spKey 0 0x100) 8).1.word (spKey 0 0x100)], fun k => ?_⟩
  rw [State.ownPayload, State.owns_word (pa := 2 ^ 28 + 0x100) (off := 0x100) (by decide) (by decide) (by decide) (by decide) (by decide)]
  rfl

theorem witness_Locates : ∃ u v,
    Locates region.own u ⟨0, 0⟩ {} (region.own.g ⟨0, 0⟩ 1) (.vault 0 0x0B800000) ∧ isGaz 0x0B800000 = true ∧
    Locates u v ⟨0, 0⟩ {} (region.own.g ⟨0, 0⟩ 1 + BitVec.ofNat 64 255) (.vault 0 0x0B8000FF) ∧ isGaz 0x0B8000FF = true ∧
    0x0B8000FF = 0x0B800000 + (256 - 1) ∧
    (∃ x, Locates scratch.own x ⟨0, 0⟩ {} (spVa 0x200) (.scratch 0 0x200) ∧
      gazOffset 0 false (Loc.scratch 0 0x200).key = .error 0x0B) := by
  refine ⟨region.own.arrived ⟨0, 0⟩ (region.own.g ⟨0, 0⟩ 1), (region.own.arrived ⟨0, 0⟩ (region.own.g ⟨0, 0⟩ 1)).arrived ⟨0, 0⟩
      (region.own.g ⟨0, 0⟩ 1 + BitVec.ofNat 64 255), fun tval k => ?_, by decide, fun tval k => ?_, by decide, by decide,
    scratch.own.arrived ⟨0, 0⟩ (spVa 0x200), fun tval k => ?_, by decide⟩
  · rw [State.locates (pa := 0x0B800000) (by decide)]
    have h : (region.own.arrived ⟨0, 0⟩ (region.own.g ⟨0, 0⟩ 1)).locate 0x0B800000 = .vault 0 0x0B800000 := by decide
    rw [h]
  · rw [State.locates (pa := 0x0B8000FF) (by decide)]
    have h : ((region.own.arrived ⟨0, 0⟩ (region.own.g ⟨0, 0⟩ 1)).arrived ⟨0, 0⟩
      (region.own.g ⟨0, 0⟩ 1 + BitVec.ofNat 64 255)).locate 0x0B8000FF = .vault 0 0x0B8000FF := by decide
    rw [h]
  · rw [State.locates (pa := 2 ^ 28 + 0x200) (by decide)]
    have h : (scratch.own.arrived ⟨0, 0⟩ (spVa 0x200)).locate (2 ^ 28 + 0x200) = .scratch 0 0x200 := by decide
    rw [h]

theorem witness_RemoteCommandsAreSent :
    (let c := { commandOf (.sendm 1 3 2 ⟨none, none⟩) with ops := [1, 9] }
     let s0 := atHead 8 c
     let s : State := { s0 with cores := s0.cores ++ [(1, { run := some job7 })] }
     s.queueOn 0 8 = true ∧ s.soloHead 0 8 = some c ∧ c.ready = true ∧ (sendTarget (c.op1 0)).1 = s.mod.devId ∧
       s.mod.devId < s.mod.domain ∧ s.partner? 0 (sendTarget (c.op1 0)).2 = some 1) ∧
    (∀ i ∈ [Instr.rpcAmo .add true 1 2 ⟨none, none⟩, .rpcGet .d false 5 1 ⟨none, none⟩, .rpcPut .full 1 2 none ⟨none, none⟩,
        .rpcCall false 1 0 4 2 0 ⟨none, none⟩],
      let c := { commandOf i with ops := [spVa 0x7FFF8, 9] }
      let s := atHead 8 c
      s.queueOn 0 8 = true ∧ s.soloHead 0 8 = some c ∧ c.ready = true ∧ (c.op1 0).toNat = ownAperture + 0x7FFF8 ∧
        0x7FFF8 + 8 ≤ 0x80000 ∧ (c.op1 0).toNat % 8 = 0 ∧ s.logicalOf 0 = some 0 ∧ inShadow 0x7FFF8 8 = false) := by
  decide +kernel

/-- Core 5 is a gateway of link 0; its control context, with a block of that link in its ring or none. -/
def gateway (ring : List RingEntry) : State :=
  { State.reset with cores := [(5, { part := { ctxs := [(0, ctxWith [])], ring } })], focus := ⟨5, 0⟩, mod := { gateways := 1 } }

theorem witness_gwTake :
    let e : RingEntry := { id := 3, start := 0, units := 2, block := some (0, 64) }
    (gateway []).own.isGateway 5 0 = true ∧ ({ withG [] with mod := { gateways := 0 } } : State).own.isGateway 0 0 = false ∧
    ((gateway []).own.ctx ⟨5, 0⟩).hold.gates = [] ∧ ((gateway []).own.core 5).part.nextBlock 0 = none ∧
    ((gateway [e]).own.core 5).part.nextBlock 0 = some e ∧ ((gateway [e]).own.mail 5).waiters = [] := by decide +kernel

theorem witness_copy_descriptor : ∃ v v' m m',
    DescIs (descriptor.issuing (.tcopy 0 1 3 none ⟨none, none⟩)) v ⟨0, 0⟩ (descriptor.own.g ⟨0, 0⟩ 1) 0 [(0, 0), (0, 1), (0, 2), (0, 3)] [] m ∧
    (1 ≤ descDims m ∧ descDims m ≤ 12) ∧
    DescIs v v' ⟨0, 0⟩ (descriptor.own.g ⟨0, 0⟩ 1) 0
      ((upTo (descDims m)).flatMap (fun i => [(i, 4 + i / 2), (i, 10 + 2 * i), (i, 11 + 2 * i)])) m m' ∧
    descBad m' = false ∧ descSkew m' = none ∧ (descriptor.ctx ⟨0, 0⟩).hold.progress = none := by
  obtain ⟨v, v', m, m', h1, h2, h3, h4, h5⟩ := witness_CopyCommandsAtIssue.2.1
  exact ⟨v, v', m, m', h1, h2, h3, h4, h5, rfl⟩

theorem witness_fences :
    (((upTo 9).filter (fun q => Nat.testBit 8 q)).any ((queued 3 8 .nop).own.queueFull 0) = true) ∧
    (((upTo 9).filter (fun q => Nat.testBit 511 q)).any ((withG []).own.queueFull 0) = false) ∧
    (let s := atHead 2 { commandOf (.apSt 0 1 ⟨none, none⟩) with ops := [0x1000, 64] }
     s.own.undrained 0 .vault (writingQueues.flatMap (fun q => (s.own.queue 0 q).cmds.map (fun c => (q, c.seq)))) = true) ∧
    (let stores := fun (r : Req) => decide (DrainPath.table = .table) && isVault r.key && decide (keyCore r.key = 0)
       && isGaz (keyOff r.key)
     let f := fun (b : BankBusy) => with0 (ctxWith []) (fun c => { c with
       vaultRequests := [request (coreKey 0 0x0B800000)], vault := { banks := [(46, { busy := b })] } })
     ((f .refresh).own.flush ⟨0, 0⟩ stores).flushed ⟨0, 0⟩ stores = false ∧
       ((f .idle).own.flush ⟨0, 0⟩ stores).flushed ⟨0, 0⟩ stores = true) := by decide +kernel

theorem witness_bindings :
    (∃ u, Member (grouped { isOpen := true, regions := List.replicate 4 (0, 64) } member5 []).own u ⟨0, 0⟩ 1 home5 member5
      { isOpen := true, regions := List.replicate 4 (0, 64), live := true, name := 5, epoch := 3 }) ∧
    (let e : BitVec 16 × Nat × Nat × Nat := (0, spKey 0 0x100, 0x1000, 0x1040)
     let u : State := { scratch with units := [(0, { words := List.replicate 63 e })] }
     let v : State := { scratch with units := [(0, { words := List.replicate 64 e })] }
     (u.unit (clusterOf (keyCore e.2.1))).words.length < 64 ∧ e ∈ (u.unit (clusterOf (keyCore e.2.1))).words ∧
       64 ≤ (v.unit (clusterOf (keyCore e.2.1))).words.length) :=
  ⟨⟨_, State.member (by decide) (by decide) (by decide)⟩, by decide⟩

theorem witness_register_windows :
    ((with0 { ctxWith [] with trap := { vrefSel := 47 } }).ctx ⟨0, 0⟩).trap.vrefSel.toNat = 47 ∧ 47 < 48 ∧
    (let r := ((withG []).own.core 0).part.regs
     ringFits 0x7C600 r.ringSize.toNat = true ∧ ringFits r.ringBase.toNat 0x3800 = true ∧ ringFits r.ringBase.toNat 0 = true ∧
       33 % 64 ≠ 0 ∧ 0x80000 < 0x80040) ∧
    (let s := atHead 2 (commandOf (.apCnt 5 1 ⟨none, none⟩) false true) (fun p => { p with
       plane := { apmpc := 0x80000000, apsweep := 0x8000000000000000 } })
     s.own.planeRuns 0 = true ∧ (s.own.regWord ⟨0, 0⟩ .apmpc).getLsbD 31 = true ∧
       (s.own.regWord ⟨0, 0⟩ .apsweep).getLsbD 63 = true) ∧ (withG []).own.planeRuns 0 = false ∧
    ((withG []).own.regWord ⟨0, 0⟩ .apmpc).getLsbD 31 = false := by decide +kernel

/-- A fault of a queue of core 0. -/
def faultOf (queue : Nat) : CommandFault := { queue, slot := 0, gen := 0, cause := 0x0B, seq := 0, pc := 0x1000, tval := 0 }

theorem witness_resumes :
    (let r : PartRegs := { cfr := some { faultOf 0 with joint := true } }
     r.cfr = some { faultOf 0 with joint := true } ∧ r.faults = []) ∧
    (let r : PartRegs := { cfr := some { faultOf 0 with stream := some 1 } }
     r.cfr = some { faultOf 0 with stream := some 1 } ∧ r.faults = []) ∧
    (let s := with0 (ctxWith []) (fun c => { c with part := { c.part with
       regs := { cfr := some (faultOf 1), faults := [faultOf 2] } } })
     (s.own.core 0).part.regs.cfr = some (faultOf 1) ∧ (s.own.core 0).part.regs.faults = faultOf 2 :: [] ∧
       (faultOf 2).joint = false ∧ (faultOf 2).slot < 11 ∧ s.own.lives ⟨0, (faultOf 2).slot⟩ (faultOf 2).gen = true) := by
  decide +kernel

theorem witness_walks :
    let read := fun (e : Nat) (x : Walk) (l : List Mapping) => ({ walking e with
      clusters := [(0, { walks := [x], read := [0], ranges := l })] } : State)
    let m : Mapping := { asid := 0, base := 0, size := 0x10000, target := 0, w := false, x := false, u := true }
    let found : Mapping := { asid := 0, base := 0x1000, size := 0x1000, target := 0x7FF * 2 ^ 47 + 0x5000, w := false, x := false, u := true }
    walkAt.page = none ∧ walkAt.asid ∉ ((walking 0).cluster 0).read ∧
    (walkAt.asid ∈ ((read 0 walkAt [m]).cluster 0).read ∧
      bestRange ((read 0 walkAt [m]).cluster 0).ranges walkAt.asid walkAt.va = some m) ∧
    (∀ e ∈ [presentLeaf, absentLeaf], walkAt.asid ∈ ((read e walkAt []).cluster 0).read ∧
      bestRange ((read e walkAt []).cluster 0).ranges walkAt.asid walkAt.va = none) ∧
    (((read presentLeaf walkAt []).walkLevel walkAt).state = .done (some found) ∧
      found ∉ ((read presentLeaf walkAt []).cluster 0).ranges) ∧
    ((read absentLeaf walkAt []).walkLevel walkAt).state = .parked 0 0x1000 ∧
    ((read 0 { walkAt with state := .parked 0 0x1000 } []).own.cluster (clusterOf 0)).walks =
      [{ walkAt with state := .parked 0 0x1000 }] ∧
    ((withG [(1, 0xFFFF)]).own.g ⟨0, 0⟩ 1).toNat < 2 ^ 16 ∧ 2 ^ 57 ≤ ((withG [(1, 0x200000000000000)]).own.g ⟨0, 0⟩ 1).toNat ∧
    (∀ m ∈ ((walking 0).cluster 0).ranges, m.asid ∈ ((walking 0).cluster 0).read) := by decide +kernel

theorem witness_aborts :
    ((scanning false).own.cluster (clusterOf 0)).scan = some ((0 : Nat), (1 : Nat), false) ∧
    (let s : State := { withG [] with clusters := [(0, { scan := some (2, 1, false) })] }
     (2 : Nat) ≠ 0 ∧ (s.own.cluster (clusterOf 0)).scan = some (2, 1, false)) ∧
    ((withG [(1, 24)]).own.g ⟨0, 0⟩ 1).toNat / 24 ≠ clusterOf 0 := by decide +kernel

theorem witness_core_maps :
    (let o := ({ withG [(1, 1), (2, 0)] with dx := { spareUsed := [0] } } : State).own
     (o.g ⟨0, 0⟩ 2).getLsbD 1 = false ∧ 1 / 24 ∈ o.dx.spareUsed ∧ ∀ m ∈ o.dx.moving, m.core / 24 ≠ 1 / 24) ∧
    (let x := { ctxWith [] with hold := { hand := some (.cmap 1 2) } }
     let s : State := { with0 x (fun c => { c with part := { c.part with regs := { tvec := 0x4000 } } }) with
       dx := { moving := [{ who := ⟨0, 0⟩, gen := 0, core := 1, evac := true, unmap := false }] } }
     s.dx.moving = [{ who := ⟨0, 0⟩, gen := 0, core := 1, evac := true, unmap := false }] ∧ s.lives ⟨0, 0⟩ 0 = true ∧ s.physOf 1 = some 1 ∧ (s.ctx ⟨0, 0⟩).hold.hand = some (.cmap 1 2) ∧ 0 < 11 ∧
       (s.ctx ⟨0, 0⟩).pc ≠ s.trapEntry ⟨0, 0⟩ ∧ s.dx.jobs = [] ∧ (∀ p ∈ s.cores, p.2.part.mail.waiters = []) ∧
       0 ≠ physAt (1 / 24) (s.dx.spareOf (1 / 24)))  ∧
    (1151 < ((withG [(1, 1152)]).own.g ⟨0, 0⟩ 1).toNat ∧ (withG []).own.logicalOf 0 = some 0) ∧
    (let o := ({ withG [(1, 2), (2, 0)] with dx := { moving := [{ who := ⟨5, 0⟩, gen := 0, core := 1, evac := true, unmap := true }] } } : State).own
     (o.g ⟨0, 0⟩ 1).toNat = 2 ∧ ∃ m ∈ o.dx.moving, m.core / 24 = 2 / 24) ∧
    (let o := ({ withG [(1, 1), (2, 0)] with dx := { map := [(2, none)] }, cores := [(0, { part := { ctxs := [(0, ctxWith [(1, 1)])] } }),
       (1, { run := some job7 })] } : State).own
     o.physOf 2 = none ∧ o.physOf 1 = some 1 ∧ (o.core 1).run.isSome = true ∧ ∀ m ∈ o.dx.moving, m.core / 24 ≠ 1 / 24) ∧
    (1 < 0x7FF ∧ (1 : Nat) ≠ physAt (1 / 24) (State.reset.dx.spareOf (1 / 24)) ∧ State.reset.memory.wf = true ∧
      evacuated 0x1000 = true ∧ State.reset.sectorReached 164 0x1000 = true ∧ State.reset.sectorReached 1 0x1000 = true ∧
      (let v : Vault := { retired := [(0, 0), (1, 0)] }
       ({ State.reset with cores := [0, 1, 40, 41].map (fun k => (k, { vault := v })) } : State).sectorReached 1 0x1000 = false)) := by decide +kernel

theorem witness_jsub :
    (scratch.own.g ⟨0, 0⟩ 4).toNat < 2048 ∧ (scratch.own.g ⟨0, 0⟩ 2).toNat % 128 = 0 ∧
    OwnScratch scratch.own ⟨0, 0⟩ (scratch.own.g ⟨0, 0⟩ 2) 128 0x200 ∧
    (∀ p ∈ scratch.own.cores, p.2.requests = [] ∧ p.2.vaultRequests = []) ∧ (scratch.own.core 0).marks.stripe = .clean ∧
    (scratch.own.ctx ⟨0, 0⟩).remote = [] ∧ (∀ j < 128, scratch.own.memory.marked (spKey 0 (0x200 + j)) = false) ∧
    ((upTo 16).map (fun k => scratch.own.word (spKey 0 0x200 + 8 * k))).getD 3 0 = 0 :=
  have h := quiet_scratch 0x200 128 (by decide) (by decide) (by decide)
  ⟨by decide, by decide, h.1, by decide, rfl, rfl, h.2.2.1, by decide⟩

theorem witness_preemption_steps :
    (let s := with0 (ctxWith []) (fun c => { c with run := some job7, preemption := .stopping })
     s.mayBeginSave 0 = true ∧ ∀ k < 19, (s.flushCore 0).flushed ⟨0, k⟩ (fun _ => true) = true) ∧
    (let s : State := { State.reset with cores := [(0, { part := { ctxs := [(0, ctxWith [])] } }),
       (1, { run := some job7, preemption := .saving 9, requester := some (⟨0, 0⟩, 0) })] }
     (s.core 1).preemption = .saving 9 ∧ (s.core 1).run = some job7 ∧ s.logicalOf 1 = some 1 ∧ (s.core 1).saved = none ∧
       (s.queue 1 1).head = none ∧ (s.core 1).requester = some (⟨0, 0⟩, 0) ∧ 0 ≠ 1 ∧ s.lives ⟨0, 0⟩ 0 = true) ∧
    (let im := { image true with logical := 1 }
     let f := fun (r : Option (Who × Nat)) => ({ State.reset with cores := [(0, { part := { ctxs := [(0, ctxWith [])] } }),
       (1, { saved := some im, requester := r })] } : State)
     (f none).physOf 1 = some 1 ∧ (f none).taken 1 = false ∧ im.run.notify = false ∧ im.part = {} ∧ im.held = true ∧
       ((f none).core 1).requester = none ∧ ((f (some (⟨0, 0⟩, 0))).core 1).requester = some (⟨0, 0⟩, 0) ∧
       (f (some (⟨0, 0⟩, 0))).lives ⟨0, 0⟩ 0 = true) ∧
    (let o := ({ withG [(1, 1)] with cores := [(0, { part := { ctxs := [(0, ctxWith [(1, 1)])] } }),
       (1, { run := some job7, preemption := .called })] } : State).own
     (o.core 1).preemption ≠ .none ∧ (o.core 1).run.isSome = true ∧ (withG [(1, 1)]).own.physOf 1 = some 1 ∧
       ((withG [(1, 1)]).own.core 1).run = none ∧ ((withG [(1, 1)]).own.core 1).saved = none) := by decide +kernel

/-- A vault none of whose Welts serves the segment that holds the repair logs. -/
def deaf : Vault := { retired := [(0, 11), (1, 11)], recordLost := true }

theorem witness_degradation :
    ((State.reset.bank 0 (bankOf 0x2000)).spares.length < 32 ∧ 0x0B13FFFF < 0x0B140000 ∧
      State.reset.bankBusy 0 0x2000 = false ∧ ({ line1 with line := 575 } : WeltLine).line < 576 ∧
      line1 ∉ (State.reset.core 0).vault.repaired) ∧
    (let v : Vault := { repaired := (upTo 16).map (fun k => { line1 with line := k }) }
     16 ≤ v.lanesUsed 1 11 ∧ { line1 with line := 16 } ∉ v.repaired ∧ (1, 11) ∉ v.retired) ∧
    (let s := with0 { ctxWith [] with hold := { hand := some (.weltRetire 1 11) } } (fun c => { c with
       vault := { switching := [{ welt := 1, seg := some 11, work := 2 }], operations := [0] } })
     (s.core 0).vault.switching = [{ welt := 1, seg := some 11, work := 2 }] ∧ s.weltOwner 0 (.weltRetire 1 11) = some 0 ∧ s.agentOn = true) ∧
    ((with0 (ctxWith []) (fun c => { c with vault := { retired := [(1, 11)] } })).own.core 0).vault.switching = [] ∧
    (let s0 := with0 { ctxWith [] with hold := { hand := some .weltRestore } } (fun c => { c with
       vault := { deaf with operations := [0] }, part := { c.part with regs := { tvec := 0x4000 } } })
     let s : State := { s0 with cores := s0.cores ++ [1, 40, 41].map (fun k => (k, { vault := deaf })) }
     s.weltOwner 0 .weltRestore = some 0 ∧ (s.core 0).vault.switching = [] ∧ (s.core 0).vault.recordLost = true ∧
       s.copyReads (ownCopy 0) = false ∧ s.copyReads (otherCopy 0) = false ∧ (s.ctx ⟨0, 0⟩).pc ≠ s.trapEntry ⟨0, 0⟩ ∧
       s.logReads 0 = false) ∧ State.reset.logReads 0 = true := by
  decide +kernel

theorem witness_full_deques :
    let busy := (upTo 11).map (fun k => (k, ctxWith []))
    let f := fun n => jobRuns (ctxWith []) (fun p => { p with
      ctxs := busy, deque := List.replicate n anyTask, steal := { answer := some (some anyTask), victim := some 1 } })
    (f 31).partOn 0 = true ∧ (f 31).freeHelper 0 = none ∧ ((f 31).core 0).part.deque.length < 32 ∧
    32 ≤ ((f 32).core 0).part.deque.length ∧ ((f 32).core 0).part.steal.answer = some (some anyTask) := by decide +kernel

theorem witness_part_ends :
    let s := jobRuns { ctxWith [] with hold := { hand := some .hexit } }
    (∀ task, (s.core 0).part.steal.answer ≠ some (some task)) ∧ ∀ m < 11, (s.ctx ⟨0, m⟩).held = [] := by
  intro s
  have h : (s.core 0).part.steal.answer = none := rfl
  rw [h]
  refine ⟨fun task h => ?_, by decide⟩
  cases h

theorem witness_queue_heads :
    (∀ q ∈ [0, 1, 3], ∀ i ∈ [Instr.tst 1 0 2 3 ⟨none, none⟩, .mz 1 ⟨none, none⟩, .tqLk .bf 5 1 2 ⟨none, none⟩],
      let c := commandOf i
      let s := atHead q c
      s.queueOn 0 q = true ∧ s.soloHead 0 q = some c ∧ c.ready = true ∧ c.running = false ∧ c.stream = none) ∧
    (atHead 1 (commandOf (.mz 1 ⟨none, none⟩))).operandsReady 0 (.mz 1 ⟨none, none⟩) = .ready ∧
    (atHead 3 (commandOf (.tqLk .bf 5 1 2 ⟨none, none⟩))).operandsReady 0 (.tqLk .bf 5 1 2 ⟨none, none⟩) = .ready ∧
    (∀ x ∈ [((0 : Nat), Instr.tst 1 0 2 3 ⟨none, none⟩), (2, .apCnt 5 1 ⟨none, none⟩), (3, .tqLk .bf 5 1 2 ⟨none, none⟩)],
      let c := commandOf x.2 false true
      let s := atHead x.1 c
      s.queueOn 0 x.1 = true ∧ s.soloHead 0 x.1 = some c ∧ c.ready = true ∧ c.running = true) := by decide +kernel

theorem witness_plane_starts :
    let c := commandOf (.apCnt 5 1 ⟨none, none⟩)
    let s := atHead 2 c
    s.queueOn 0 2 = true ∧ s.soloHead 0 2 = some c ∧ c.ready = true ∧ c.running = false ∧ c.stream = none ∧
      s.operandsReady 0 c.instr = .ready ∧ s.startPlane 0 c = .stays s := by
  refine ⟨by decide +kernel, by decide +kernel, rfl, rfl, rfl, rfl, rfl⟩

theorem witness_loads_and_add_ins :
    (let c := commandOf (.tld .i8 1 2 3 4 5 ⟨none, none⟩)
     let s := atHead 0 c (fun p => { p with loads := [c] })
     s.soloHead 0 0 = some c ∧ c.stream = some 1 ∧ s.queueOn 0 0 = true ∧ c.ready = true ∧ (s.part 0).loads ≠ []) ∧
    (let c : Cmd := { commandOf (.mdrainr true 1 2 3 ⟨none, none⟩) with done := 1, ops := [1] }
     let r : Receive := { left := 1, word := 0 }
     let s0 := atHead 1 c
     let s : State := { s0 with cores := s0.cores ++ [(1, { run := some job7, part := { accs := [(3, { recv := some r })] } })] }
     s.soloHead 0 1 = some c ∧ s.addInTarget 0 (c.op1 0) = some 1 ∧ s.savedFor 1 (s.core 0).jobId = none ∧
       (s.acc 1 3).recv = some r ∧ s.isSaving 1 = false ∧ (s.acc 1 3).refused = []) := by decide +kernel

theorem witness_deferred_arrivals :
    let e : HeldArrival := { h := 1, handle := member5.value, waits := [] }
    let s0 := grouped { isOpen := true } member5 []
    let s := (s0.modCtx ⟨0, 0⟩ (fun c => { c with held := [e] })).modCore 0 (fun c => { c with run := some job7 })
    (s.ctx ⟨0, 0⟩).held = e :: [] ∧ (s.core 0).run.isSome = true ∧ s.isSaving 0 = false ∧
      s.recordOf (s.asid 0) e.handle = some { isOpen := true, live := true, name := 5, epoch := 3 } ∧
      ∃ u, ReleasesObject s u ⟨0, 0⟩ [] := by
  refine ⟨by decide +kernel, by decide +kernel, by decide +kernel, by decide +kernel, _,
    State.releases_object (by decide +kernel) (by decide +kernel)⟩

theorem witness_handler_writes :
    let f := fun (b : BankBusy) => with0 (ctxWith []) (fun c => { c with
      handlers := [(0, { ctxWith [] with reply := some (owed false), hold := { fwEntry := some 5, returnTrap := true } })]
      vaultRequests := [{ request (coreKey 0 0x1000) with who := ⟨0, 11⟩ }], vault := { banks := [(0, { busy := b })] } })
    ((f .idle).ctx ⟨0, 11⟩).live = true ∧ ((f .idle).flush ⟨0, 11⟩ (fun _ => true)).flushed ⟨0, 11⟩ (fun _ => true) = true ∧
    ((f .refresh).flush ⟨0, 11⟩ (fun _ => true)).flushed ⟨0, 11⟩ (fun _ => true) = false ∧
    ((f .refresh).ctx ⟨0, 11⟩).hold.fwEntry = some 5 ∧ ((f .refresh).core 0).part.returns.length < 8 := by decide +kernel

theorem witness_gateway_blocks :
    (∀ c ∈ [({ run := some job7 } : Core), { saved := some (image false) }],
      (c.run = some job7 ∧ job7.asid = 0) ∨ (c.run = none ∧ c.saved = some (image false) ∧ (image false).run.asid = 0)) ∧
    (∀ r, ({ run := some { job7 with asid := 5 } } : Core).run = some r → r.asid ≠ 0) := by
  refine ⟨?_, fun r h => ?_⟩
  · intro c hc
    simp only [List.mem_cons, List.not_mem_nil, or_false] at hc
    rcases hc with rfl | rfl
    · exact .inl ⟨rfl, rfl⟩
    · exact .inr ⟨rfl, rfl, rfl⟩
  · cases h
    decide

theorem witness_lost_legs :
    let s := copying 8 none [{ leg0 with link := some 0 }]
    (s.legsOf 0 0).find? (fun l => decide (l.link = some 0)) = some { leg0 with link := some 0 } ∧
    ((s.queue 0 (chQueue 0)).head).any (fun c => decide (c.failed = none)) = true ∧ 0 ∉ s.mod.failedLinks ∧ s.fabric = [] := by
  decide +kernel

theorem witness_copy_distance :
    (∀ l ∈ [leg0], 968 + 64 ≤ l.offset + l.bytes.length + 1024) ∧ (∃ l ∈ [leg0], l.offset + l.bytes.length + 1024 < 969 + 64) ∧
    (let s := copying 8 none [leg0]
     leg0.listed = false ∧ s.fabric = [] ∧ (s.core (keyCore leg0.key)).spill = [] ∧ (s.core 0).run = some job7 ∧
       job7.job = (s.core 0).jobId) := by decide +kernel

/-! ## Small steps -/

/-- The state after one instruction. -/
def nextOf (i : Instr) (s : State) : State :=
  match exec i s with
  | .next t => t
  | _ => { s with tick := 999 }

/-- The control context after one instruction of it, with its results landed. -/
def after (i : Instr) (s : State) : Ctx := ((nextOf i s).ctx ⟨0, 0⟩).landAll

/-- What `i` leaves in `g5` with operands in `g6` and `g7`. -/
def g5 (i : Instr) (a b : Word) : Word := (after i (withG [(5, 0xFFFFFFFFFFFFFFFF), (6, a), (7, b)])).regs.g.get 0 5

/-- `g5` and FFLAGS. -/
def g5f (i : Instr) (a b : Word) : Word × BitVec 5 :=
  let c := after i (withG [(6, a), (7, b)])
  (c.regs.g.get 0 5, c.status.fflags)

/-- spec/21_ref_add_brk.md, R368. -/
theorem test_bit_fields : g5 (.bext 5 6 8 12) 0xABCDEF 0 = 0xBCD ∧ g5 (.bins 5 6 4 8) 0xABCDEF 0 = 0xFFFFFFFFFFFFFEFF := by
  decide +kernel

/-- spec/22_ref_call_gw.md, "Example: borderline quotients". -/
theorem test_quotients :
    g5 (.div 5 6 7) (-7) 2 = -3 ∧ g5 (.divu 5 6 7) (-7) 2 = 0x7FFFFFFFFFFFFFFC ∧ g5 (.div 5 6 7) 7 0 = -1 ∧
    g5 (.divu 5 6 7) 7 0 = -1 ∧ g5 (.div 5 6 7) 0x8000000000000000 (-1) = 0x8000000000000000 ∧
    g5 (.divu 5 6 7) 0x8000000000000000 (-1) = 0 := by decide +kernel

/-- spec/24_ref_ract_unbind.md, "Example: borderline shifts and remainders". -/
theorem test_shifts_and_remainders :
    g5 (.shlImm 5 6 4) 0x80000000000000F0 0 = 0xF00 ∧ g5 (.shrImm 5 6 4) 0x80000000000000F0 0 = 0x080000000000000F ∧
    g5 (.sraImm 5 6 4) 0x80000000000000F0 0 = 0xF80000000000000F ∧ g5 (.rot 5 6 7) 0x80000000000000F0 72 = 0xF080000000000000 ∧
    g5 (.rem 5 6 7) (-7) 2 = -1 ∧ g5 (.rem 5 6 7) 7 0 = 7 ∧ g5 (.rem 5 6 7) 0x8000000000000000 (-1) = 0 ∧
    g5 (.remu 5 6 7) (-7) 2 = 1 := by decide +kernel

/-- spec/23_ref_hexit_qset.md, the products. -/
theorem test_high_products : g5 (.mulh 5 6 7) 0x8000000000000000 2 = 0xFFFFFFFFFFFFFFFF ∧
    g5 (.mulhu 5 6 7) 0x8000000000000000 2 = 1 := by decide +kernel

/-- spec/22_ref_call_gw.md, "Example: conversions". NX is bit 0 of FFLAGS and NV bit 4 (R64). -/
theorem test_conversions :
    g5f (.fcvt .bf16 .f32 .rne 5 6) 0x40490FDB 0 = (0x4049, 1) ∧ g5f (.fcvt .i32 .f32 .rtz 5 6) 0x40300000 0 = (2, 1) ∧
    g5f (.fcvt .i32 .f32 .rtz 5 6) 0xCF32D05E 0 = (0xFFFFFFFF80000000, 16) ∧ g5f (.fcmp .lt 5 6 7) 0x7FC00000 0 = (0, 16) := by
  decide +kernel

/-- spec/02_execution.md, "Example: counting a multiply's distance": the third instruction behind `mul` reads the product,
and under HZD the first reader traps with TVAL 0x0004. -/
theorem test_multiply_distance :
    let s := with0 (ctxWith [(1, 6), (2, 7), (4, 1)]) (fun c => { c with part := { c.part with regs := { tvec := 0x4000 } } })
    let t := nextOf (.mul 4 1 2) s
    let u := t.modStatus ⟨0, 0⟩ (fun x => { x with hzd := true })
    (t.ctx ⟨0, 0⟩).hold.inFlight (.g 4) = true ∧ ((t.ctx ⟨0, 0⟩).begun.begun.begun).regs.g.get 0 4 = 42 ∧
    u.hazard ⟨0, 0⟩ (.add 5 4 0) = some (.g 4) ∧ (after (.add 5 4 0) u).trap.tval = 4 := by decide +kernel

/-- spec/24_ref_ract_unbind.md, "Example: user writes to `STATUS`". -/
theorem test_user_writes_status :
    let user := fun (x : Word) => after (.syswStatus 5)
      (with0 { ctxWith [(5, x)] with status := { fflags := 1 } } (fun c => { c with part := { c.part with regs := { tvec := 0x4000 } } }))
    (user 0).status.fflags = 0 ∧ (user 0x8000).status.hzd = false ∧ (user 0x8000).status.intrap = false ∧
    (user 0x400).trap.tcause = 3 ∧ (user 0x400).trap.tval = 0x10 ∧ (user 0x400).status.fflags = 1 ∧
    (user 0x100).status.pl = 0 ∧ (user 0x100).status.fflags = 0 := by decide +kernel

/-- spec/03_state.md, "Example: reading a command fault". -/
theorem test_command_fault_register :
    (with0 (ctxWith []) (fun c => { c with part := { c.part with regs := { cfr :=
      (some { queue := 5, slot := 3, gen := 0, cause := 5, seq := 0x42, pc := 0, tval := 0 }) } } })).regWord ⟨0, 0⟩ .cfr =
      0x8530500000000042 := by decide +kernel

/-- spec/01_organisation.md, "Example: placing one physical core" and "Example: decomposing a Gazetteer address". -/
theorem test_places : clusterOf 703 = 28 ∧ localOf 703 = 13 ∧ State.reset.logicalOf 703 = some 685 ∧
    bankOf 0x0B812840 = 11 * 4 + 2 ∧ rowOf 0x0B812840 = 37 ∧ isGaz 0x0B812840 = true := by decide +kernel

/-- spec/07_memory.md, "Example: one aperture address": context 3 of logical core 685. -/
theorem test_aperture :
    let s : State := { State.reset with cores := [(703, { run := some job7 }), (704, { run := some job7 })] }
    s.translate (.ctx ⟨703, 3⟩) 703 0 0 {} 0x1FFFFFF00700040 = .ok 0x0157000010000040 := by decide +kernel

/-- R335: SHA-256 of "abc", the example of one block of FIPS 180-4. -/
theorem test_sha : Sha.digest [0x61, 0x62, 0x63] = [0xBA, 0x78, 0x16, 0xBF, 0x8F, 0x01, 0xCF, 0xEA, 0x41, 0x41, 0x40, 0xDE, 0x5D, 0xAE,
    0x22, 0x23, 0xB0, 0x03, 0x61, 0xA3, 0x96, 0x17, 0x7A, 0x9C, 0xB4, 0x10, 0xFF, 0x61, 0xF2, 0x00, 0x15, 0xAD] := by decide +kernel

/-- spec/17_outside.md, "Example: gateways of QL5". -/
theorem test_gateways : State.reset.gatewaySet 5 = [561, 556] := by decide +kernel

/-- spec/09_matrix.md, "Example: one rounding in `msa`". The scales of row and column 0 are the first 9-bit fields. -/
theorem test_msa_rounds_once :
    msaElem 0x4B800000 [(0, 0x40400000), (1024, 0x40400000)] [0x0C0 + 0x0C0 * 512] [0x0E0 + 0x0E0 * 512]
      (Fp.bf16.value 0x3F00) 0 0 = 0x4B800001 := by decide +kernel

/-- spec/11_planes.md, "Example: ADD over three rows, w = 4": D in columns 4 to 7, S in 0 to 3, lowest bit first. -/
theorem test_plane_add :
    let bit := fun (r : Nat) => (1 <<< r : PlaneColumn)
    let x : Plane := { cols := [(0, bit 5 ||| bit 9 ||| bit 12), (1, bit 5), (4, bit 9), (5, bit 5 ||| bit 9 ||| bit 12), (6, bit 5 ||| bit 9),
                               (7, bit 9)], tags := [(1, bit 5 ||| bit 9)] }
    let i := Instr.apSeq 0 4 4 0 0 7 1 ⟨none, none⟩
    (match x.argsOf i with
     | some a => let y := x.runAll a (x.course a)
                 decide (y.field 5 4 4 = 9 ∧ y.field 9 4 4 = 0 ∧ y.field 12 4 4 = 2 ∧ (y.tag 7).getLsbD 5 = false ∧
                   (y.tag 7).getLsbD 9 = true)
     | none => false) = true := by decide +kernel

/-- spec/12_groups.md, "Example: two phases of one group": steps 4 to 6 and the completion of phase 0. -/
theorem test_group_phase :
    let x : Group := { live := true, isOpen := true, epoch := 1, quorum := 3, m := 3, m0 := 3, a := 1, kind := .red .add .f32,
                       acc := 0x4B800000, nc := 1 }
    (match (x.arrive (.red .add .f32) 0x3F800000) with
     | some y => (match y.arrive (.red .add .f32) 0x3F800000 with
       | some z => let c := z.complete
                   decide (y.acc = 0x4B800000 ∧ y.a = 2 ∧ c.res = 0x4B800000 ∧ c.phase = 1 ∧ c.a = 0 ∧ c.lstatus = 0)
       | none => false)
     | none => false) = true := by decide +kernel

/-- spec/06_numbers.md, "Example: encoding values". -/
theorem test_encoding_values :
    (roundVal .e4m3 .rne (.fin false 300 0) false).1 = 0x79 ∧ (roundVal .e2m1 .rne (.fin false 5 0) false).1 = 6 ∧
    (roundVal .bf16 .rne (.fin false 1 (-1)) false).1 = 0x3F00 := by decide +kernel

/-- spec/24_ref_ract_unbind.md and R30: a full deque runs an arm inline, with its frame on the shadow stack. -/
theorem test_inline_fork :
    let s := with0 (ctxWith [(4, 0x77)]) (fun c => { c with part := { c.part with deque := List.replicate 32 anyTask } })
    (after (.fork false 4 8) s).pc = 0x1040 ∧ (after (.fork false 4 8) s).regs.g.get 0 5 = 0x77 ∧
    (after (.fork false 4 8) s).trap.ssp = shadowBase 0 + 8 := by decide +kernel

/-- R97: an instruction that leaves its fetch block; R80: the word behind it does not matter. -/
theorem test_fetch_block : (match decodeAt 0x2018 2 with
    | .error .fetch => true
    | _ => false) = true := by decide +kernel

/-! ## Ill-formed instructions: one for each check of `Instr.wf` -/

theorem test_ill_formed_registers :
    (Instr.add 32 0 0).wf = false ∧ (Instr.add 0 32 0).wf = false ∧ (Instr.add 0 0 32).wf = false ∧
    (Instr.madd 0 0 0 32).wf = false ∧ (Instr.vmov 16 0).wf = false ∧ (Instr.vclamp .i8 0 0 0 16).wf = false ∧
    (Instr.vpcnt 0 8).wf = false ∧ (Instr.grpArr 16).wf = false ∧ (Instr.tqBind 4 0 0 8).wf = false ∧
    (Instr.mpeek 0 32).wf = false ∧ (Instr.cbrel 8 0 ⟨none, none⟩).wf = false ∧ (Instr.mz 4 ⟨none, none⟩).wf = false ∧
    (Instr.apCnt 0 8 ⟨none, none⟩).wf = false ∧ (Instr.qclr 16).wf = false := by decide

theorem test_ill_formed_ranges :
    (Instr.br 134217728).wf = false ∧ (Instr.br (-134217729)).wf = false ∧ (Instr.addi 0 0 32768).wf = false ∧
    (Instr.addi 0 0 (-32769)).wf = false ∧ (Instr.lea 0 0 2147483648).wf = false ∧ (Instr.li 0 (-2147483649)).wf = false ∧
    (Instr.li64 0 18446744073709551616).wf = false ∧ (Instr.andi 0 0 65536).wf = false ∧ (Instr.brk 65536).wf = false ∧
    (Instr.lbrk 2).wf = false ∧ (Instr.bext 0 0 64 1).wf = false ∧ (Instr.bext 0 0 0 0).wf = false ∧
    (Instr.bins 0 0 63 2).wf = false ∧ (Instr.shlImm 0 0 64).wf = false ∧ (Instr.vext 0 0 64).wf = false ∧
    (Instr.vdot .f32 .rne 0 0 0 65).wf = false ∧ (Instr.apClr 255 2 ⟨none, none⟩).wf = false ∧
    (Instr.apLd 0 64 ⟨none, none⟩).wf = false ∧ (Instr.grpNew 0 0 0 16384).wf = false ∧ (Instr.gwTake 0 16).wf = false ∧
    (Instr.qfence 0).wf = false ∧ (Instr.qfence 512).wf = false ∧ (Instr.cwait 0 4 0).wf = false ∧ (Instr.weltRetire 2 0).wf = false ∧
    (Instr.weltRetire 0 12).wf = false ∧ (Instr.mz 0 ⟨some ⟨false, 16⟩, none⟩).wf = false := by decide

theorem test_ill_formed_codes :
    (Instr.fcvt .f32 .f32 .rne 0 0).wf = false ∧ (Instr.ld .d true 0 0 0).wf = false ∧ (Instr.vadd .i8 .rtz 0 0 0).wf = false ∧
    (Instr.vadd .e4m3 .rne 0 0 0).wf = false ∧ (Instr.vfma .i8 .rne 0 0 0 0).wf = false ∧ (Instr.vabs .u8 0 0).wf = false ∧
    (Instr.vshl .f32 0 0 0).wf = false ∧ (Instr.vlds .i4 0 0 0).wf = false ∧ (Instr.vqnt .f32 false .rne 0 0 0).wf = false ∧
    (Instr.vqnt .i8 true .rne 0 0 0).wf = false ∧ (Instr.vcmp .i8 (.fp .lt) 0 0 0).wf = false ∧
    (Instr.vcvt .i8 false .rne .i8 0 0).wf = false ∧ (Instr.vgat .i8 1 0 1).wf = false ∧ (Instr.tqBind 0 0 0 12).wf = false ∧
    (Instr.tqDot true 0 0 1 ⟨none, none⟩).wf = false ∧ (Instr.tqFnSeg 1 0 1 ⟨none, none⟩).wf = false ∧
    (Instr.apMcode 7 0 ⟨none, none⟩).wf = false ∧ (Instr.sysw 0 .status).wf = false ∧ (Instr.syswRing 0 .epc).wf = false ∧
    (Instr.syswLoop 0 (.lc 2)).wf = false ∧ (Instr.tlbInv 1 .all).wf = false ∧ (Instr.rpcGet .d true 0 0 ⟨none, none⟩).wf = false := by
  decide

/-! ## A step runs the instruction that was placed -/

/-- `li g7, 5` (OPC 0x093, D = 7, IMM64 = 5), placed where the next step fetches. -/
theorem test_step_runs :
    decodeTableWord 128 0x5000000000000724E = some (.li 7 5) ∧
    (match step (State.reset.withFetchWord 128 0x5000000000000724E) with
     | .next t => decide ((t.ctx ⟨0, 0⟩).pc = 0x1C0000000001010 ∧ (t.ctx ⟨0, 0⟩).regs.g.get 0 7 = 5)
     | _ => false) = true := by decide +kernel

theorem witness_StepRunsTheDecodedInstruction :
    let s := State.reset.withFetchWord 128 0x5000000000000724E
    let t := { s.elapse with agenda := [] }
    s.agenda = .issue 0 0 :: [] ∧ t.mayIssue ⟨0, 0⟩ = true ∧ (t.ctx ⟨0, 0⟩).hold.fwEntry = none ∧ t.nextAsync ⟨0, 0⟩ = none ∧
    (∃ l u, t.fetchBlock ⟨0, 0⟩ false = .bytes l u ∧ decodeBlock (u.ctx ⟨0, 0⟩).pc l = .ok (.li 7 5) ∧
      (u.ctx ⟨0, 0⟩).hold.yields = 0 ∧ u.isChosen ⟨0, 0⟩ (pipeOf (.li 7 5)) = true) ∧
    (0 < 0x7FF ∧ (t.core 0).code = [] ∧ t.pl ⟨0, 0⟩ = 2 ∧ 0x1C0 * 2 ^ 48 ≤ (t.ctx ⟨0, 0⟩).pc.toNat ∧
      (t.ctx ⟨0, 0⟩).pc.toNat < 0x1E0 * 2 ^ 48 ∧ isGeneral ((t.ctx ⟨0, 0⟩).pc.toNat % 2 ^ 42 / 32 * 32) = true ∧
      t.bankBusy 0 ((t.ctx ⟨0, 0⟩).pc.toNat % 2 ^ 42 / 32 * 32) = false ∧ (t.core 0).requests = [] ∧
      (t.core 0).vaultRequests = [] ∧ (t.core 0).marks.beats = .clean ∧ (t.core 0).resolved = [] ∧
      (t.bank 0 (bankOf ((t.ctx ⟨0, 0⟩).pc.toNat % 2 ^ 42 / 32 * 32))).waiting = [] ∧ t.poisoned (coreKey 0 ((t.ctx ⟨0, 0⟩).pc.toNat % 2 ^ 42 / 32 * 32)) = false) := by
  refine ⟨rfl, by decide +kernel, by decide +kernel, by decide +kernel, ?_, by decide +kernel⟩
  have h : (match ({ (State.reset.withFetchWord 128 0x5000000000000724E).elapse with agenda := [] } : State).fetchBlock ⟨0, 0⟩ false with
    | .bytes l u => (match decodeBlock (u.ctx ⟨0, 0⟩).pc l with
      | .ok i => decide (i = .li 7 5 ∧ (u.ctx ⟨0, 0⟩).hold.yields = 0 ∧ u.isChosen ⟨0, 0⟩ (pipeOf (.li 7 5)) = true)
      | .error _ => false)
    | _ => false) = true := by decide +kernel
  split at h
  · next l u hb =>
    split at h
    · next i hi =>
      obtain ⟨rfl, hy⟩ := of_decide_eq_true h
      exact ⟨l, u, hb, hi, hy⟩
    · cases h
  · cases h

theorem witness_EveryStepKeepsMemoryCanonical :
    (State.reset.withFetchWord 128 0x5000000000000724E).Canonical ∧
    ∃ t, step (State.reset.withFetchWord 128 0x5000000000000724E) = .next t := by
  refine ⟨State.canonical_withFetchWord _ _ State.canonical_reset, ?_⟩
  have h := test_step_runs.2
  split at h
  · next t ht => exact ⟨t, ht⟩
  · cases h

/-! ## Witnesses for the clauses of forms that wait, of records and of whole commands -/

/-- A vault write of the control context that waits at a bank at work, and a release of its own scratchpad behind it. -/
def heldRelease (g : List (Nat × Word)) : State :=
  { with0 (ctxWith g) (fun c => { c with
      requests := [{ request (spKey 0 0x100) with kind := .storeFull, no := 2 }]
      vaultRequests := [{ request (coreKey 0 0x1000) with no := 1 }], vault := { banks := [(0, { busy := .refresh })] } }) with
    units := [(0, { words := [(0, spKey 0 0x100, 0, 64)] })] }

theorem witness_held_releases :
    (let o := (heldRelease []).own
     let mine := fun (r : Req) => isSp r.key && decide (r.who = ⟨0, 0⟩)
     o.freeHelper 0 = some 1 ∧ (o.performWhere 0 mine).buffers 0 mine = true) ∧
    ((heldRelease []).serveEarlier ⟨0, 0⟩ (spKey 0 0x100) 8).earlierWaits ⟨0, 0⟩ (spKey 0 0x100) 8 = true ∧
    ((heldRelease []).flushOwn ⟨0, 0⟩).ownWaits ⟨0, 0⟩ = true ∧
    (scratch.own.flushOwn ⟨0, 0⟩).ownWaits ⟨0, 0⟩ = false := by decide +kernel

theorem witness_fresh_joins :
    (∀ x ∈ [({ isOpen := true, m := 1, m0 := 1 } : Group), { m := 1, quorum := 3 }, { isOpen := true, m := 16000, joinq := 383 }],
      let s := grouped x {} [(2, 5)]
      let u := s.own.unitFirst 0 (homeOf (s.own.g ⟨0, 0⟩ 2))
      nameOk (s.own.g ⟨0, 0⟩ 2) = true ∧ u.findName (s.own.asid 0) (s.own.g ⟨0, 0⟩ 2) = some home5 ∧
        (s.own.h ⟨0, 0⟩ 1).kind = .none ∧ (u.group home5).m = x.m ∧ (u.group home5).isOpen = x.isOpen) ∧
    1 + 0 < 16383 ∧ 16383 ≤ 16000 + 383 := by decide +kernel

/-- A record of the scalar unit, for `1 × 2 + 3`. -/
def record : DivRecord := { instr := .ffma .rne 5 6 7 8, write := .g 5 0x41A00000, flags := 1, units := [⟨0, 0, 0x40A00001⟩] }

theorem witness_redo :
    let o := (with0 { ctxWith [(6, 0x3F800000), (7, 0x40000000), (8, 0x40400000)] with hold := { divergence := [record] } }).own
    (o.ctx ⟨0, 0⟩).hold.divergence = [{ record with age := 1 }] ∧ (o.core 0).marks.upsets = [] ∧
      (record.instr.fpOut (o.g ⟨0, 0⟩) (o.v ⟨0, 0⟩) record.scales).isSome = true ∧ o.partner 0 0 ≠ some 0 ∧ 0 ≤ 96 := by
  decide +kernel

theorem witness_owed_replies :
    ((shipped.own.ctx ⟨0, 1⟩).reply.any (fun r => !r.sent && !r.nr)) = true ∧ (shipped.own.ctx ⟨0, 1⟩).status.intrap = false := by
  decide +kernel

theorem witness_command_effects :
    (let c : Cmd := { commandOf (.tst 1 0 3 4 ⟨none, none⟩) false true with ops := [spVa 0x400, 64] }
     let s := atHead 0 c (fun p => { p with
       streams := [(1, { base := 2, nslots := 2, resv := 2 })], slots := [(2, { bytes := 32, valid := 1, rows := [(0, 5)] })] })
     s.queueOn 0 0 = true ∧ s.soloHead 0 0 = some c ∧ c.ready = true ∧ c.running = true ∧ c.sent = 0 ∧
       (s.slot 0 ((s.stream 0 1).slotAt 0)).valid = 1 ∧ (c.op1 0).toNat = ownAperture + 0x400 ∧ (c.op1 0).toNat % 8 = 0 ∧
       (s.logicalOf 0).isSome = true ∧ (s.core 0).resolved = [] ∧ s.memory.wf = true ∧
       ∀ j < 64, s.memory.marked (spKey 0 0x400 + j) = false) ∧
    (let c : Cmd := { commandOf (.apCmp .or 2 3 4 ⟨none, none⟩) false true with vops := [5, 7] }
     (atHead 2 c).queueOn 0 2 = true ∧ (atHead 2 c).soloHead 0 2 = some c ∧ c.ready = true ∧ c.running = true) ∧
    (let tb : Word := BitVec.ofNat 64 (2 ^ 63 + 2 ^ 58 + 256 * 2 ^ 33)
     let c : Cmd := { commandOf (.tqLk .s 5 1 2 ⟨none, none⟩) false true with ops := [tb], vops := [7] }
     let s := (atHead 3 c (fun p => { p with ctxs := [(0, { ctxWith [] with hold := { hand := some c.instr } })] })).modCore 0
       (fun k => { k with latch := { row := some 0 } })
     s.queueOn 0 3 = true ∧ s.soloHead 0 3 = some c ∧ c.vals = [] ∧ s.owns 0 c = true ∧ (s.core 0).latch.row = some 0 ∧
       ∀ k < 64, lane (c.vop 0) k < tbEntries tb ∧ entryBit tb (lane (c.vop 0) k) / 16384 = 0 ∧
         entryBit tb (lane (c.vop 0) k) % 16384 / 256 ∉ (s.core 0).latch.poison) ∧
    (let c : Cmd := { commandOf (.cbrel 1 1 ⟨none, none⟩) with joint := some 0 }
     let s := running (fun p => { p with
       queues := [(0, { entries := [.cmd c] }), (1, { entries := [.cmd c] })]
       streams := [(1, { nslots := 4, head := 3, resv := 2, comm := 2, assigned := 2 })] })
     s.queueOn 0 0 = true ∧ s.queueOn 0 1 = true ∧ (s.queue 0 0).head = some c ∧ (s.queue 0 1).head = some c ∧ c.instr.isJoint = true ∧
       c.joint = some c.seq ∧ 1 ≤ (s.stream 0 1).nslots ∧ 1 ≤ (s.stream 0 1).comm) ∧
    (let c : Cmd := { commandOf (.mdrainr true 1 2 3 ⟨none, none⟩) with done := 1, ops := [1] }
     let s0 := atHead 1 c
     let s : State := ({ s0 with cores := s0.cores ++ [(1, { run := some job7, jobId := 7 })] } : State).modAcc 1 3
       (fun x => { x with recv := some { left := 2, word := 0 }, refused := [5, 0] })
     s.soloHead 0 1 = some c ∧ s.addInTarget 0 (c.op1 0) = some 1 ∧ s.savedFor 1 (s.core 0).jobId = none ∧
       (s.acc 1 3).recv = some { left := 2, word := 0 } ∧ s.isSaving 1 = false ∧ (s.acc 1 3).refused = 5 :: [0] ∧ 5 ≠ 0 ∧ 0 ∈ [0]) := by
  decide +kernel

/-- A transfer of 16 elements of 8 bytes between two places of the own scratchpad. -/
def moves (dst : Nat) (f : Cmd → Cmd := id) : Cmd :=
  f { commandOf (.tcopy 0 1 3 none ⟨none, some 5⟩) with
    desc := (upTo 34).map (descWord [(0, 0x31), (1, spVa 0x1000), (2, spVa dst), (4, 16), (10, 8), (11, 8)]) }

theorem witness_copy_chunks :
    (∀ dst ∈ [0x2000, 0x7B000],
      let c := moves dst
      let s := atHead 4 c
      let x := c.transfer
      let n := x.run 0 (64 / x.size - 1) * x.size
      (s.queue 0 (chQueue 0)).head = some c ∧ s.copyOn 0 0 c = true ∧ c.ready = true ∧ c.done < x.total ∧ c.buf = [] ∧
        s.legsOf 0 0 = [] ∧ (x.at_ 0).1 = ownAperture + 0x1000 ∧ 0x1000 + n ≤ 0x80000 ∧ (x.at_ 0).2 = ownAperture + dst ∧
        dst + n ≤ 0x80000 ∧ (s.logicalOf 0).isSome = true ∧ (s.core 0).resolved = [] ∧ (s.core 0).marks.stripe = .clean ∧
        inShadow dst n = decide (dst = 0x7B000) ∧ (∀ j < n, s.memory.marked (spKey 0 0x1000 + j) = false) ∧
        (∃ j < n, (s.memory.mark (spKey 0 0x1000)).marked (spKey 0 0x1000 + j) = true)) ∧
    (let c := moves 0x2000 (fun c => { c with credit := some handle0 })
     let s := atHead 4 c (fun p => { p with legs := [(0, [leg0])] })
     s.legsOf 0 0 = [leg0] ∧ c.credit = some handle0 ∧ c.copy.replay = false ∧ s.diverts (keyCore leg0.key) 7 = false ∧
       (s.store leg0.key leg0.bytes).isSome = true ∧ (s.core 0).run = some job7 ∧ job7.job = (s.core 0).jobId) ∧
    (let c := moves 0x2000 (fun c => { c with done := 128, credit := some handle0, copy := { replay := true, credited := 10, lost := 8 } })
     let s := atHead 4 c
     (s.core 0).words = [] ∧ c.cw = some 5 ∧ c.copy.credited + c.copy.lost < c.done ∧ s.memory.wf = true ∧ 8 * 5 + 8 ≤ 0x80000) := by
  decide +kernel

/-- A part with something in each of its places. -/
def fullPart : Part :=
  { ctxs := [(0, ctxWith [(3, 4)]), (4, ctxWith [(1, 2)])]
    queues := [(1, { entries := [.cmd (commandOf (.mz 1 ⟨none, none⟩) false true)] }),
               (2, { entries := [.cmd (commandOf (.apCnt 5 1 ⟨none, none⟩) false true)] }), (4, { entries := [.cmd (moves 0x2000)] })]
    streams := [(1, { nslots := 4 })], slots := [(2, { valid := 3 })], accs := [(1, { elems := [(3, 9)] })], deque := [anyTask] }

theorem witness_restored_parts : ∀ held ∈ [true, false],
    let im : Image := { part := fullPart, run := job7, logical := 1, ts := 9, held, words := [(5, 3), (0x100, 77)] }
    let s : State := { State.reset with cores := [(0, { part := { ctxs := [(0, ctxWith [])] } }),
      (1, { saved := some im, requester := if held then some (⟨0, 0⟩, 0) else none })] }
    (s.core 1).saved = some im ∧ s.mod.powered = true ∧ 7 ≤ s.mod.step ∧ (s.core 1).run = none ∧ (s.core 1).preemption = .none ∧
      s.taken im.logical = false ∧ s.physOf im.logical = some 1 ∧ (im.held = false ∨ (s.core 1).requester.isSome = true) ∧
      (s.core 1).spill = [] ∧ (∀ ch < 4, ∀ c ∈ (im.part.queues.get {} (4 + ch)).head, c.squashed = false) ∧
      (∀ p ∈ im.part.accs, p.2.refused = []) ∧ (∀ x ∈ (s.core 1).requester, x.1.core ≠ 1) ∧ s.memory.wf = true ∧
      Store.rising im.words = true ∧ (∀ p ∈ im.words, p.1 < 0x80000) ∧
      (held = true → (s.core 1).requester = some (⟨0, 0⟩, 0) ∧ s.lives ⟨0, 0⟩ 0 = true) := by decide +kernel

theorem witness_refused_lanes :
    let q := message (.send 5 9) (some .ring)
    let m := message (.send 6 8)
    let s : State := { arriving m with fabric := [q, m] }
    s.fabric = [q, m] ∧ q.refused = some .ring ∧ m.refused = none ∧ m.body = .send 6 8 ∧ q.sameLane m = true ∧ m.dst < 0x1000 := by
  decide +kernel

theorem witness_waiting_arrivals :
    let e : HeldArrival := { h := 1, handle := handle0, waits := [(0, 0)] }
    let s := atHead 4 (moves 0x2000) (fun p => { p with ctxs := [(0, { ctxWith [] with held := [e] })] })
    (s.ctx ⟨0, 0⟩).held = [e] ∧ (∃ p ∈ e.waits, ∃ c ∈ (s.queue 0 (4 + p.1)).cmds, c.seq = p.2) ∧ (0, 0) ∈ s.copiesOf ⟨0, 0⟩ ∧
      (with0 { ctxWith [] with hold := { issuing := true } }).own.nextAsync ⟨0, 0⟩ = none := by decide +kernel

theorem witness_routes :
    (1 < 64 ∧ 64 ≤ 64 ∧ 1 ≤ 4 ∧ (∀ p ∈ [((0 : Nat), (0xFFFF : BitVec 16)), (63, 1)], p.1 < 64 ∧ p.1 ≠ 1)) ∧
    (4 ≤ 4 ∧ 64 < 65) ∧
    (∀ k ∈ [1, 2, 3], ({ State.reset with mod := { step := 1, rails := k } } : State).mod.rails = k) ∧
    (∀ key ∈ [coreKey 3 0x0B140000, coreKey 0 0x1000, farKey 0], isSp key = false) ∧
    (let s : State := { State.reset with mod := { powered := false, step := 0, rails := 2 } }
     s.mod.powered = false) := by decide +kernel

theorem witness_port_bodies :
    (0x10 : Nat) ∉ [0x01, 0x02, 0x15, 0x21] ∧
    (let l : List Word := [0x10010, 0, 5, 6]
     (l.getD 0 0).toNat % 2 ^ 8 ∉ [0x01, 0x02, 0x15, 0x21] ∧ l.getD 1 0 = 0 ∧ (l.getD 0 0).toNat / 2 ^ 16 % 2 ^ 16 ≤ 256 ∧
       (l.drop 2).length = 2 * ((l.getD 0 0).toNat / 2 ^ 16 % 2 ^ 16)) ∧
    512 < (List.replicate 513 5).length := ⟨by decide, by decide, by rw [List.length_replicate]; decide⟩

/-- Two contexts at one instruction, with a skip mark of the first for the scalar pipe and the pipe's last choice. -/
def twoReady (yields : BitVec 3) (last : Nat) : State :=
  let s := State.reset.withFetchWord 128 0x5000000000000724E
  let s := s.setCtx ⟨0, 1⟩ (s.ctx ⟨0, 0⟩)
  let s := s.modHold ⟨0, 0⟩ (fun h => { h with yields })
  s.modCore 0 (fun c => { c with pointers := { scalar := last } })

theorem witness_turns :
    (twoReady 0 10).isChosen ⟨0, 0⟩ 0 = true ∧ (twoReady 0 0).isChosen ⟨0, 0⟩ 0 = false ∧ (twoReady 0 0).isChosen ⟨0, 1⟩ 0 = true ∧
    (twoReady 1 10).isAlone ⟨0, 0⟩ 0 = false ∧ ((twoReady 1 10).ctx ⟨0, 0⟩).hold.yields.getLsbD 0 = true ∧
    pipeOf (.li 7 5) = 0 := by decide +kernel

/-! ## Witnesses for exact rounding, waits without a turn, and what whole commands and messages do -/

theorem witness_exact_values :
    Fp.f32.value 0x3F800000 = .fin false 8388608 (-23) ∧ Fp.f32.value 0xBF800000 = .fin true 8388608 (-23) ∧
    Fp.f32.value 0 = .fin false 0 (-149) ∧ Fp.f16.value 0x7C00 = .inf false ∧ Fp.bf16.value 0xFF80 = .inf true ∧
    (Fp.f16.value 0x7C01).isSnan = true ∧ (Fp.f32.value 0).isZero = true ∧
    (Fp.f16.magAt 160 0 ≤ 0 ∧ 0 < Fp.f16.magAt 160 1) ∧
    (Fp.f16.magAt 160 Fp.f16.maxCode ≤ 65505 * 2 ^ 160 ∧ 65505 * 2 ^ 160 < Fp.f16.magAt 160 (Fp.f16.maxCode + 1)) ∧
    Fp.f16.magAt 160 Fp.f16.infCode ≤ 65536 * 2 ^ 160 := by decide +kernel

theorem witness_two_results :
    ((Ctx.fresh 0).result 2 (.g 1 5) 0).hold.flights ≠ [] ∧ 4 ≤ 4 ∧ 1 ≤ 1 ∧ 1 ≠ 0 ∧
    (let s := (ahead true).modHold ⟨0, 0⟩ (fun h => { h with progress := some 3 })
     s.hazard ⟨0, 0⟩ (.add 2 1 1) = some (.g 1) ∧ (s.ctx ⟨0, 0⟩).hold.progress = some 3) := by decide

theorem witness_releases_at_words :
    let s : State := { heldRelease [] with tick := 9 }
    let b : Before := { step := 9 }
    let stef := waiting (.stef 1 0 2)
    let ldf := waiting (.ldf 3 1 0)
    (s.owesWrites ⟨0, 0⟩ [(0, 64)] b = true ∧ scratch.owesWrites ⟨0, 0⟩ [(0, 64)] b = false) ∧
    (s.owesWrites ⟨0, 0⟩ (s.wordRegions (s.asid 0) stef.key) { step := s.tick, op := (s.ctx ⟨0, 0⟩).hold.opNext } = true ∧
      scratch.owesWrites ⟨0, 0⟩ (scratch.wordRegions (scratch.asid 0) stef.key) b = false ∧ s.memory.isFull stef.key = false) ∧
    (ldf.key = stef.key ∧ isSp stef.key = true ∧ stef.key % 8 = 0) ∧
    (let i := Instr.mld 1 2 0 ⟨none, none⟩
     i.eng.isSome = true ∧ s.own.hasRoom ⟨0, 0⟩ i = true ∧ i.ownsRegister = false ∧ readsOwn i = true ∧
       (s.own.flushOwn ⟨0, 0⟩).ownWaits ⟨0, 0⟩ = true) := by decide +kernel

theorem witness_held_releases_reach : ∃ u, Reaches (heldRelease [(1, spVa 0x100)]).own u ⟨0, 0⟩ { write := true } .fullEmpty (spVa 0x100) 8
    (spKey 0 0x100) ∧ (u.serveEarlier ⟨0, 0⟩ (spKey 0 0x100) 8).earlierWaits ⟨0, 0⟩ (spKey 0 0x100) 8 = true :=
  ⟨_, State.reaches_scratch (pa := 2 ^ 28 + 0x100) (by decide +kernel) (by decide +kernel) (by decide +kernel) (by decide +kernel)
    (by decide +kernel), by decide +kernel⟩

/-- A context with as many remote operations outstanding as ORC holds. -/
def manyOps : State := with0 { ctxWith [(1, 24), (2, 0)] with remote := List.replicate 0xFFFF { id := 0, dev := 0, column := 1 } }

theorem witness_full_orc :
    0xFFFF ≤ (manyOps.own.ctx ⟨0, 0⟩).remote.length ∧ (⟨0, 0⟩ : Who).isHandler = false ∧
    manyOps.own.room ⟨0, 0⟩ (.rpcAmo .add true 1 2 ⟨none, none⟩) ∧ manyOps.own.room ⟨0, 0⟩ (.rpcPut .full 1 2 none ⟨none, none⟩) ∧
    CreditIs manyOps.own ⟨0, 0⟩ none none ∧ manyOps.own.room ⟨0, 0⟩ (.rpcCall true 1 0 0 2 0 ⟨none, none⟩) ∧
    manyOps.own.room ⟨0, 0⟩ (.sendm 1 3 2 ⟨none, none⟩) ∧
    ¬ ((sendTarget (manyOps.own.g ⟨0, 0⟩ 1)).1 = manyOps.own.mod.devId ∧ manyOps.own.physOf (sendTarget (manyOps.own.g ⟨0, 0⟩ 1)).2 = some 0) ∧
    (sendTarget (manyOps.own.g ⟨0, 0⟩ 2)).1 = manyOps.own.mod.devId ∧ manyOps.own.physOf (sendTarget (manyOps.own.g ⟨0, 0⟩ 2)).2 = some 0 := by
  have h : (manyOps.own.ctx ⟨0, 0⟩).remote = List.replicate 0xFFFF { id := 0, dev := 0, column := 1 } := rfl
  refine ⟨?_, rfl, room_empty rfl ?_ ?_, room_empty rfl ?_ ?_, rfl, room_empty rfl ?_ ?_, room_empty rfl ?_ ?_, ?_⟩
  · rw [h, List.length_replicate]
  all_goals decide +kernel

theorem witness_user_registers :
    let s := fun (x : Word) => with0 { ctxWith [(1, x)] with status := {} }
    let user := (s 0x4000).own
    user.pl ⟨0, 0⟩ = 0 ∧ ((0x4000 : Word) &&& 0x1FFFFFFFFFFFFE0 ≠ user.regWord ⟨0, 0⟩ .tvec &&& 0x1FFFFFFFFFFFFE0) ∧
    ((s 0).own.g ⟨0, 0⟩ 1 &&& 0xFF = (s 0).own.regWord ⟨0, 0⟩ .tcause &&& 0xFF) ∧
    ((0x400 : Word).extractLsb' 10 2 ≠ (user.ctx ⟨0, 0⟩).status.ppl ∧ (0x8000 : Word).extractLsb' 10 2 = (user.ctx ⟨0, 0⟩).status.ppl ∧
      (0x8000 : Word).getLsbD 15 ≠ (user.ctx ⟨0, 0⟩).status.hzd ∧ user.mod.dbg = false) ∧
    (0x100000000 : Word).getLsbD 32 = true ∧ (0x8000000000000000 : Word).getLsbD 63 = true ∧
    (5 : Word) &&& 0x0FFFFFFFFFFFFFFF ≠ user.regWord ⟨0, 0⟩ .vevCount &&& 0x0FFFFFFFFFFFFFFF ∧
    (∃ j < 8, 8 * 12 + j ≤ 96 ∧ (5 : Word).toNat / 2 ^ (8 * j) % 256 ≠ user.score 0 (8 * 12 + j)) ∧
    (user.planeRuns 0 = false ∧ (1 : Word) &&& 0x801FFFFF ≠ user.regWord ⟨0, 0⟩ .apmpc &&& 0x801FFFFF) := by decide +kernel

theorem witness_two_jobs :
    let near := { waitingJob with id := 8, edl := 4 }
    let s : State := { State.reset with dx := { jobs := [waitingJob, near] } }
    s.mod.powered = true ∧ 7 ≤ s.mod.step ∧ s.dx.jobs = [waitingJob, near] ∧ near.id ≠ waitingJob.id ∧ near.edl < waitingJob.edl ∧
    (∀ x ∈ [near, waitingJob], x.started = false ∧ x.closing = none) ∧ (s.pick near false).isSome = true := by
  refine ⟨rfl, by decide, rfl, by decide, by decide, by decide, by decide +kernel⟩

theorem witness_tied_jobs :
    (let j := { waitingJob with tier := 1 }
     let b := { waitingJob with id := 8, tier := 2 }
     j.edl = b.edl ∧ j.tier < b.tier) ∧
    (let b := { waitingJob with id := 8, enq := 1 }
     waitingJob.edl = b.edl ∧ waitingJob.tier = b.tier ∧ waitingJob.enq < b.enq) ∧
    (let b := { waitingJob with id := 8, queue := 47 }
     waitingJob.edl = b.edl ∧ waitingJob.tier = b.tier ∧ waitingJob.enq = b.enq ∧ waitingJob.queue < b.queue) := by decide

theorem witness_spilled_messages :
    (let m := { message (.send 5 9) with op := some 4 }
     let s : State := { State.reset with
       cores := [(0, { saved := some (image false), jobId := 7 }), (1, { run := some job7, jobId := 7 })], fabric := [m] }
     s.agentOn = true ∧ s.fabric = [m] ∧ m.refused = none ∧ m.noticed = false ∧ m.dst < 0x1000 ∧ m.cw = none ∧ (s.core 0).run = none ∧
       (s.core 0).saved = some (image false) ∧ (image false).run.job = m.job ∧ (s.core 0).spillUsed + 128 ≤ 2 ^ 18 ∧
       (s.core m.src.core).jobId = m.job) ∧
    (let m := message (.send 5 9)
     let s : State := { State.reset with cores := [(0, { run := some job7, jobId := 7, spill := [m] })] }
     s.agentOn = true ∧ (s.core 0).run = some job7 ∧ s.isSaving 0 = false ∧ (s.core 0).spill = [m] ∧ m.job = job7.job ∧ m.dst = 0 ∧
       m.src.core ≠ 0 ∧ m.cw = none ∧ m.op = none ∧ ((s.mail 0).box 5).state = .absent ∧ (s.mail 0).waiters = [] ∧
       (s.mail 0).overflow = []) := by decide +kernel

theorem witness_full_spill :
    let c : Core := { spill := List.replicate 2048 (message (.send 5 9)) }
    2 ^ 18 < c.spillUsed + 128 := by decide +kernel

theorem witness_waiting_requests :
    (let s : State := { unitWith (.arrive ⟨0, 0⟩ 7 1 handle0 4 { step := 9 }) with
       units := [(0, { groups := [(0, { live := true, isOpen := true, epoch := 3, regions := [(0, 64)] })]
                       queue := [.arrive ⟨0, 0⟩ 7 1 handle0 4 { step := 9 }] })]
       cores := [(0, { requests := [{ request (spKey 0 0x100) with no := 2 }] })] }
     let x := s.group (ridOf handle0)
     x.live = true ∧ x.epoch = epochOf handle0 ∧ s.owesWrites ⟨0, 0⟩ x.regions { step := 9 } = true) ∧
    (let s := unitWith (.arrive ⟨0, 0⟩ 7 1 handle0 4 {})
     s.owesWrites ⟨0, 0⟩ (s.group (ridOf handle0)).regions {} = false ∧
       ({ live := true, epoch := 3 } : Group).isOpen = false) := by decide +kernel

theorem witness_debug_lengths : (List.replicate 384 (0 : Byte)).length = 384 ∧ (List.replicate 383 (0 : Byte)).length ≠ 384 :=
  ⟨List.length_replicate, by rw [List.length_replicate]; decide⟩

/-- A context that has issued an instruction and interlocks on it. -/
def interlocked : State := (State.reset.withFetchWord 128 0x5000000000000724E).modHold ⟨0, 0⟩ (fun h => { h with waiting := some .rpcFence })

/-- A handler of core 0 with its next instruction in the own vault, alone of its kind. -/
def oneHandler : State :=
  let s := State.reset.withFetchWord 128 0x5000000000000724E
  s.modCore 0 (fun c => { c with handlers := [(0, { s.ctx ⟨0, 0⟩ with reply := some (owed false) })] })

theorem witness_steps_of_waits :
    (let t := { interlocked.elapse with agenda := [] }
     interlocked.agenda = .issue 0 0 :: [] ∧ t.mayIssue ⟨0, 0⟩ = true ∧ (t.ctx ⟨0, 0⟩).hold.fwEntry = none ∧ t.nextAsync ⟨0, 0⟩ = none ∧
       (t.ctx ⟨0, 0⟩).hold.waiting = some .rpcFence) ∧
    ((State.reset.withFetchWord 128 0x5000000000000724E).ctx ⟨0, 0⟩).hold.waiting = none ∧
    (State.reset.hasRoom ⟨0, 0⟩ (.li 7 5) = true ∧ (queued 2 8 (.apCnt 5 1 ⟨none, none⟩)).hasRoom ⟨0, 0⟩ (.apCnt 5 1 ⟨none, none⟩) = false) ∧
    (∀ k < 8, 11 + k ≠ 11 → (oneHandler.ctx ⟨0, 11 + k⟩).live = false) ∧ (oneHandler.ctx ⟨0, 11⟩).live = true ∧
    (∀ k < 11, k ≠ 0 → ((State.reset.withFetchWord 128 0x5000000000000724E).ctx ⟨0, k⟩).live = false) ∧
    ((⟨0, 11⟩ : Who).pipeOf (.li 7 5) = 3 ∧ (fetching.ctx ⟨0, 0⟩).hold.waiting = none) := by decide +kernel

/-! ### The matrix unit -/

/-- Nothing of a running part's scratchpad carries a mark. -/
theorem own_free {p : Part → Part} {o n : Nat} (h : o + n ≤ 0x80000) : OwnFree (running p) 0 o n := by
  refine ⟨h, fun j hj => ?_⟩
  have h1 : isSp (spKey 0 (o + j)) = true := by
    simp only [isSp, isHere, spKey, coreKey, keyCore, keyOff, Bool.and_eq_true]
    refine ⟨⟨decide_eq_true ?_, decide_eq_true ?_⟩, decide_eq_true ?_⟩ <;> omega
  simp only [Memory.marked, h1, if_true]
  exact decide_eq_false (fun h => by cases h)

/-- An offset of its scratchpad that a command names. -/
theorem own_base {p : Part → Part} {va : Word} {o : Nat} (h : va.toNat = ownAperture + o) : OwnBase (running p) 0 va o :=
  have hl : (State.reset.logicalOf 0).isSome = true := by decide +kernel
  ⟨h, by decide, hl, rfl, rfl, rfl, (by decide : State.reset.memory.wf = true)⟩

/-- A command of a queue that runs. -/
def runs (q : Nat) (i : Instr) (ops : List Word := []) (vops : List VWord := []) : Cmd := { commandOf i false true with ops, vops }

theorem witness_matrix_commands :
    (∀ i ∈ [Instr.mld 1 2 0 ⟨none, none⟩, .mdrain .e2m1 1 2 4 8 32 ⟨none, none⟩, .msa 1 2 3 4 ⟨none, none⟩, .mrecv 1 3 2 ⟨none, none⟩,
        .mrecv 1 0 2 ⟨none, none⟩, .mdrainr true 1 2 3 ⟨none, none⟩],
      let c := runs 1 i [spVa 0x1000, spVa 0x2000, 0x3F80]
      let s := atHead 1 c
      s.queueOn 0 1 = true ∧ s.soloHead 0 1 = some c ∧ c.ready = true ∧ c.running = true ∧ c.buf = [] ∧ c.sent = 0 ∧ c.done = 0 ∧
        (s.acc 0 1).refused = [] ∧ (s.core 0).marks.upsets = []) ∧
    ((spVa 0x1000).toNat = ownAperture + 0x1000 ∧ (spVa 0x2000).toNat = ownAperture + 0x2000 ∧ (spVa 0x1000).toNat % 64 = 0) ∧
    (32 ≤ 32 ∧ 32 * ElemType.e2m1.bits % 8 = 0 ∧ 32 * ElemType.e2m1.bits / 8 ≤ 16 * 4) ∧
    (let s := atHead 1 (runs 1 (.mdrainr true 1 2 3 ⟨none, none⟩) [1])
     s.addInTarget 0 1 = none ∧ ({ s with cores := s.cores ++ [(1, { run := some job7 })] } : State).addInTarget 0 1 = some 1) ∧
    (let c := runs 1 (.mz 1 ⟨none, some 5⟩)
     c.cw = some 5 ∧ c.instr.isJoint = false ∧ c.instr.ownsRegister = false ∧ ((atHead 1 c).core 0).words = [] ∧
       (atHead 1 c).memory.wf = true ∧ 5 < 0x10000 ∧ ((atHead 1 c).core 0).part.regs.cfr = none) := by decide +kernel

theorem witness_matrix_storage (i : Instr) :
    let s := atHead 1 (runs 1 i [spVa 0x1000, spVa 0x2000])
    OwnBase s 0 (spVa 0x1000) 0x1000 ∧ OwnBase s 0 (spVa 0x2000) 0x2000 ∧ (∀ r < 32, OwnFree s 0 (0x1000 + r * 128) 128) ∧
    (∀ r < 8, OwnFree s 0 (0x1000 + r * 64) 16) ∧ OwnFree s 0 0x1000 296 ∧ OwnFree s 0 0x2000 296 ∧ OwnFree s 0 0x1000 8 :=
  ⟨own_base (by decide), own_base (by decide), fun r hr => own_free (by omega), fun r hr => own_free (by omega), own_free (by decide),
    own_free (by decide), own_free (by decide)⟩

theorem witness_add_ins :
    (let r : Receive := { left := 2, word := 0x7FFF8 }
     2 ≤ r.left ∧ r.word % 8 = 0 ∧ r.word < 0x80000) ∧
    (let r : Receive := { left := 1, word := 0 }
     r.left = 1 ∧ r.status < 2 ^ 16) ∧
    (State.reset.core 0).marks.upsets = [] ∧ (State.reset.core 0).words = [] ∧ State.reset.memory.wf = true := by decide

/-! ### The plane -/

/-- A context that interlocks on an instruction. -/
def onHand (i : Instr) : Store Ctx := [(0, { ctxWith [] with hold := { hand := some i } })]

theorem witness_plane_commands :
    (∀ i ∈ [Instr.apClr 255 1 ⟨none, none⟩, .apWr 1 2 3 ⟨none, none⟩, .apWrr 1 2 ⟨none, none⟩, .apTg .andn 1 2 3 ⟨none, none⟩,
        .apMcode 8 1 ⟨none, none⟩, .apLd 1 63 ⟨none, none⟩, .apSt 1 63 ⟨none, none⟩],
      let c := runs 2 i [4095]
      let s := atHead 2 c
      s.queueOn 0 2 = true ∧ s.soloHead 0 2 = some c ∧ c.ready = true ∧ c.running = true ∧ c.vals = []) ∧
    (∀ i ∈ [Instr.apCnt 5 1 ⟨none, none⟩, .apFirst 5 1 ⟨none, none⟩, .apRd 5 1 ⟨none, none⟩, .apMax 5 192 64 1 ⟨none, none⟩],
      let c := runs 2 i [4095]
      let s := atHead 2 c (fun p => { p with ctxs := onHand i, plane := { apmpc := BitVec.ofNat 64 (2 ^ 31 + 63 * 2 ^ 12 + 6) } })
      s.queueOn 0 2 = true ∧ s.soloHead 0 2 = some c ∧ c.ready = true ∧ c.running = true ∧ s.owns 0 c = true ∧ c.done = 0 ∧
        c.resumed = false) ∧
    (let x : Plane := { poison := 1 <<< 4095 }
     x.poison.getLsbD 4095 = true ∧ x.poison.getLsbD 0 = false ∧ 4095 < 4096) ∧
    (let c := commandOf (.apMax 5 192 64 1 ⟨none, none⟩)
     let s := atHead 2 c (fun p => { p with plane := { tags := [(1, 2)], poison := 2 } })
     s.queueOn 0 2 = true ∧ s.soloHead 0 2 = some c ∧ c.ready = true ∧ c.running = false ∧
       ((s.plane 0).tag 1).getLsbD 1 = true ∧ (s.plane 0).poison.getLsbD 1 = true ∧
       ((s.plane 0).tag 1).getLsbD 0 = false) := by decide +kernel

theorem witness_user_sequences :
    (let h : Word := 1 + 2 ^ 9
     let wd : Word := 2 ^ 14 - 1
     1 ≤ h.toNat % 256 ∧ h.toNat < 2 ^ 10 ∧ wd.toNat < 2 ^ 14 ∧ wd.getLsbD 10 = true ∧ wd.getLsbD 8 = true) ∧
    (let c := runs 2 (.apMcode 8 1 ⟨none, none⟩) [spVa 0x1000]
     OwnBase (atHead 2 c) 0 (spVa 0x1000) 0x1000 ∧ OwnFree (atHead 2 c) 0 0x1000 16) :=
  ⟨by decide, own_base (by decide), own_free (by decide)⟩

/-- The state that an engine's access leaves where it is reached at a key. -/
def engineState (s : State) (p : Port) (c : Cmd) (need : Need) (va len key : Nat) : Option State :=
  match s.engineAt p c need va len with
  | .ok k u => if k = key then some u else none
  | _ => none

theorem engine_at {s u : State} {p : Port} {c : Cmd} {need : Need} {va len key : Nat} (h : engineState s p c need va len key = some u) :
    s.engineAt p c need va len = .ok key u := by
  unfold engineState at h
  split at h
  · next k v hk =>
    split at h
    · next e => cases h; rw [hk, e]
    · cases h
  · cases h

/-- A command of the plane at a row of the own vault, through the firmware window; so many sectors of the row are clean. -/
def atRow (i : Instr) (clean : Nat) (f : Plane → Plane := id) : Cmd × State :=
  let c : Cmd := { runs 2 i [0x1C0000000001000, 3] with pl := 2 }
  let s := atHead 2 c (fun p => { p with plane := f p.plane })
  (c, { s with memory := (upTo clean).foldl (fun m j => m.setMark (coreKey 0 0x1000 + 32 * j) false) s.memory })

theorem witness_plane_rows : ∀ i ∈ [Instr.apLd 1 63 ⟨none, none⟩, .apSt 1 63 ⟨none, none⟩], ∀ n ∈ [63, 64],
    ∃ u, (atRow i n).2.engineAt (planePort 0 0) (atRow i n).1 { write := !i.ownsRegister } ((atRow i n).1.op1 0).toNat
        2048 = .ok (coreKey 0 0x1000) u ∧
      (u.core 0).marks.beats = .clean ∧ u.memory.wf = true ∧ (∀ j < n, u.poisoned (coreKey 0 0x1000 + 32 * j) = false) ∧
      (n < 64 → u.poisoned (coreKey 0 0x1000 + 32 * n) = true) ∧
      ∀ j < 64, u.sectorReached 0 (0x1000 + 32 * j) = true ∧ isReserved (coreKey 0 0x1000 + 32 * j) = false := by
  intro i hi n hn
  have h : (engineState (atRow i n).2 (planePort 0 0) (atRow i n).1 { write := !i.ownsRegister }
      ((atRow i n).1.op1 0).toNat 2048 (coreKey 0 0x1000)).any
      (fun u => decide ((u.core 0).marks.beats = .clean ∧ u.memory.wf = true ∧ (∀ j < n, u.poisoned (coreKey 0 0x1000 + 32 * j) = false) ∧
        (n < 64 → u.poisoned (coreKey 0 0x1000 + 32 * n) = true) ∧
        ∀ j < 64, u.sectorReached 0 (0x1000 + 32 * j) = true ∧ isReserved (coreKey 0 0x1000 + 32 * j) = false)) = true := by
    simp only [List.mem_cons, List.not_mem_nil, or_false] at hi hn
    rcases hi with rfl | rfl <;> rcases hn with rfl | rfl <;> decide +kernel
  obtain ⟨u, hu, h⟩ := any_some h
  exact ⟨u, engine_at hu, of_decide_eq_true h⟩

theorem witness_sequences :
    ∀ n ∈ [0, 1, 2, 3, 4, 5, 6, 7, 8], let w := if n = 8 then 1 else 128
      let c := runs 2 (.apSeq n 0 w 128 4095 0 7 ⟨none, none⟩)
      let s := atHead 2 c (fun p => { p with plane := { seqs := [(8, [1, 0x100])]
                                                        apmpc := BitVec.ofNat 64 (2 ^ 31 + (if n = 6 then w - 1 else 0) * 2 ^ 12 + n) } })
      s.queueOn 0 2 = true ∧ s.soloHead 0 2 = some c ∧ c.ready = true ∧ c.running = true ∧ c.done = 0 ∧ c.resumed = false ∧
        1 ≤ w ∧ 0 + w ≤ 256 ∧ 128 + w ≤ 256 ∧ 0 + w ≤ 128 ∧ (s.plane 0).seqs.get [] 8 = [1, 0x100] := by decide +kernel

/-- A sweep of three rows, at one of them, in a stage. -/
def sweeping (row stage mpc sent : Nat) : Cmd × State :=
  let x := atRow (.apSweep 0 1 3 0 8 8 1 2 0 63 ⟨none, none⟩) 64 (fun x => { x with
    apsweep := apsweepOf stage (3 - row) (0x1000 + 2048 * row), apmpc := BitVec.ofNat 64 mpc })
  let c := { x.1 with row, pos := some (0x1000 + 2048 * row), sent, done := row }
  (c, x.2.modHead 0 2 (fun _ => c))

theorem witness_sweeps :
    (∀ x ∈ [sweeping 0 0 0 0, sweeping 2 2 0 0, sweeping 1 1 (2 ^ 31) 0],
      x.2.queueOn 0 2 = true ∧ x.2.soloHead 0 2 = some x.1 ∧ x.1.running = true ∧ x.1.squashed = false ∧ x.1.resumed = false ∧
        x.1.failed = none ∧ 0 < (x.1.op1 1).toNat ∧ x.1.row = (x.1.op1 1).toNat - sweepRemain (x.2.plane 0).apsweep ∧
        x.2.mayTransfer 0 x.1 = true ∧ x.1.pos = some (0x1000 + 2048 * x.1.row)) ∧
    (sweepStage ((sweeping 0 0 0 0).2.plane 0).apsweep = 0 ∧ sweepStage ((sweeping 2 2 0 0).2.plane 0).apsweep = 2 ∧
      sweepStage ((sweeping 1 1 (2 ^ 31) 0).2.plane 0).apsweep = 1 ∧ (sweeping 2 2 0 0).1.sent ≠ 2 + 1 ∧
      2 + 1 = ((sweeping 2 2 0 0).1.op1 1).toNat) ∧
    ((((sweeping 1 1 (2 ^ 31) 0).2.plane 0).argsOf (sweeping 1 1 (2 ^ 31) 0).1.instr).any
      (fun a => (((sweeping 1 1 (2 ^ 31) 0).2.plane 0).rest a).isSome) = true) := by decide +kernel

theorem witness_sweep_rows : ∀ b : Bool, let row := if b then 2 else 0
    let z := sweeping row row 0 0
    ∃ u v, z.2.engineAt (planePort 0 2) z.1 { write := true } (z.1.op1 0 + BitVec.ofNat 64 (2048 * row)).toNat 2048 =
        .ok (coreKey 0 (0x1000 + 2048 * row)) u ∧
      (if b then u.storeRows 0 (coreKey 0 (0x1000 + 2048 * row)) 63 else u.loadRows 0 (coreKey 0 (0x1000 + 2048 * row)) 63) = (v, none) := by
  intro b row z
  have h : (engineState z.2 (planePort 0 2) z.1 { write := true } (z.1.op1 0 + BitVec.ofNat 64 (2048 * row)).toNat 2048
      (coreKey 0 (0x1000 + 2048 * row))).any
      (fun u => decide ((if b then u.storeRows 0 (coreKey 0 (0x1000 + 2048 * row)) 63
        else u.loadRows 0 (coreKey 0 (0x1000 + 2048 * row)) 63).2 = none)) = true := by
    cases b <;> decide +kernel
  obtain ⟨u, hu, h⟩ := any_some h
  exact ⟨u, _, engine_at hu, Prod.ext rfl (of_decide_eq_true h)⟩

/-! ### Table queries -/

/-- A query that runs on a table of one row of the region, of which the latch holds the first. -/
def query (i : Instr) (tb : Word) (vops : List VWord) : Cmd × State :=
  let c := runs 3 i [tb] vops
  (c, (atHead 3 c (fun p => { p with ctxs := onHand i })).modCore 0 (fun k => { k with latch := { row := some 0, bytes := List.replicate 2048 5 } }))

/-- Queries whose entries the latch holds. -/
theorem witness_queries :
    (∀ i ∈ [Instr.tqPair false .u 5 1 2 3 ⟨none, none⟩, .tqDot true 5 1 2 ⟨none, none⟩, .tqFnDir .s 5 1 2 ⟨none, none⟩,
        .tqFnSeg 5 1 2 ⟨none, none⟩],
      let x := query i (if i = .tqFnSeg 5 1 2 ⟨none, none⟩ then table8192 else table256) [0, 0]
      x.2.queueOn 0 3 = true ∧ x.2.soloHead 0 3 = some x.1 ∧ x.1.ready = true ∧ x.1.running = true ∧ x.1.vals = [] ∧ x.1.done = 0 ∧
        x.2.owns 0 x.1 = true ∧ (x.2.core 0).latch.row = some 0) ∧
    (∀ k ∈ [0, 255], k < tbEntries table256 ∧ entryBit table256 k / 16384 = 0 ∧ entryBit table256 k % 16384 / 256 ∉ ([] : List Nat)) ∧
    (∀ k ∈ [0, 1], k < tbEntries table8192 ∧ entryBit table8192 k / 16384 = 0) ∧
    (tbEntries table256 = 2 ^ 8 ∧ 8 ≤ 24 ∧ tbWidth table8192 = 16) ∧
    (∀ k < 64, lane (0 : VWord) k = 0) := by decide +kernel

theorem witness_fills : let x := query (.tqPair false .u 5 1 2 3 ⟨none, none⟩) table256 [0, 0]
    (x.2.atPlace (.cmd 0 3 x.1.seq.toNat) 0 (0x0B800000 + 2048 * 4095) 2048).any (fun u => decide ((u.core 0).marks.beats = .clean)) = true ∧
      4095 ≠ 0 := by decide +kernel

/-! ## Words that the spec gives for its examples -/

/-- Every word, with its bits, decodes to its instruction. -/
def ReadsAll (l : List (Nat × Nat × Instr)) : Bool := l.all (fun p => decide (decodeTableWord p.1 p.2.1 = some p.2.2))

theorem test_decode_control : ReadsAll [
    (64, 0xFFFFFF80021C3001, .bcmp .lt 3 7 (-8)),
    (64, 0x4000001005, .bpred .any 1 4),
    (64, 0xFFFFFFF000000009, .br (-1)),
    (64, 0x100000000000D, .brk 1),
    (64, 0x8000000011, .call 8),
    (64, 0x180015, .callr 6),
    (64, 0x8000007019, .fork false 7 8),
    (64, 0x8001007019, .fork true 7 8),
    (64, 0x1D, .hexit),
    (64, 0x4000004021, .hstart 4 4),
    (64, 0x25, .idle),
    (64, 0x1000007029, .join false 7 1),
    (64, 0x1001007029, .join true 7 1),
    (64, 0x10002D, .jr 4),
    (64, 0x1031, .lbrk 1),
    (64, 0x4000002035, .loop 0 2 4),
    (64, 0x300100A035, .loop 1 10 3),
    (64, 0x39, .nop),
    (64, 0x303D, .qclr 3),
    (64, 0x143041, .qset 3 5),
    (64, 0x45, .ret),
    (64, 0x49, .yield)] = true := by decide

theorem test_decode_integer : ReadsAll [
    (64, 0x40C3201, .add 3 3 4),
    (64, 0x8000000041205, .addi 1 1 8),
    (64, 0x7185209, .and 5 6 7),
    (64, 0xF00000020820D, .andi 8 8 15),
    (64, 0x308000000185211, .bext 5 6 8 12),
    (64, 0x204000000185215, .bins 5 6 4 8),
    (64, 0x185219, .clz 5 6),
    (64, 0x8000718521D, .cmp .lt 5 6 7),
    (64, 0x7185221, .div 5 6 7),
    (64, 0x7185225, .divu 5 6 7),
    (128, 0xFFFFFFF0000000000018524A, .lea 5 6 (-16)),
    (128, 0x200000004000000424A, .leaPc 4 0x200),
    (128, 0x30D40000000000000724E, .li 7 200000),
    (128, 0x100000000000000000000001253, .li64 1 0x10000000000),
    (64, 0x207185255, .madd 5 6 7 8),
    (64, 0x7185259, .max 5 6 7),
    (64, 0x718525D, .maxu 5 6 7),
    (64, 0x7185261, .min 5 6 7),
    (64, 0x7185265, .minu 5 6 7),
    (64, 0x2044269, .mul 4 1 2),
    (64, 0x718526D, .mulh 5 6 7),
    (64, 0x7185271, .mulhu 5 6 7),
    (64, 0x7185275, .or 5 6 7),
    (64, 0xFF000000185279, .ori 5 6 255),
    (64, 0x18527D, .popc 5 6),
    (64, 0x7185281, .rem 5 6 7),
    (64, 0x7185285, .remu 5 6 7),
    (64, 0x7185289, .rot 5 6 7),
    (64, 0x20718528D, .sel 5 6 7 8),
    (64, 0x7185291, .shl 5 6 7),
    (64, 0x2004000008E291, .shlImm 14 2 32),
    (64, 0x8088295, .shr 8 2 8),
    (64, 0x3040000185295, .shrImm 5 6 3),
    (64, 0x7185299, .sra 5 6 7),
    (64, 0x3040000185299, .sraImm 5 6 3),
    (64, 0x518729D, .sub 7 6 5),
    (64, 0x71852A1, .xor 5 6 7),
    (64, 0x900000079E2A5, .xori 30 30 9)] = true := by decide

theorem test_decode_scalarFp : ReadsAll [
    (64, 0x40007185229, .fadd .rtz 5 6 7),
    (64, 0x8000718522D, .fcmp .lt 5 6 7),
    (64, 0x200000185231, .fcvt .bf16 .f32 .rne 5 6),
    (64, 0x340000185231, .fcvt .i32 .f32 .rtz 5 6),
    (64, 0x207185235, .ffma .rne 5 6 7 8),
    (64, 0x7185239, .fmax 5 6 7),
    (64, 0x718523D, .fmin 5 6 7),
    (64, 0x7185241, .fmul .rne 5 6 7),
    (64, 0x7185245, .fsub .rne 5 6 7)] = true := by decide

theorem test_decode_memory : ReadsAll [
    (64, 0x80007185401, .amo .add .w 5 6 7),
    (64, 0x980007185401, .amo .min .sw 5 6 7),
    (64, 0xEC0007185401, .amo .maxu .d 5 6 7),
    (64, 0x80207185405, .cas .w 5 6 7 8),
    (64, 0xC0207185405, .cas .d 5 6 7 8),
    (64, 0x140409, .feclr 5 0),
    (64, 0x100000004C040D, .feset 19 16),
    (64, 0xC0000044411, .ld .d false 4 1 0),
    (64, 0xFFF8180000185411, .ld .w true 5 6 (-8)),
    (64, 0x1C6415, .ldf 6 7 0),
    (64, 0x1C4419, .ldfe 4 7 0),
    (64, 0x400000001C041D, .ract 7 64),
    (64, 0x1C0421, .rpre 7 0),
    (64, 0x10000C0009280425, .st .d 10 0x1000 9),
    (64, 0xFFF8080007180425, .st .w 6 (-8) 7),
    (64, 0x3180429, .stef 6 0 3),
    (64, 0x80000000534042D, .stf 13 0x800 5)] = true := by decide

theorem test_decode_vector : ReadsAll [
    (64, 0x200000185601, .vabs .f32 5 6),
    (64, 0x200003081605, .vadd .f32 .rne 1 2 3),
    (64, 0x7185609, .vand 5 6 7),
    (64, 0x9002481C660D, .vbaq .e4m3 false .rne 6 7 8 9),
    (64, 0x143611, .vbc .i32 3 5),
    (64, 0x200207185615, .vclamp .f32 5 6 7 8),
    (64, 0x5080003081619, .vcmp .f16 (.fp .lt) 1 2 3),
    (64, 0x250000010561D, .vcvt .f16 false .rne .f32 5 4),
    (64, 0x40200003085621, .vdot .f32 .rne 5 2 3 64),
    (64, 0xC00009206625, .vdqnt .e2m1 6 8 9),
    (64, 0x25000000085629, .vext 5 2 37),
    (64, 0x2401C614462D, .vfma .f32 .rtz 4 5 6 7),
    (64, 0x7185631, .vgat .i32 5 6 7),
    (64, 0x25000000142635, .vins 2 5 37),
    (64, 0x100000000044639, .vld 4 1 256),
    (64, 0x60000718563D, .vlds .bf16 5 6 7),
    (64, 0x800007185641, .vmax .u8 5 6 7),
    (64, 0x300007185645, .vmin .i16 5 6 7),
    (64, 0x185649, .vmov 5 6),
    (64, 0x6C000718564D, .vmul .bf16 .rup 5 6 7),
    (64, 0x185651, .vneg .i32 5 6),
    (64, 0x7185655, .vor 5 6 7),
    (64, 0x45659, .vpcnt 5 1),
    (64, 0x718565D, .vperm 5 6 7),
    (64, 0x45661, .vpfirst 5 1),
    (64, 0xC00009206665, .vqnt .e2m1 false .rne 6 8 9),
    (64, 0x20000028B669, .vred .add .f32 11 10),
    (64, 0x2000000085669, .vred .max .i32 5 2),
    (64, 0x2000000018566D, .vrot 5 6 32),
    (64, 0x200207180671, .vsca .f32 6 7 8),
    (64, 0x200000083675, .vscan .add .f32 3 2),
    (64, 0x87185679, .vsel 5 6 7 2),
    (64, 0x30000718567D, .vshl .i16 5 6 7),
    (64, 0x7185681, .vshr .i32 5 6 7),
    (64, 0x3180685, .vst 6 0 3),
    (64, 0x500007185689, .vsub .f16 .rne 5 6 7),
    (64, 0x718568D, .vxor 5 6 7)] = true := by decide

theorem test_decode_matrix : ReadsAll [
    (128, 0x80020000000082040000000000040803, .cbcfg 1 4 4 true ⟨none, some 4⟩),
    (128, 0x10000000000000807, .cbrel 0 1 ⟨none, none⟩),
    (128, 0x8000000008200000000020000A00080B, .mdrain .f32 0 10 0 32 32 ⟨none, some 0⟩),
    (128, 0x8500080F, .mdrainr false 0 5 2 ⟨none, none⟩),
    (128, 0x80000000000240813, .mld 0 9 8 ⟨none, none⟩),
    (128, 0x80140000000000800000180000081817, .mma .bf16 1 2 0 0 1 false ⟨none, some 40⟩),
    (128, 0x40000000300001000817, .mma .e2m1 0 0 0 1 0 true ⟨none, none⟩),
    (128, 0x3000000000604081B, .mrecv 1 3 6 ⟨none, none⟩),
    (128, 0x18510081F, .msa 0 4 5 6 ⟨none, none⟩),
    (128, 0x2823, .mz 2 ⟨none, none⟩),
    (128, 0x40000000823, .mzPb ⟨none, none⟩),
    (128, 0x82000010000500007000827, .tld .f16 0 7 1 32 32 ⟨none, none⟩),
    (128, 0x83000000000800082B, .tst 0 3 8 1 ⟨none, none⟩)] = true := by decide

theorem test_decode_plane : ReadsAll [
    (128, 0xF00200000000000000A03, .apClr 32 16 ⟨none, none⟩),
    (128, 0x10000000005102A07, .apCmp .and 2 4 5 ⟨none, none⟩),
    (128, 0x89A0B, .apCnt 9 2 ⟨none, none⟩),
    (128, 0x83A0F, .apFirst 3 2 ⟨none, none⟩),
    (128, 0x100000000000000000000180A13, .apLd 6 2 ⟨none, none⟩),
    (128, 0xF00100000000000084A17, .apMax 4 16 16 2 ⟨none, none⟩),
    (128, 0x2400000C0A1B, .apMcode 9 3 ⟨none, none⟩),
    (128, 0x86A1F, .apRd 6 2 ⟨none, none⟩),
    (128, 0x70000F00100000000000040A23, .apSeq 0 16 16 0 0 7 1 ⟨none, none⟩),
    (128, 0x100000000000000000000180A27, .apSt 6 2 ⟨none, none⟩),
    (128, 0x80030070250F001000000C0042040A2B, .apSweep 3 1 2 16 16 0 37 7 1 0 ⟨none, some 6⟩),
    (128, 0x30000000007041A2F, .apTg .andn 1 1 7 ⟨none, none⟩),
    (128, 0x85100A33, .apWr 4 5 2 ⟨none, none⟩),
    (128, 0x6080A37, .apWrr 2 6 ⟨none, none⟩),
    (64, 0x80007181A39, .tqBind 1 6 7 16),
    (128, 0x40002044A3F, .tqDot true 4 1 2 ⟨none, none⟩),
    (128, 0x4000808AA43, .tqFnDir .s 10 2 8 ⟨none, none⟩),
    (128, 0x10000808AA43, .tqFnSeg 10 2 8 ⟨none, none⟩),
    (128, 0x40007046A47, .tqLk .s 6 1 7 ⟨none, none⟩),
    (128, 0x100207046A4B, .tqPair true .u 6 1 7 8 ⟨none, none⟩)] = true := by decide

theorem test_decode_groups : ReadsAll [
    (64, 0x248080C01, .bind 2 8 9),
    (64, 0x402481C0C01, .bindFe 7 8 9),
    (64, 0x2000000103C05, .cwait 3 2 4),
    (64, 0x100000000C09, .drain .table),
    (64, 0x80000000C09, .drain .remote),
    (64, 0x2C0000000C0D, .fence .rel .device),
    (64, 0x480000000C0D, .fence .acq .cluster),
    (64, 0x100000000C0D, .fence .full .domain),
    (64, 0x40C11, .grpArr 1),
    (64, 0x40C15, .grpArrd 1),
    (64, 0x9040C19, .grpExp 1 9),
    (64, 0x14041C1D, .grpJoin 1 1 20),
    (64, 0x40C21, .grpLeave 1),
    (64, 0x3000005041C25, .grpNew 1 1 5 3),
    (64, 0x200009080C29, .grpRed .add .f32 2 9),
    (64, 0x4CC2D, .grpRes 12 1),
    (64, 0x45C31, .grpStat 5 1),
    (64, 0x80009040C35, .grpVote .cnt 1 9),
    (64, 0x40C39, .grpWait 1),
    (64, 0x9040C3D, .grpWdog 1 9),
    (64, 0x5000000006C41, .gwTake 6 5),
    (64, 0xC45, .hret)] = true := by decide

theorem test_decode_messages : ReadsAll [
    (64, 0xC5C49, .mpeek 5 3),
    (64, 0xC5C4D, .mtake 5 3),
    (64, 0x11000000000C51, .qfence 17),
    (128, 0x200007180C57, .rpcAmo .add true 6 7 ⟨none, none⟩),
    (128, 0x10050000000244200C5B, .rpcCall false 8 5 4 9 64 ⟨none, none⟩),
    (64, 0xC5D, .rpcFence),
    (128, 0xC0000185C63, .rpcGet .d false 5 6 ⟨none, none⟩),
    (128, 0x800600000000000000002C0009200C67, .rpcPut .full 8 9 none ⟨none, some 12⟩),
    (64, 0xC69, .rpcReply),
    (128, 0x70000000006140C6F, .sendm 5 7 6 ⟨none, none⟩),
    (128, 0x340C73, .tcopy 0 13 0 none ⟨none, none⟩),
    (128, 0x80028000000000020000000000209C73, .tcopy 2 8 9 none ⟨none, some 5⟩),
    (64, 0x200C75, .unbind 8)] = true := by decide

theorem test_decode_system : ReadsAll [
    (64, 0x2040E01, .cmap 1 2),
    (64, 0xE05, .cqResume),
    (64, 0x100E09, .ctxRest 4),
    (64, 0x100E0D, .ctxSave 4),
    (64, 0x6E11, .evwait 6),
    (64, 0x6E15, .fbufPop 6),
    (64, 0x7180E19, .jsub 6 7),
    (64, 0x140E1D, .qrt 5),
    (64, 0xE21, .redo),
    (64, 0xE25, .scanAbort),
    (64, 0x100E29, .scanRun 4),
    (64, 0x3E2D, .scanSig 3),
    (64, 0xE31, .sret),
    (64, 0x1200000001EE35, .sysr 30 .tcause),
    (64, 0x11000000640E39, .sysw 25 .epc),
    (64, 0x10000000140E39, .syswStatus 5),
    (64, 0x41000000140E39, .syswLoop 5 (.ls 0)),
    (64, 0x32000000140E39, .syswVevCount 5),
    (64, 0x26000000140E39, .syswCfail 5 1),
    (64, 0x600000001C0E39, .syswFbufStat 7),
    (64, 0x35000000140E39, .syswActAlertSrc 5),
    (64, 0x72000000140E39, .syswSuspect 5 2),
    (64, 0x91000000140E39, .syswRing 5 .ringSize),
    (64, 0x51000000140E39, .syswPlaneProgress 5 .apsweep),
    (64, 0x80000140E3D, .tlbInv 5 .page),
    (64, 0xE41, .tlbReplay),
    (64, 0x7000000000E45, .trap 7),
    (64, 0xE49, .weltRestore),
    (64, 0x19000000000E4D, .weltRetire 1 9)] = true := by decide

end Sys2Proof.Tests
end

section
/-! # The loop-end check (R53): one lemma per case of the check, and the statement about it (O8) -/

namespace Sys2Proof.Machine

/-! ## One rule per case of the check -/

/-- R53: an inner loop with passes left takes one off its count and jumps back to its first instruction. -/
theorem Ctx.loopEnd_inner_back {c : Ctx} {next : Word} (hit : c.lc1.active = true ∧ next = c.lc1.last)
    (left : c.lc1.count ≠ 0) :
    c.loopEnd next = { c with lc1 := { c.lc1 with count := c.lc1.count - 1 }, pc := c.lc1.first } := by
  rw [Ctx.loopEnd, if_pos (by simpa using hit), if_pos left]

/-- A context with its inner loop closed: what R53 goes on with after the inner loop's last pass. -/
def Ctx.closeInner (c : Ctx) : Ctx := { c with lc1 := { c.lc1 with active := false } }

/-- R53: an inner loop on its last pass does not jump back, so the outer loop is checked with the inner one closed. -/
theorem Ctx.loopEnd_inner_close {c : Ctx} {next : Word} (hit : c.lc1.active = true ∧ next = c.lc1.last)
    (last : c.lc1.count = 0) : c.loopEnd next = c.closeInner.loopEnd next := by
  obtain ⟨hactive, hlast⟩ := hit
  simp [Ctx.loopEnd, Ctx.closeInner, hactive, hlast, last]

theorem Ctx.closeInner_miss (c : Ctx) (next : Word) :
    ¬ (c.closeInner.lc1.active = true ∧ next = c.closeInner.lc1.last) := fun h => Bool.false_ne_true h.1

/-- R53: an outer loop with passes left jumps back where the inner loop does not end. -/
theorem Ctx.loopEnd_outer_back {c : Ctx} {next : Word} (miss : ¬ (c.lc1.active = true ∧ next = c.lc1.last))
    (hit : c.lc0.active = true ∧ next = c.lc0.last) (left : c.lc0.count ≠ 0) :
    c.loopEnd next = { c with lc0 := { c.lc0 with count := c.lc0.count - 1 }, pc := c.lc0.first } := by
  rw [Ctx.loopEnd, if_neg (by simpa using miss), if_pos (by simpa using hit), if_pos left]

/-- R53: an outer loop on its last pass closes and falls through where the inner loop does not end. -/
theorem Ctx.loopEnd_outer_close {c : Ctx} {next : Word} (miss : ¬ (c.lc1.active = true ∧ next = c.lc1.last))
    (hit : c.lc0.active = true ∧ next = c.lc0.last) (last : c.lc0.count = 0) :
    c.loopEnd next = { c with lc0 := { c.lc0 with active := false }, pc := next } := by
  rw [Ctx.loopEnd, if_neg (by simpa using miss), if_pos (by simpa using hit), if_neg (not_not_intro last)]

/-- R53: where no loop ends the check goes on to the sequential successor. -/
theorem Ctx.loopEnd_miss {c : Ctx} {next : Word} (miss1 : ¬ (c.lc1.active = true ∧ next = c.lc1.last))
    (miss0 : ¬ (c.lc0.active = true ∧ next = c.lc0.last)) : c.loopEnd next = { c with pc := next } := by
  rw [Ctx.loopEnd, if_neg (by simpa using miss1), if_neg (by simpa using miss0)]

/-- Where the inner loop does not end, the check leaves it as it is. -/
theorem Ctx.loopEnd_lc1_of_miss {c : Ctx} {next : Word} (miss : ¬ (c.lc1.active = true ∧ next = c.lc1.last)) :
    (c.loopEnd next).lc1 = c.lc1 := by
  rw [Ctx.loopEnd, if_neg (by simpa using miss)]; split_ifs <;> rfl

/-- A jump sets the PC of its context, with no loop-end check (R53). -/
@[simp] theorem State.ctx_setPc_same (s : State) (w : Who) (target : Word) :
    (s.setPc w target).ctx w = { s.ctx w with pc := target } := State.ctx_modCtx_same _ _ _

/-! ## The inner loop's last pass, with each case of the outer loop -/

/-- R53: when the inner loop ends on its last pass it is closed, and the outer loop then jumps back, closes, or is not
at its end. -/
theorem Ctx.loopEnd_inner_last {c : Ctx} {next : Word} (hit : c.lc1.active = true ∧ next = c.lc1.last)
    (last : c.lc1.count = 0) :
    (c.loopEnd next).lc1.active = false ∧
    (c.lc0.active = true ∧ next = c.lc0.last → c.lc0.count ≠ 0 →
      (c.loopEnd next).pc = c.lc0.first ∧ (c.loopEnd next).lc0.count = c.lc0.count - 1) ∧
    (c.lc0.active = true ∧ next = c.lc0.last → c.lc0.count = 0 →
      (c.loopEnd next).pc = next ∧ (c.loopEnd next).lc0.active = false) ∧
    (¬ (c.lc0.active = true ∧ next = c.lc0.last) → (c.loopEnd next).pc = next ∧ (c.loopEnd next).lc0 = c.lc0) := by
  rw [Ctx.loopEnd_inner_close hit last]
  have miss := c.closeInner_miss next
  refine ⟨?_, fun outer left => ?_, fun outer last0 => ?_, fun outer => ?_⟩
  · rw [Ctx.loopEnd_lc1_of_miss miss]; rfl
  · rw [Ctx.loopEnd_outer_back miss outer left]; exact ⟨rfl, rfl⟩
  · rw [Ctx.loopEnd_outer_close miss outer last0]; exact ⟨rfl, rfl⟩
  · rw [Ctx.loopEnd_miss miss outer]; exact ⟨rfl, rfl⟩

/-- Settles O8: the successor of an instruction makes the check and a jump does not, and each case of the check is one of
the rules above. -/
theorem loopEndCheck : Obligations.LoopEndCheck :=
  ⟨fun s w i target => ⟨State.ctx_advance_same s w i, State.ctx_setPc_same s w target⟩,
   fun _ _ => ⟨Ctx.loopEnd_inner_back, Ctx.loopEnd_outer_back, Ctx.loopEnd_outer_close, Ctx.loopEnd_inner_last,
     Ctx.loopEnd_miss⟩⟩

end Sys2Proof.Machine
end

section
/-! # The integer forms (class 0x080): what each writes, and the bits and numbers that its result stands for (O1, O3) -/

namespace Sys2Proof.Machine

/-! ## The one effect of an integer form -/

/-- A form whose arm is a fixed-latency result has that result as its one effect. -/
theorem results_of_runResult {i : Instr} {s : State} {dist : Nat} {k : Who → State → RegWrite × BitVec 5}
    (arm : exec i s = runResult i s dist k) : Results i s dist (k s.focus s.own).1 (k s.focus s.own).2 :=
  fun ready => by rw [arm]; exact runResult_ready ready

/-- An integer form writes its function of the `g` registers, as the instruction's own effect finds them, and sets no
flag. -/
theorem results_of_resultG {i : Instr} {s : State} {dist d : Nat} {f : (Nat → Word) → Word}
    (arm : exec i s = resultG i s dist d f) : Results i s dist (.g d (f (s.own.g s.focus))) 0 :=
  results_of_runResult (k := fun w t => (.g d (f (t.g w)), 0)) (by rw [arm, resultG])

/-- Settles O1: each arm is one result at distance 1, a function of the `g` registers or, for `lea` from the PC, of the
PC. -/
theorem integerSumsAndLogic : Obligations.IntegerSumsAndLogic := fun _ d a b imm u =>
  ⟨results_of_resultG (f := fun g => g a + g b) rfl,
   results_of_resultG (f := fun g => g a + BitVec.ofInt 64 imm) rfl,
   results_of_resultG (f := fun g => g a - g b) rfl,
   results_of_resultG (f := fun g => g a &&& g b) rfl,
   results_of_resultG (f := fun g => g a &&& u16 u) rfl,
   results_of_resultG (f := fun g => g a ||| g b) rfl,
   results_of_resultG (f := fun g => g a ||| u16 u) rfl,
   results_of_resultG (f := fun g => g a ^^^ g b) rfl,
   results_of_resultG (f := fun g => g a ^^^ u16 u) rfl,
   results_of_resultG (f := fun _ => BitVec.ofInt 64 imm) rfl,
   results_of_resultG (f := fun _ => BitVec.ofNat 64 u) rfl,
   results_of_resultG (f := fun g => g a + BitVec.ofInt 64 imm) rfl,
   results_of_runResult (k := fun w t => (.g d ((t.ctx w).pc + BitVec.ofInt 64 imm), 0)) rfl⟩

/-! ## Rotation (R444) -/

/-- A rotation to the right by less than the width is the library's. -/
theorem rotate_eq_rotateRight (a : Word) {n : Nat} (hn : n < 64) : rotate a n = a.rotateRight n := by
  rw [BitVec.rotateRight_def, Nat.mod_eq_of_lt hn, rotate]

theorem getLsbD_rotate (a : Word) {n k : Nat} (hn : n < 64) (hk : k < 64) :
    (rotate a n).getLsbD k = a.getLsbD ((k + n) % 64) := by
  rw [rotate_eq_rotateRight a hn]
  by_cases low : k < 64 - n
  · rw [Nat.mod_eq_of_lt (by omega : k + n < 64), Nat.add_comm, BitVec.getLsbD_rotateRight_of_lt hn]
    simp only [low, decide_true, cond_true]
  · rw [show (k + n) % 64 = k - (64 - n) by omega, BitVec.getLsbD_rotateRight_of_lt hn]
    simp only [low, hk, decide_true, decide_false, cond_false, Bool.true_and]

/-! ## Bit fields (R369) -/

/-- The mask of a field has its ones in the field, and nowhere else. -/
theorem getLsbD_fieldMask (pos w : Nat) {k : Nat} (hk : k < 64) :
    (fieldMask pos w).getLsbD k = decide (pos ≤ k ∧ k < pos + w) := by
  rw [fieldMask, BitVec.natCast_eq_ofNat, BitVec.getLsbD_ofNat, Nat.testBit_shiftLeft, Nat.one_shiftLeft,
    Nat.testBit_two_pow_sub_one]
  rw [Bool.eq_iff_iff]; simp only [Bool.and_eq_true, decide_eq_true_eq]; omega

theorem getLsbD_extractField (a : Word) (pos w : Nat) {k : Nat} (hk : k < 64) :
    ((a >>> pos) &&& fieldMask 0 w).getLsbD k = (decide (k < w) && a.getLsbD (k + pos)) := by
  rw [BitVec.getLsbD_and, BitVec.getLsbD_ushiftRight, getLsbD_fieldMask 0 w hk, Bool.and_comm, Nat.add_comm pos]
  simp

theorem getLsbD_insertField (old a : Word) (pos w : Nat) {k : Nat} (hk : k < 64) :
    ((old &&& ~~~fieldMask pos w) ||| ((a <<< pos) &&& fieldMask pos w)).getLsbD k =
      if pos ≤ k ∧ k < pos + w then a.getLsbD (k - pos) else old.getLsbD k := by
  rw [BitVec.getLsbD_or, BitVec.getLsbD_and, BitVec.getLsbD_and, BitVec.getLsbD_not, BitVec.getLsbD_shiftLeft,
    getLsbD_fieldMask pos w hk]
  split_ifs with inside <;> simp [inside, hk]

/-! ## Counts (R383, R425) -/

theorem onesBelow_eq_length (x n : Nat) : onesBelow x n = ((List.range n).filter x.testBit).length := by
  induction n with
  | zero => rfl
  | succ n ih =>
    rw [onesBelow, ih, List.range_succ, List.filter_append, List.length_append, Nat.add_comm]
    cases h : x.testBit n <;> simp [h]

/-- The count of ones of a word fits in a word, and is the number of its bits that are set. -/
theorem toNat_onesBelow (a : Word) : (BitVec.ofNat 64 (onesBelow a.toNat 64)).toNat =
    ((List.range 64).filter (fun k => a.getLsbD k)).length := by
  have few : onesBelow a.toNat 64 ≤ 64 := by
    rw [onesBelow_eq_length]
    exact (List.length_filter_le _ _).trans_eq List.length_range
  rw [BitVec.toNat_ofNat, Nat.mod_eq_of_lt (by omega), onesBelow_eq_length]
  rfl

theorem leadingZeros_le (a : Word) : leadingZeros a ≤ 64 := by
  unfold leadingZeros; split_ifs <;> omega

/-- The zeros above the highest one of a word and the bits below it are the other 63 bits of the word. -/
theorem leadingZeros_add_log2 {a : Word} (ha : a ≠ 0) : leadingZeros a + a.toNat.log2 = 63 := by
  have place : a.toNat.log2 < 64 := (Nat.log2_lt (BitVec.toNat_ne_iff_ne.2 ha)).2 a.isLt
  rw [leadingZeros, if_neg ha]; omega

/-- Above the highest one of a word stand zeros. -/
theorem getLsbD_above_leadingZeros {a : Word} {k : Nat} (hk : k < leadingZeros a) : a.getLsbD (63 - k) = false := by
  by_cases ha : a = 0
  · rw [ha]; exact BitVec.getLsbD_zero
  · have places := leadingZeros_add_log2 ha
    have below : a.toNat < 2 ^ (63 - k) := (Nat.log2_lt (BitVec.toNat_ne_iff_ne.2 ha)).1 (by omega)
    exact Nat.testBit_lt_two_pow below

/-- A word with fewer than 64 leading zeros has a one below them. -/
theorem getLsbD_below_leadingZeros {a : Word} (h : leadingZeros a < 64) : a.getLsbD (63 - leadingZeros a) = true := by
  have ha : a ≠ 0 := fun zero => by simp [leadingZeros, zero] at h
  have places := leadingZeros_add_log2 ha
  rw [show 63 - leadingZeros a = a.toNat.log2 by omega]
  exact Nat.testBit_log2 (BitVec.toNat_ne_iff_ne.2 ha)

/-- The count of leading zeros as a word: it is at most 64, so many zeros stand on top, and a one below them. -/
theorem leadingZeros_word (a : Word) :
    let x := BitVec.ofNat 64 (leadingZeros a)
    x.toNat ≤ 64 ∧ (∀ k < x.toNat, a.getLsbD (63 - k) = false) ∧ (x.toNat < 64 → a.getLsbD (63 - x.toNat) = true) := by
  intro x
  have few := leadingZeros_le a
  have count : x.toNat = leadingZeros a := (BitVec.toNat_ofNat _ _).trans (Nat.mod_eq_of_lt (by omega))
  rw [count]
  exact ⟨few, fun _ => getLsbD_above_leadingZeros, getLsbD_below_leadingZeros⟩

/-! ## Minima, maxima and conditions (R91, R366, R425) -/

theorem toInt_selectMax (a b : Word) : (if b.sle a then a else b).toInt = max a.toInt b.toInt := by
  simp only [BitVec.sle_iff_toInt_le]; rw [max_comm, max_def, apply_ite BitVec.toInt]

theorem toInt_selectMin (a b : Word) : (if a.sle b then a else b).toInt = min a.toInt b.toInt := by
  simp only [BitVec.sle_iff_toInt_le]; rw [min_def, apply_ite BitVec.toInt]

theorem toNat_selectMax (a b : Word) : (if b.ule a then a else b).toNat = max a.toNat b.toNat := by
  simp only [BitVec.ule_iff_toNat_le]; rw [max_comm, max_def, apply_ite BitVec.toNat]

theorem toNat_selectMin (a b : Word) : (if a.ule b then a else b).toNat = min a.toNat b.toNat := by
  simp only [BitVec.ule_iff_toNat_le]; rw [min_def, apply_ite BitVec.toNat]

/-- Each integer condition compares the integers, signed or unsigned, that its operands stand for. -/
theorem intHolds_iff (a b : Word) :
    (intHolds .eq a b = true ↔ a = b) ∧ (intHolds .ne a b = true ↔ a ≠ b) ∧
    (intHolds .lt a b = true ↔ a.toInt < b.toInt) ∧ (intHolds .ge a b = true ↔ b.toInt ≤ a.toInt) ∧
    (intHolds .gt a b = true ↔ b.toInt < a.toInt) ∧ (intHolds .le a b = true ↔ a.toInt ≤ b.toInt) ∧
    (intHolds .ltu a b = true ↔ a.toNat < b.toNat) ∧ (intHolds .geu a b = true ↔ b.toNat ≤ a.toNat) ∧
    (intHolds .gtu a b = true ↔ b.toNat < a.toNat) ∧ (intHolds .leu a b = true ↔ a.toNat ≤ b.toNat) :=
  ⟨decide_eq_true_iff, decide_eq_true_iff, BitVec.slt_iff_toInt_lt, BitVec.sle_iff_toInt_le, BitVec.slt_iff_toInt_lt,
   BitVec.sle_iff_toInt_le, BitVec.ult_iff_toNat_lt, BitVec.ule_iff_toNat_le, BitVec.ult_iff_toNat_lt,
   BitVec.ule_iff_toNat_le⟩

/-- Settles O3: each arm is one result at distance 1, and the lemmas above read that result bit by bit or as a number. -/
theorem integerBitsAndComparisons : Obligations.IntegerBitsAndComparisons := by
  refine ⟨?_, intHolds_iff⟩
  intro s d a b c n pos w cc _ _ g m
  have hm : m < 64 := Nat.mod_lt _ (by decide)
  obtain ⟨few, zeros, one⟩ := leadingZeros_word (g a)
  exact
    ⟨results_of_resultG (f := fun g => g a <<< shiftCount (g b)) rfl,
     results_of_resultG (f := fun g => g a <<< n) rfl,
     results_of_resultG (f := fun g => g a >>> shiftCount (g b)) rfl,
     results_of_resultG (f := fun g => g a >>> n) rfl,
     results_of_resultG (f := fun g => (g a).sshiftRight (shiftCount (g b))) rfl,
     results_of_resultG (f := fun g => (g a).sshiftRight n) rfl,
     ⟨_, fun _ => getLsbD_rotate (g a) hm,
       results_of_resultG (f := fun g => rotate (g a) (shiftCount (g b))) rfl⟩,
     ⟨_, fun _ => getLsbD_extractField (g a) pos w,
       results_of_resultG (f := fun g => (g a >>> pos) &&& fieldMask 0 w) rfl⟩,
     ⟨_, fun _ => getLsbD_insertField (g d) (g a) pos w,
       results_of_resultG
         (f := fun g => (g d &&& ~~~fieldMask pos w) ||| ((g a <<< pos) &&& fieldMask pos w)) rfl⟩,
     ⟨_, toNat_onesBelow (g a), results_of_resultG (f := fun g => BitVec.ofNat 64 (onesBelow (g a).toNat 64)) rfl⟩,
     ⟨_, few, zeros, one,
       results_of_resultG (f := fun g => BitVec.ofNat 64 (leadingZeros (g a))) rfl⟩,
     results_of_resultG (f := fun g => if intHolds cc (g a) (g b) then 1 else 0) rfl,
     ⟨_, toInt_selectMax (g a) (g b), results_of_resultG (f := fun g => if (g b).sle (g a) then g a else g b) rfl⟩,
     ⟨_, toInt_selectMin (g a) (g b), results_of_resultG (f := fun g => if (g a).sle (g b) then g a else g b) rfl⟩,
     ⟨_, toNat_selectMax (g a) (g b), results_of_resultG (f := fun g => if (g b).ule (g a) then g a else g b) rfl⟩,
     ⟨_, toNat_selectMin (g a) (g b), results_of_resultG (f := fun g => if (g a).ule (g b) then g a else g b) rfl⟩,
     results_of_resultG (f := fun g => if g c ≠ 0 then g a else g b) rfl⟩

end Sys2Proof.Machine
end

section
/-! # Products, quotients and remainders (class 0x080): the integers that each result stands for (O2) -/

namespace Sys2Proof.Machine

/-! ## Products (R425) -/

theorem toNat_multiplyAdd (a b c : Word) : (a * b + c).toNat = (a.toNat * b.toNat + c.toNat) % 2 ^ 64 := by
  rw [BitVec.toNat_add, BitVec.toNat_mul, Nat.mod_add_mod]

/-- The high half of a signed product fits in a signed word: the product of two words is at most `2 ^ 126` in size. -/
theorem toInt_highSigned (a b : Word) :
    (BitVec.ofInt 64 (a.toInt * b.toInt / 2 ^ 64)).toInt = a.toInt * b.toInt / 2 ^ 64 := by
  have low : -2 ^ 126 ≤ a.toInt * b.toInt := BitVec.le_toInt_mul_toInt
  have high : a.toInt * b.toInt ≤ 2 ^ 126 := BitVec.toInt_mul_toInt_le
  exact BitVec.toInt_ofInt_eq_self (by decide) (by omega) (by omega)

/-- The high half of an unsigned product fits in a word: the product is below `2 ^ 128`. -/
theorem toNat_highUnsigned (a b : Word) :
    (BitVec.ofNat 64 (a.toNat * b.toNat / 2 ^ 64)).toNat = a.toNat * b.toNat / 2 ^ 64 := by
  have fits : a.toNat * b.toNat / 2 ^ 64 < 2 ^ 64 :=
    Nat.div_lt_of_lt_mul (Nat.mul_lt_mul'' a.isLt b.isLt)
  rw [BitVec.toNat_ofNat, Nat.mod_eq_of_lt fits]

/-! ## Quotients and remainders (R391, R441) -/

theorem divSigned_of_ne_zero (a : Word) {b : Word} (hb : b ≠ 0) :
    divSigned a b = BitVec.ofInt 64 (a.toInt.tdiv b.toInt) := if_neg hb

theorem divUnsigned_of_ne_zero (a : Word) {b : Word} (hb : b ≠ 0) : divUnsigned a b = a / b := if_neg hb

theorem remUnsigned_of_ne_zero (a : Word) {b : Word} (hb : b ≠ 0) : remUnsigned a b = a % b := if_neg hb

/-- The signed remainder is the library's, whose value never leaves the signed range. -/
theorem remSigned_of_ne_zero (a : Word) {b : Word} (hb : b ≠ 0) : remSigned a b = a.srem b := by
  rw [remSigned, if_neg hb, ← BitVec.toInt_srem, BitVec.ofInt_toInt]

/-- R391, R441: the signed quotient is rounded towards zero and wraps, and the remainder, which has the dividend's sign,
does not. -/
theorem divSigned_remSigned (a : Word) {b : Word} (hb : b ≠ 0) :
    divSigned a b = BitVec.ofInt 64 (a.toInt.tdiv b.toInt) ∧ (remSigned a b).toInt = a.toInt.tmod b.toInt :=
  ⟨divSigned_of_ne_zero a hb, by rw [remSigned_of_ne_zero a hb, BitVec.toInt_srem]⟩

/-- R391, R441: the unsigned quotient and remainder are those of the division with remainder below the divisor. -/
theorem divUnsigned_remUnsigned (a : Word) {b : Word} (hb : b ≠ 0) :
    a.toNat = (divUnsigned a b).toNat * b.toNat + (remUnsigned a b).toNat ∧ (remUnsigned a b).toNat < b.toNat := by
  have divisor : 0 < b.toNat := Nat.pos_of_ne_zero (BitVec.toNat_ne_iff_ne.2 hb)
  rw [divUnsigned_of_ne_zero a hb, remUnsigned_of_ne_zero a hb, BitVec.toNat_udiv, BitVec.toNat_umod]
  exact ⟨(Nat.div_add_mod' _ _).symm, Nat.mod_lt _ divisor⟩

/-- Division by zero (R391, R441), in the form that both pairs of quotient and remainder take. -/
theorem quotient_remainder_by_zero (a : Word) {b : Word} (hb : b = 0) :
    (divSigned a b = BitVec.allOnes 64 ∧ remSigned a b = a) ∧
    (divUnsigned a b = BitVec.allOnes 64 ∧ remUnsigned a b = a) := by
  subst hb; exact ⟨⟨rfl, rfl⟩, rfl, rfl⟩

/-- Settles O2: each arm is one result, at distance 3 for a product and 1 for a quotient or remainder, and the lemmas
above read that result over the integers. -/
theorem integerProductsAndQuotients : Obligations.IntegerProductsAndQuotients := by
  intro s d a b c g
  exact
    ⟨⟨_, BitVec.toNat_mul (g a) (g b), results_of_resultG (f := fun g => g a * g b) rfl⟩,
     ⟨_, toInt_highSigned (g a) (g b),
       results_of_resultG (f := fun g => BitVec.ofInt 64 ((g a).toInt * (g b).toInt / 2 ^ 64)) rfl⟩,
     ⟨_, toNat_highUnsigned (g a) (g b),
       results_of_resultG (f := fun g => BitVec.ofNat 64 ((g a).toNat * (g b).toNat / 2 ^ 64)) rfl⟩,
     ⟨_, toNat_multiplyAdd (g a) (g b) (g c), results_of_resultG (f := fun g => g a * g b + g c) rfl⟩,
     ⟨_, _, divSigned_remSigned (g a), fun zero => (quotient_remainder_by_zero (g a) zero).1,
       results_of_resultG (f := fun g => divSigned (g a) (g b)) rfl,
       results_of_resultG (f := fun g => remSigned (g a) (g b)) rfl⟩,
     ⟨_, _, divUnsigned_remUnsigned (g a), fun zero => (quotient_remainder_by_zero (g a) zero).2,
       results_of_resultG (f := fun g => divUnsigned (g a) (g b)) rfl,
       results_of_resultG (f := fun g => remUnsigned (g a) (g b)) rfl⟩⟩

end Sys2Proof.Machine
end
